-- ==== Sys2Proof/Word.lean ====
section
/-! DEFINITION. The word types of Edfen-3 (spec/02_encoding R40) and their plainest arithmetic. -/

namespace Sys2Proof

/-- A 32-bit register, instruction or data word. -/
abbrev Word := BitVec 32

/-- One byte of memory. -/
abbrev Byte := BitVec 8

/-- A 64-bit doubleword: a page-table entry, a key set, a notify register, a hart register. -/
abbrev DWord := BitVec 64

end Sys2Proof
end

