-- ==== Sys2Proof/Syntax.lean ====
section
/-! DEFINITION. The syntax of Edfen-3 steps: source operands and formats (spec/02_encoding R48, R51), the hub's custom words
(spec/14_hub R436), and the arguments of the events and commands. -/

namespace Sys2Proof

/-- A decoded 7-bit source field (R51). A literal carries its word, or `none` when it would lie beyond the header's count (R53). -/
inductive Src where
  | reg (r : BitVec 6)
  | latch (l : BitVec 2)
  | port (q : BitVec 3)
  | lit (w : Option Word)
  /-- An inline integer from -16 to 15 in two's complement. -/
  | inl (v : BitVec 5)
  /-- A reserved value of the field, kept as it stands: 67 to 71 and 80 to 94. -/
  | rsv (v : BitVec 7)
  deriving DecidableEq, Repr

/-- R format: d, nw, hd, a, b. -/
structure RFmt where
  d : BitVec 6
  nw : Bool
  hd : Bool
  a : Src
  b : Src
  deriving DecidableEq, Repr

/-- M format: d, tk, w, a, sc. A literal a is the offset word of R56, or WIN's length. -/
structure MFmt where
  d : BitVec 6
  tk : BitVec 4
  w : BitVec 3
  a : Src
  sc : BitVec 2
  deriving DecidableEq, Repr

/-- B format: condition register, cond, signed word offset. -/
structure BFmt where
  c : BitVec 6
  cond : BitVec 4
  off : BitVec 12
  deriving DecidableEq, Repr

/-- E format: d, tk, first register and count of the record block. -/
structure EFmt where
  d : BitVec 6
  tk : BitVec 4
  first : BitVec 6
  count : BitVec 6
  deriving DecidableEq, Repr

/-- A hub custom-0 word (R436): rd, rs1, rs2. -/
structure HFmt where
  rd : BitVec 5
  rs1 : BitVec 5
  rs2 : BitVec 5
  deriving DecidableEq, Repr

/-- A pipeline: of a cluster, or the single pipeline of gateway core `clu` when `gw` (01_ties, 13_gateways R409). -/
structure PipeId where
  die : Nat
  gw : Bool
  clu : Nat
  pipe : Nat
  deriving DecidableEq, Repr

/-- Who issues: a wave, or one of its lanes when the lane runs on its own (06_group R223, R226). -/
structure Issuer where
  wave : Nat
  lane : Option Nat
  deriving DecidableEq, Repr

/-- The three kinds of keyring (01_ties R21). -/
inductive KrId where
  | cluster (die clu : Nat)
  | die (n : Nat)
  | hub
  deriving DecidableEq, Repr

/-- A unit that power gating acts on (04_pipeline R147). -/
inductive GateUnit where
  | pipe (p : PipeId)
  | cluster (die clu : Nat)
  deriving DecidableEq, Repr

/-- RISC-V privilege modes of a hart (14_hub R427). -/
inductive HartMode where
  | m | hs | vs | vu | u
  deriving DecidableEq, Repr

/-- What a hart's device-memory access does (14_hub R431). -/
inductive HartOp where
  | load
  | store
  | amoAdd | amoSwap | amoAnd | amoOr | amoXor | amoMin | amoMax | amoMinu | amoMaxu
  | lr
  | sc
  /-- FENCE with its predecessor and successor sets: bits 0 to 3 are w, r, o and i. -/
  | fence (pred succ : BitVec 4)
  deriving DecidableEq, Repr

/-- A hart's access to a hart physical address: `rd` receives a load's or AMO's old value, `data` is the stored value; `aq` and `rl` are those
of an AMO, LR or SC. -/
structure HartAccess where
  hart : Nat
  op : HartOp
  addr : Nat
  size : Nat
  rd : BitVec 5
  data : DWord
  aq : Bool := false
  rl : Bool := false
  deriving DecidableEq, Repr

/-- A hub command as a store to doubleword 0 issues it (14_hub R439): all eight doublewords of the area. -/
structure HubCmd where
  hart : Nat
  dw : List DWord
  deriving DecidableEq, Repr

/-- Where a mailbox command comes from (15_sextant R449, R454). -/
inductive MailSrc where
  | port (p : Nat)
  | sideband
  deriving DecidableEq, Repr

/-- CONFIG's arguments (15_sextant R449): PKGID, the packages of the domain, port pairs and silence thresholds. -/
structure ConfigArgs where
  pkgid : BitVec 12
  domain : List (BitVec 12)
  pairs : List (Nat × Nat × BitVec 12)
  thresholds : List (Nat × Nat × Nat)
  deriving DecidableEq, Repr

/-- The reset domains of 15_sextant R450 with their targets. -/
inductive ResetTarget where
  | package
  | die (n : Nat)
  | cluster (die clu : Nat)
  deriving DecidableEq, Repr

/-- A firmware image as it is found (15_sextant R451): which of the four it is, in their order; whether its signature verifies against the
fused key; its version and its digest. -/
structure FwImage where
  slot : Fin 4
  valid : Bool
  version : Nat
  digest : BitVec 256
  deriving DecidableEq, Repr

/-- What the boot ROM finds (15_sextant R451): the four images in their order. -/
structure BootImages where
  sextant : FwImage
  hub : FwImage
  edfen2 : FwImage
  edfen1 : FwImage
  deriving DecidableEq, Repr

/-- A mailbox command with its arguments, as the sideband carries it (15_sextant R454). -/
inductive MailCmd where
  | config (a : ConfigArgs)
  | standby (l : List (BitVec 12 × BitVec 12))
  | lift (pkg : BitVec 12)
  | setbudget (b : Nat) (shares : List Nat)
  | reach (lo hi : BitVec 12)
  | reset (t : ResetTarget)
  | fwupdate (img : FwImage)
  | attest (nonce : BitVec 256) (buf : Nat)
  | extend (reg : Nat) (digest : BitVec 256)
  | counters
  deriving DecidableEq, Repr

/-- An instruction's format, with its opcode and fields; a hub word has its funct3 instead, and an event has no word. -/
inductive WordForm where
  | r (op : Nat) (f : RFmt)
  | m (op : Nat) (f : MFmt)
  | b (op : Nat) (f : BFmt)
  | e (op : Nat) (f : EFmt)
  | h (funct3 : Nat) (f : HFmt)
  | event
  deriving DecidableEq, Repr

/-- Every row of spec/opcode_table.json: the 211 words of the Edfen maps (02_encoding R65 to R67), the four custom-0 words of
the hub harts (14_hub R436), and the 107 events and commands of 95_what_each_step_holds, whose arguments say where they happen. -/
inductive Instr where
  /-- R123. Copies the bits and the tag of source a to register d, NONE included. -/
  | mov (f : RFmt)
  /-- R115. Adds the two sources element by element under the common tag. -/
  | add (f : RFmt)
  /-- R115. Subtracts source b from source a element by element. -/
  | sub (f : RFmt)
  /-- R115. Multiplies the two sources element by element. -/
  | mul (f : RFmt)
  /-- R115. Writes bits 63:32 of the signed 64-bit product of two I32 sources. -/
  | mulh (f : RFmt)
  /-- R115. Writes bits 63:32 of the unsigned 64-bit product of two I32 sources. -/
  | mulhu (f : RFmt)
  /-- R116. Computes a times b plus d with one rounding, reading d as a third source. -/
  | fma (f : RFmt)
  /-- R118. Divides source a by source b, signed for integers. -/
  | div (f : RFmt)
  /-- R118. Divides source a by source b as unsigned integers. -/
  | divu (f : RFmt)
  /-- R118. Writes the signed remainder of a divided by b. -/
  | rem (f : RFmt)
  /-- R118. Writes the unsigned remainder of a divided by b. -/
  | remu (f : RFmt)
  /-- R115. Writes the signed smaller of the two sources per element. -/
  | min (f : RFmt)
  /-- R115. Writes the signed larger of the two sources per element. -/
  | max (f : RFmt)
  /-- R115. Writes the unsigned smaller of the two sources per element. -/
  | minu (f : RFmt)
  /-- R115. Writes the unsigned larger of the two sources per element. -/
  | maxu (f : RFmt)
  /-- R115. Writes the absolute value of source a per element. -/
  | abs (f : RFmt)
  /-- R115. Writes the negation of source a per element. -/
  | neg (f : RFmt)
  /-- R120. Writes the bitwise AND of the two sources with the tag of a. -/
  | and (f : RFmt)
  /-- R120. Writes the bitwise OR of the two sources with the tag of a. -/
  | or (f : RFmt)
  /-- R120. Writes the bitwise exclusive OR of the two sources with the tag of a. -/
  | xor (f : RFmt)
  /-- R120. Writes a AND NOT b with the tag of a. -/
  | andn (f : RFmt)
  /-- R120. Shifts a left by bits 4:0 of b. -/
  | shl (f : RFmt)
  /-- R120. Shifts a logically right by bits 4:0 of b. -/
  | shr (f : RFmt)
  /-- R120. Shifts a arithmetically right by bits 4:0 of b. -/
  | sra (f : RFmt)
  /-- R120. Rotates a right by bits 4:0 of b. -/
  | rot (f : RFmt)
  /-- R120. Writes the count of leading zeros of a as I32. -/
  | clz (f : RFmt)
  /-- R120. Writes the count of set bits of a as I32. -/
  | popc (f : RFmt)
  /-- R120. Extracts a zero-extended bit field of a named by position and width in b. -/
  | bfx (f : RFmt)
  /-- R120. Extracts a sign-extended bit field of a named by position and width in b. -/
  | bfxs (f : RFmt)
  /-- R120. Replaces a bit field of d with the low bits of a. -/
  | bfi (f : RFmt)
  /-- R121. Selects bits of a where d is set and of b where d is clear. -/
  | sel (f : RFmt)
  /-- R122. Writes an all-ones or all-zeros I32 mask per element for a = b. -/
  | cmpEq (f : RFmt)
  /-- R122. Writes an element mask for a not equal to b. -/
  | cmpNe (f : RFmt)
  /-- R122. Writes an element mask for a < b, signed. -/
  | cmpLt (f : RFmt)
  /-- R122. Writes an element mask for a ≤ b, signed. -/
  | cmpLe (f : RFmt)
  /-- R122. Writes an element mask for a < b, unsigned. -/
  | cmpLtu (f : RFmt)
  /-- R122. Writes an element mask for a ≤ b, unsigned. -/
  | cmpLeu (f : RFmt)
  /-- R122. Writes an element mask where either element is NaN. -/
  | cmpUn (f : RFmt)
  /-- R117. Writes the correctly rounded square root of a per element. -/
  | sqrt (f : RFmt)
  /-- R117. Writes the correctly rounded reciprocal of a per element. -/
  | rcp (f : RFmt)
  /-- R117. Writes 2 to the power a per element, correctly rounded. -/
  | exp2 (f : RFmt)
  /-- R117. Writes the base-2 logarithm of a per element, correctly rounded. -/
  | log2 (f : RFmt)
  /-- R124. Converts element b mod E of a to F32. -/
  | cvtF32 (f : RFmt)
  /-- R124. Converts element b mod E of a to I32 under the rounding mode. -/
  | cvtI32 (f : RFmt)
  /-- R125. Packs a and b converted to BF16 into one BF16X2 word. -/
  | cvtBf16x2 (f : RFmt)
  /-- R125. Packs a and b converted to F16 into one F16X2 word. -/
  | cvtF16x2 (f : RFmt)
  /-- R125. Shifts d left by 16 and inserts a and b converted to E4M3. -/
  | cvtE4m3x4 (f : RFmt)
  /-- R125. As CVT.E4M3X4 with saturation of overflow to ±448. -/
  | cvtE4m3x4Sat (f : RFmt)
  /-- R125. Shifts d left by 16 and inserts a and b converted to E5M2. -/
  | cvtE5m2x4 (f : RFmt)
  /-- R125. Shifts d left by 16 and inserts a and b converted to I8 with clamping. -/
  | cvtI8x4 (f : RFmt)
  /-- R125. Packs a and b converted to I16 into one I16X2 word. -/
  | cvtI16x2 (f : RFmt)
  /-- R126. Joins the row exchange and, when it completes, writes the agreed shared exponent to d and QSC. -/
  | qmax (f : RFmt)
  /-- R127. Quantises two F32 sources to 8-bit block mantissas shifted into d. -/
  | qntB8 (f : RFmt)
  /-- R127. Quantises two F32 sources to 4-bit block mantissas shifted into d. -/
  | qntB4 (f : RFmt)
  /-- R127. Quantises two F32 sources to 2-bit block mantissas shifted into d. -/
  | qntB2 (f : RFmt)
  /-- R128. Dequantises element b of a block register at QSC.E to F32. -/
  | deq (f : RFmt)
  /-- R129. Copies the bits of a to d and sets d's tag from b. -/
  | tagset (f : RFmt)
  /-- R129. Writes the tag of a as an I32. -/
  | tagget (f : RFmt)
  /-- R107. Reads the control word numbered by a into d as I32. -/
  | cwr (f : RFmt)
  /-- R107. Writes source b to the control word numbered by a, including SVCTHR writes of context 0x000. -/
  | cww (f : RFmt)
  /-- R111. Acquires an extended register block, parking until entries are free. -/
  | regx (f : RFmt)
  /-- R111. Acquires an extended register block or returns FULL without parking. -/
  | regxNb (f : RFmt)
  /-- R111. Returns the extended block to POOL, which may grant blocked requests. -/
  | regrel (f : RFmt)
  /-- R131. Transfers control unconditionally to a header relative to the current one. -/
  | br (f : BFmt)
  /-- R131. Transfers control when the condition on register c holds; traps DIVG if non-uniform in a fused wave. -/
  | brc (f : BFmt)
  /-- R131. Writes the return address to g6:g7 and branches. -/
  | call (f : BFmt)
  /-- R131. Transfers control to the address in an ADDR pair, marked as a return. -/
  | ret (f : RFmt)
  /-- R131. Transfers control to the address in an ADDR pair. -/
  | jmpr (f : RFmt)
  /-- R131. Writes the return address to a pair and transfers to the address in another pair. -/
  | brl (f : RFmt)
  /-- R133. Traps TRAPI with TRAPADDR set from source a. -/
  | trap (f : RFmt)
  /-- R142. Leaves the trap handler, restoring latches and resuming at EPC and SLOT. -/
  | eret (f : RFmt)
  /-- R134. Checks pointers, releases at SYS, posts a service record to the hub keyring and parks until accepted or refused. -/
  | svc (f : RFmt)
  /-- R133. Traps BRK with TRAPADDR holding the BRK word. -/
  | brk (f : RFmt)
  /-- R137. Parks until a named port holds an available record and writes the mask of such ports. -/
  | wfm (f : RFmt)
  /-- R138. Ends the wave once its tokens, untokened operations and pending launches are done. -/
  | retire (f : RFmt)
  /-- R139. Makes the wave yielding after its current clause ends. -/
  | yield (f : RFmt)
  /-- R64. Installs a decode map for a target context in the system context, or returns a refusal status. -/
  | dmap (f : RFmt)
  /-- R123. Has no effect. -/
  | nop (f : RFmt)
  /-- R130. Adds a sign-extended I32 offset to an ADDR pair. -/
  | addp (f : RFmt)
  /-- R191. Loads a 4-byte word tagged I32. -/
  | ldI32 (f : MFmt)
  /-- R191. Loads a 4-byte word tagged F32. -/
  | ldF32 (f : MFmt)
  /-- R191. Loads a 4-byte word tagged BF16X2. -/
  | ldBf16x2 (f : MFmt)
  /-- R191. Loads a 4-byte word tagged F16X2. -/
  | ldF16x2 (f : MFmt)
  /-- R191. Loads a 4-byte word tagged E4M3X4. -/
  | ldE4m3x4 (f : MFmt)
  /-- R191. Loads a 4-byte word tagged E5M2X4. -/
  | ldE5m2x4 (f : MFmt)
  /-- R191. Loads a 4-byte word tagged I8X4. -/
  | ldI8x4 (f : MFmt)
  /-- R191. Loads a 4-byte word tagged I16X2. -/
  | ldI16x2 (f : MFmt)
  /-- R191. Loads a 4-byte word tagged BFP8X4. -/
  | ldBfp8x4 (f : MFmt)
  /-- R191. Loads a 4-byte word tagged BFP4X8. -/
  | ldBfp4x8 (f : MFmt)
  /-- R191. Loads a 4-byte word tagged BFP2X16. -/
  | ldBfp2x16 (f : MFmt)
  /-- R191. Loads a halfword's bits 8:0 tagged SCALE. -/
  | ldScale (f : MFmt)
  /-- R191. Loads 8 bytes into an even register pair tagged ADDR. -/
  | ldAddr (f : MFmt)
  /-- R191. Loads a sign-extended byte as I32. -/
  | ldSb (f : MFmt)
  /-- R191. Loads a zero-extended byte as I32. -/
  | ldZb (f : MFmt)
  /-- R191. Loads a sign-extended halfword as I32. -/
  | ldSh (f : MFmt)
  /-- R191. Loads a zero-extended halfword as I32. -/
  | ldZh (f : MFmt)
  /-- R191. Loads 16 bytes into four registers tagged I32. -/
  | ldqI32 (f : MFmt)
  /-- R191. Loads 16 bytes into four registers tagged F32. -/
  | ldqF32 (f : MFmt)
  /-- R191. Loads 32 bytes into eight registers tagged I32. -/
  | ldwI32 (f : MFmt)
  /-- R191. Loads 32 bytes into eight registers tagged F32. -/
  | ldwF32 (f : MFmt)
  /-- R192. Loads 32 bytes as I32 through the read-only path. -/
  | ldwRoI32 (f : MFmt)
  /-- R192. Loads 32 bytes as F32 through the read-only path. -/
  | ldwRoF32 (f : MFmt)
  /-- R66. LDW.RO.I32 at its Edfen-1 opcode 0x0A1. -/
  | ldwRoI32Edfen1 (f : MFmt)
  /-- R66. LDW.RO.F32 at its Edfen-1 opcode 0x0B2. -/
  | ldwRoF32Edfen1 (f : MFmt)
  /-- R194. Performs a 4-byte acquire read at the named scope. -/
  | lda (f : MFmt)
  /-- R193. Stores the 32 bits of d. -/
  | st (f : MFmt)
  /-- R193. Stores bits 7:0 of d. -/
  | stB8 (f : MFmt)
  /-- R193. Stores bits 15:0 of d. -/
  | stB16 (f : MFmt)
  /-- R193. Stores four registers as 16 bytes. -/
  | stq (f : MFmt)
  /-- R193. Stores eight registers as 32 bytes. -/
  | stw (f : MFmt)
  /-- R194. Performs a 4-byte release store at the named scope. -/
  | str (f : MFmt)
  /-- R195. Atomically adds an I32 to memory and returns the old value. -/
  | aadd (f : MFmt)
  /-- R195. Atomically adds an F32 to memory with RNE and returns the old value. -/
  | aaddF32 (f : MFmt)
  /-- R195. Atomically keeps the signed smaller value and returns the old value. -/
  | amin (f : MFmt)
  /-- R195. Atomically keeps the signed larger value and returns the old value. -/
  | amax (f : MFmt)
  /-- R195. Atomically keeps the unsigned smaller value and returns the old value. -/
  | aminu (f : MFmt)
  /-- R195. Atomically keeps the unsigned larger value and returns the old value. -/
  | amaxu (f : MFmt)
  /-- R195. Atomically ANDs into memory and returns the old value. -/
  | aand (f : MFmt)
  /-- R195. Atomically ORs into memory and returns the old value. -/
  | aor (f : MFmt)
  /-- R195. Atomically XORs into memory and returns the old value. -/
  | axor (f : MFmt)
  /-- R195. Atomically exchanges d with memory. -/
  | axchg (f : MFmt)
  /-- R195. Atomically compares memory with d and stores d+1 on equality, returning the old value. -/
  | acas (f : MFmt)
  /-- R196. Orders earlier reads before later accesses and invalidates the L1 at the scope. -/
  | fenceAcq (f : MFmt)
  /-- R196. Writes back the L1 and orders earlier accesses before later stores at the scope. -/
  | fenceRel (f : MFmt)
  /-- R196. Orders all earlier accesses before all later ones at the scope. -/
  | fenceAr (f : MFmt)
  /-- R197. Loads window wN from an ADDR pair and a length, translating its base. -/
  | win (f : MFmt)
  /-- R198. Writes the LIMIT of a window as I32. -/
  | winq (f : MFmt)
  /-- R199. Brings a line into the L1 and L2 without trapping. -/
  | pfetch (f : MFmt)
  /-- R200. Writes back a line's dirty bytes from the wave's L1 and keeps the line. -/
  | clean (f : MFmt)
  /-- R200. Writes back and invalidates a line in the wave's L1. -/
  | inval (f : MFmt)
  /-- R207. Arrives at a width-8 rendezvous and returns a status. -/
  | fuseW8 (f : RFmt)
  /-- R207. Arrives at a width-16 rendezvous and returns a status. -/
  | fuseW16 (f : RFmt)
  /-- R207. Arrives at a width-32 rendezvous and returns a status. -/
  | fuseW32 (f : RFmt)
  /-- R211. Splits a fused wave to a narrower width or dissolves a rejoin. -/
  | split (f : RFmt)
  /-- R219. Pushes a waypoint entry onto the divergence stack. -/
  | wpt (f : BFmt)
  /-- R220. Branches divergently, pushing a pending entry for the taken lanes. -/
  | brd (f : BFmt)
  /-- R221. Pops the divergence stack and resumes the recorded lanes. -/
  | join (f : RFmt)
  /-- R232. Writes the mask of active lanes whose a has any bit set. -/
  | ballot (f : RFmt)
  /-- R232. Writes all ones if any active lane's a is non-zero. -/
  | vany (f : RFmt)
  /-- R232. Writes all ones if every active lane's a is non-zero. -/
  | vall (f : RFmt)
  /-- R233. Copies a from lane b mod W. -/
  | shflIdx (f : RFmt)
  /-- R233. Copies a from lane i − b. -/
  | shflUp (f : RFmt)
  /-- R233. Copies a from lane i + b. -/
  | shflDn (f : RFmt)
  /-- R233. Copies a from lane i XOR b. -/
  | shflXor (f : RFmt)
  /-- R234. Writes the sum over active lanes, rounded once. -/
  | rdxAdd (f : RFmt)
  /-- R234. Writes the minimum over active lanes. -/
  | rdxMin (f : RFmt)
  /-- R234. Writes the maximum over active lanes. -/
  | rdxMax (f : RFmt)
  /-- R234. Writes each active lane's inclusive prefix sum. -/
  | scanAdd (f : RFmt)
  /-- R231. Writes the lane number. -/
  | laneid (f : RFmt)
  /-- R231. Writes LIVE, MEMB, DDEPTH or JMASK as selected by a. -/
  | maskrd (f : RFmt)
  /-- R236. Arrives at a team barrier and parks until the phase completes. -/
  | bar (f : RFmt)
  /-- R236. Arrives at a team barrier without parking and returns the phase. -/
  | barArr (f : RFmt)
  /-- R236. Parks until a barrier passes the given phase. -/
  | barWt (f : RFmt)
  /-- R266. Pushes a record to the own cluster or die keyring, returning at the arrival event. -/
  | kpush (f : EFmt)
  /-- R266. Pushes a record and returns at acceptance. -/
  | kpushAck (f : EFmt)
  /-- R271. Pops a whole record from a bound port, parking until one is available. -/
  | kpop (f : RFmt)
  /-- R271. Pops a whole record or writes zeros without parking. -/
  | kpopNb (f : RFmt)
  /-- R269. Binds a port to a keyring, class and key mask. -/
  | kbind (f : RFmt)
  /-- R270. Unbinds a port and discards its unread words. -/
  | kunbind (f : RFmt)
  /-- R272. Reads a keyring snapshot count at its arrival event. -/
  | kqry (f : RFmt)
  /-- R267. Sends a record to any cluster or die keyring of the domain. -/
  | msend (f : EFmt)
  /-- R65. MSEND at its Edfen-2 and Edfen-1 opcode 0x0E9. -/
  | msendEdfen2 (f : EFmt)
  /-- R268. Pushes a COUNT record decrementing a dependence count. -/
  | kdec (f : EFmt)
  /-- R65. KDEC at its Edfen-2 and Edfen-1 opcode 0x0EA. -/
  | kdecEdfen2 (f : EFmt)
  /-- R300. Pushes a matrix multiply-accumulate job. -/
  | mjobMma (f : EFmt)
  /-- R300. Pushes a matrix multiply job that first zeroes the tile. -/
  | mjobMmz (f : EFmt)
  /-- R300. Pushes a weight-load job with operator KEEP. -/
  | mjobWld (f : EFmt)
  /-- R300. Pushes a job that stores a tile to memory or scratchpad. -/
  | mjobAco (f : EFmt)
  /-- R300. Pushes a job that loads a tile. -/
  | mjobAci (f : EFmt)
  /-- R300. Pushes a job that zeroes a tile. -/
  | mjobZero (f : EFmt)
  /-- R302. Parks until a matrix job has ended or read, then returns its completion word. -/
  | mwait (f : RFmt)
  /-- R303. Returns a matrix job's completion word without parking. -/
  | mqry (f : RFmt)
  /-- R304. Withdraws an undispatched matrix job. -/
  | mcancel (f : RFmt)
  /-- R305. Sets the team's LIVE tile mask as a keyring event. -/
  | live (f : RFmt)
  /-- R306. Configures a scratchpad ring or publishes entries to it. -/
  | ringPub (f : RFmt)
  /-- R307. Parks until a ring has n free entries. -/
  | ringWt (f : RFmt)
  /-- R329. Pushes a state-space layer job. -/
  | sscan (f : EFmt)
  /-- R331. Pushes a job copying bytes into state memory. -/
  | ssld (f : EFmt)
  /-- R331. Pushes a job copying bytes out of state memory. -/
  | ssst (f : EFmt)
  /-- R332. Parks until a state-space job has ended or read. -/
  | sswait (f : RFmt)
  /-- R333. Reads a job's completion word or progress, or reads or sets SSTHR. -/
  | ssqry (f : RFmt)
  /-- R352. Pushes a multidimensional copy or prefetch job. -/
  | cpy (f : EFmt)
  /-- R353. Pushes a gather job. -/
  | cpyg (f : EFmt)
  /-- R353. Pushes a scatter job. -/
  | cpys (f : EFmt)
  /-- R354. Parks until a completion counter falls to a threshold. -/
  | cpyw (f : RFmt)
  /-- R355. Reads a copy job's completion word, batches, a counter or OUTST. -/
  | cpyq (f : RFmt)
  /-- R356. Withdraws an undispatched copy job. -/
  | cpyc (f : RFmt)
  /-- R386. Pushes a SPAWN record creating a one-wave team. -/
  | spawn (f : EFmt)
  /-- R387. Pushes a spawn carrier COUNT record. -/
  | spawnDep (f : EFmt)
  /-- R388. Queues a child launch record, parking on a full pending-launch queue. -/
  | launch (f : EFmt)
  /-- R388. Queues a child launch record or returns FULL. -/
  | launchNb (f : EFmt)
  /-- R389. Parks until the pending-launch queue drains and a counter word reads zero. -/
  | cwait (f : RFmt)
  /-- R390. Reads a counter word, queue occupancy, package counter or ready-queue count. -/
  | cqry (f : RFmt)
  /-- R391. Parks until a notify register differs from a value. -/
  | nwait (f : RFmt)
  /-- R392. Sets the priority of the wave's grid. -/
  | prio (f : RFmt)
  /-- R404. Issues a stack-engine gather job. -/
  | sgath (f : EFmt)
  /-- R403. Issues a near-memory FP32 add reduction. -/
  | sredAddF32 (f : EFmt)
  /-- R403. Issues a near-memory BF16 add reduction. -/
  | sredAddBf16 (f : EFmt)
  /-- R403. Issues a near-memory FP32 max reduction. -/
  | sredMaxF32 (f : EFmt)
  /-- R403. Issues a near-memory block add-and-requantise. -/
  | sredBadd (f : EFmt)
  /-- R405. Issues a stack-engine format conversion job. -/
  | sconv (f : EFmt)
  /-- R406. Parks until a stack job has ended or read. -/
  | swait (f : RFmt)
  /-- R406. Reads a stack job's completion word, units or OUTST. -/
  | sqry (f : RFmt)
  /-- R423. Adds one register block into another by block add-and-requantise on a gateway core. -/
  | badd (f : RFmt)
  /-- R424. Takes one queued block from the gateway block queue, completing held records unless HOLD. -/
  | bqpop (f : RFmt)
  /-- R425. Sends a RED record from the gateway link engine. -/
  | lsnd (f : EFmt)
  /-- R426. Reads Tildor port status, replay count, silence count or fence state. -/
  | lstat (f : RFmt)
  /-- R448. Reads a die energy counter snapshot into a register pair. -/
  | enrd (f : RFmt)
  /-- R448. Reserves energy from the die's remaining allowance. -/
  | enrsv (f : RFmt)
  /-- R448. Releases reserved energy back to the allowance. -/
  | enrel (f : RFmt)
  /-- R448. Reads allowance, remaining allowance, reservation, duty numerator or interval count. -/
  | enqry (f : RFmt)
  /-- R437. Releases at SYS, then writes a notify register and returns its old value, waking NWAIT waiters. -/
  | nset (f : HFmt)
  /-- R437. Reads a notify register and acquires at SYS. -/
  | nget (f : HFmt)
  /-- R438. Takes an SVC or FAULT record from the hub service keyring into a buffer and returns a handle. -/
  | svcpop (f : HFmt)
  /-- R438. Completes a taken record: replies to SVC, resolves or fails a translation fault, resumes or terminates a double fault. -/
  | svcdone (f : HFmt)
  /-- R102. A free pipeline grants the next eligible fused group or solo wave and its clause's first slot issues. -/
  | clauseSelect (p : PipeId)
  /-- R105. An instruction-cache line arrives, making the waiting wave eligible or resuming a stalled clause. -/
  | headerFetchComplete (i : Issuer)
  /-- R216. A fused wave's PASSED count reaches 8 and it reserves its pipelines. -/
  | groupReserve (w : Nat)
  /-- R190. A tokened memory operation completes, writing its destination and decrementing its token. -/
  | memoryAccessComplete (i : Issuer) (k : Nat)
  /-- R112. A parked REGX reaches REGXWAIT issue cycles and traps REGXSTALL. -/
  | regxstall (i : Issuer)
  /-- R209. After the drain, a completed rendezvous becomes one fused wave. -/
  | groupForm (team base : Nat)
  /-- R211. After the drain, a SPLIT creates the new waves with an acquire-release. -/
  | splitFinish (i : Issuer)
  /-- R225. When every lane of JMASK is parked at JPOINT and drained, the group rejoins. -/
  | groupRejoin (w : Nat)
  /-- R214. A banking switch finishes writing back and invalidating its slices. -/
  | bankingSwitchComplete (die clu base : Nat)
  /-- R138. After its drains, a retiring wave releases at SYS, passes completion and frees its resources. -/
  | retireFinish (i : Issuer)
  /-- R147. A pipeline's or cluster's idle count reaches its threshold and gating entry begins. -/
  | powerGateEntry (u : GateUnit)
  /-- R148. At cycle c + 10 WAKE is sampled and the entry either aborts or commits. -/
  | powerGateCommitCheck (u : GateUnit)
  /-- R148. A waking event sets WAKE on a gated unit, which begins to wake. -/
  | powerGateWake (u : GateUnit)
  /-- R148. A waking or aborted unit finishes its sequence and may issue again. -/
  | powerGateReady (u : GateUnit)
  /-- R242. A push arrives at a keyring and folds into or creates a record. -/
  | keyringPushArrival (k : Nat)
  /-- R27. A durable push's journal write completes on the mirror die and it is accepted. -/
  | keyringAccept (k : Nat)
  /-- R249. A waiting record's selection count reaches 2^16 and its priority rises. -/
  | keyringPromote (kr : KrId) (k : Nat)
  /-- R251. A spilled record returns to a freed resident slot in arrival order. -/
  | spillRecordReturn (kr : KrId)
  /-- R145. A cluster keyring dispatches a handler MSG and creates a message handler wave. -/
  | messageHandlerStart (die clu : Nat)
  /-- R263. A die keyring moves a handler MSG to a cluster keyring of the handler set. -/
  | handlerMsgMove (die clu : Nat)
  /-- R31, R171. A compute die's cores suffer a fatal error and their work is lost; `stale` names bytes of memory as recovery finds them, of
  lines that the die's L2 had not yet written back. -/
  | dieFatalError (die : Nat) (stale : List (Nat × BitVec 8))
  /-- R261. The mirror die replays uncompleted durable records of a failed keyring. -/
  | journalReplay (die : Nat)
  /-- R287. The matrix engine selects an MJOB record when it has room for another job. -/
  | matrixJobDispatch (die clu : Nat)
  /-- R291. An MMA or MMZ job finishes or faults and writes its completion word. -/
  | mmaJobEnd (die clu k : Nat)
  /-- R280. A weight load finishes or faults and sets its slot metadata. -/
  | wldJobEnd (die clu k : Nat)
  /-- R285. An accumulator store job finishes or faults. -/
  | acoJobEnd (die clu k : Nat)
  /-- R286. An accumulator load job finishes or faults. -/
  | aciJobEnd (die clu k : Nat)
  /-- R286. A tile-zeroing job finishes. -/
  | zeroJobEnd (die clu k : Nat)
  /-- R292. A matrix job finishes reading its operands and sets RD. -/
  | matrixReadDone (die clu k : Nat)
  /-- R283. A ring job waits 4,096 cycles for an entry and is suspended at its panel boundary. -/
  | matrixJobSuspend (die clu k : Nat)
  /-- R319. The state-space block selects an SJOB record when it has room. -/
  | ssJobDispatch (die clu : Nat)
  /-- R326. An SSCAN part writes its output rows and state. -/
  | sscanPartComplete (die clu k : Nat)
  /-- R330. An SSCAN job ends DONE or FAULT and releases its writes. -/
  | sscanJobEnd (die clu k : Nat)
  /-- R331. An SSLD job finishes copying into state memory. -/
  | ssldJobEnd (die clu k : Nat)
  /-- R331. An SSST job finishes copying out of state memory. -/
  | ssstJobEnd (die clu k : Nat)
  /-- R323. A state-space job finishes its reads and sets RD. -/
  | ssReadDone (die clu k : Nat)
  /-- R345. The copy unit selects a CJOB record when it has room. -/
  | copyJobDispatch (die clu : Nat)
  /-- R344. A copy batch performs its writes and decrements its counter in order. -/
  | copyBatchComplete (die clu k : Nat)
  /-- R343. A copy job ends DONE or FAULT. -/
  | copyJobEnd (die clu k : Nat)
  /-- R340. A prefetch job finishes bringing its rows into the L2. -/
  | copyPrefetchEnd (die clu k : Nat)
  /-- R346. A copy job finishes reading its sources and list and sets RD. -/
  | copyReadDone (die clu k : Nat)
  /-- R393. Every part of a stack-engine job ends and the job ends. -/
  | stackJobEnd (k : Nat)
  /-- R396. A stack job finishes reading its sources, indices and scales. -/
  | stackReadDone (k : Nat)
  /-- R401. In-place expansion of a COMP page completes and stalled writes proceed. -/
  | compExpandComplete (k : Nat)
  /-- R360. A host's 64-byte write to a launch port is checked and posted to the hub keyring. -/
  | hostLaunchPost (port : Nat) (rec : List (BitVec 32))
  /-- R362. A hub or die sends a launch or spawn record to the die keyring chosen by its bearing. -/
  | launchForward (kr : KrId)
  /-- R372. The leader's pending-launch queue sends its next entry or resends a refused one. -/
  | pendingLaunchSend (team : Nat)
  /-- R364. A die scheduler with a free ready-queue entry dispatches a LAUNCH or SPAWN record. -/
  | schedulerDispatch (die : Nat)
  /-- R366. A die scheduler places the first fitting team in priority and dispatch order. -/
  | placementRound (die : Nat)
  /-- R365. A ready-queue entry passed over by 256 placements becomes reserving. -/
  | entryReserve (die k : Nat)
  /-- R368. An idle die sends a steal request to a ring neighbour. -/
  | stealRequest (die : Nat)
  /-- R369. A victim die gives up stealable work or refuses. -/
  | stealAnswer (die : Nat)
  /-- R368. 1,024 cycles after a refusal the idle die sends its next steal request. -/
  | stealRetryTimer (die : Nat)
  /-- R375. The cluster scheduler takes a latched carrier and pushes the SPAWN record built from it. -/
  | spawnCarrierFire (die clu : Nat)
  /-- R376. A die passes its completed teams to the grid's package counter. -/
  | completionPass (die grid : Nat)
  /-- R379. The die scheduler swaps out a swap-eligible team to make room. -/
  | swapOut (team : Nat)
  /-- R380. A grid whose NWAIT share meets SVCTHR is swapped out team by team. -/
  | gridSwapOut (grid : Nat)
  /-- R381. A swapped-out team whose awaited condition holds re-enters the ready queue. -/
  | readmission (team : Nat)
  /-- R383. Within 2^20 sextant cycles of a die failure, CWAIT waiters on an affected grid resume with BROKEN. -/
  | cwaitBroken (i : Issuer)
  /-- R415. A Tildor port trains at the highest common generation and lane count. -/
  | linkTrain (die port : Nat) (t3 half : Bool) (peer : BitVec 12)
  /-- R415. A port loses lanes and retrains on half of them. -/
  | laneLoss (die port : Nat)
  /-- R415. A flit failing its CRC is replayed by link-level retry. -/
  | flitRetry (die port : Nat)
  /-- R418. A valid flit arrives and resets the port's silence count. -/
  | flitReceive (die port : Nat)
  /-- R418. A port idle for 2^12 cycles sends a heartbeat flit. -/
  | heartbeatSend (die port : Nat)
  /-- R418. A port's silence count reaches its threshold and it enters SILENT. -/
  | portSilent (die port : Nat)
  /-- R419. A fence notice from a neighbour makes the package fence the named package. -/
  | fenceNotice (pkg : BitVec 12)
  /-- R430. A hart accesses device virtual memory through the aperture in context HCTX. -/
  | hartApertureAccess (a : HartAccess)
  /-- R429. A hart accesses device physical memory through the physical window. -/
  | hartPhysAccess (a : HartAccess)
  /-- R428. A write to a hub custom CSR or other register with no row of its own. -/
  | hubCsrWrite (hart : Nat) (csr : BitVec 12) (v : BitVec 64)
  /-- R163. Hub command that shoots down a context's translations over a range. -/
  | shoot (c : HubCmd)
  /-- R410. Hub command that starts a gateway wave. -/
  | gwstart (c : HubCmd)
  /-- R441. Hub command that creates a context from a descriptor. -/
  | ctxnew (c : HubCmd)
  /-- R441. Hub command that changes masked fields of a context. -/
  | ctxset (c : HubCmd)
  /-- R441. Hub command that suspends a context. -/
  | ctxsusp (c : HubCmd)
  /-- R441. Hub command that swaps a context out. -/
  | ctxswap (c : HubCmd)
  /-- R441. Hub command that resumes a suspended or swapped context. -/
  | ctxres (c : HubCmd)
  /-- R441. Hub command that tears a context down. -/
  | ctxtear (c : HubCmd)
  /-- R441. Hub command that migrates a page to a new frame. -/
  | migrate (c : HubCmd)
  /-- R439. Hub command that resets a cluster and replays its durable records. -/
  | clreset (c : HubCmd)
  /-- R439. A command with an unknown OP or reserved bit completes with REFUSED. -/
  | hubCommandUnknown (c : HubCmd)
  /-- R439. A hub command finishes and writes its status to notify register N of context 0x000. -/
  | hubCommandComplete (hart : Nat)
  /-- R166. A migration copy round ends and the next round or the freeze begins. -/
  | migrationRoundEnd (k : Nat)
  /-- R166. The frozen page's last lines are copied, the entry switched and stalled accesses resumed. -/
  | migrationSwitch (k : Nat)
  /-- R444. A host port writes OWN = 1 to request the semaphore. -/
  | semRequest (port : Nat)
  /-- R444. A host port writes OWN = 0 to release the semaphore. -/
  | semRelease (port : Nat)
  /-- R444. A host port loses its link, releasing the semaphore if it holds it. -/
  | hostLinkDown (port : Nat)
  /-- R449. Mailbox command that sets PKGID, port pairs and silence thresholds. -/
  | config (src : MailSrc) (a : ConfigArgs)
  /-- R421. Mailbox command that sets the standby list. -/
  | standby (src : MailSrc) (l : List (BitVec 12 × BitVec 12))
  /-- R419. Mailbox command that ends the fence of a named package. -/
  | lift (src : MailSrc) (pkg : BitVec 12)
  /-- R445. Mailbox command that sets the package budget and die shares. -/
  | setbudget (src : MailSrc) (b : Nat) (shares : List Nat)
  /-- R449. Mailbox command that sets the contexts a port may reach. -/
  | reach (src : MailSrc) (lo hi : BitVec 12)
  /-- R450. Mailbox command that resets the package, a die's cores or a cluster. -/
  | reset (src : MailSrc) (t : ResetTarget)
  /-- R451. Mailbox command that verifies and stages a firmware image. -/
  | fwupdate (src : MailSrc) (img : FwImage)
  /-- R453. Mailbox command that writes a signed attestation report. -/
  | attest (src : MailSrc) (nonce : BitVec 256) (buf : Nat)
  /-- R452. Mailbox command that extends measurement register 4 to 7. -/
  | extend (src : MailSrc) (reg : Nat) (digest : BitVec 256)
  /-- R449. Mailbox command that returns refusal, discard, error and dirty-line logs. -/
  | counters (src : MailSrc)
  /-- R449. A mailbox command finishes and writes its status with bit 63 set. -/
  | mailboxComplete (src : MailSrc)
  /-- R442. A host's 64-bit write to a notify window acts as NSET. -/
  | hostNotifyWrite (port : Nat) (ctx idx : Nat) (v : BitVec 64)
  /-- R442. A host's read of a notify window acts as NGET. -/
  | hostNotifyRead (port : Nat) (ctx idx : Nat)
  /-- R442. A host accesses device memory through its CXL.mem range. -/
  | hostMemoryAccess (port : Nat) (addr : Nat) (size : Nat) (data : Option (List (BitVec 8)))
  /-- R442. A host access to an unlisted BAR0 offset is discarded or aborted and counted. -/
  | hostUnmappedAccess (port : Nat) (write : Bool)
  /-- R454. An MCTP message on I3C issues a mailbox command as the semaphore holder. -/
  | sidebandCommand (m : MailCmd)
  /-- R450. The whole package is reset. -/
  | packageReset
  /-- R451. The sextant verifies and loads its firmware, hub firmware and decode maps. -/
  | boot (b : BootImages)
  /-- R34. A die's 2^20-cycle budget interval ends, setting the next duty limit and lapsing reservations. -/
  | budgetIntervalEnd (die : Nat)
  /-- R445. The sextant adds a die's metered energy to its counter. -/
  | energyMeterUpdate (die : Nat) (uj : Nat)
  /-- R31. The hub suffers a fatal error, which lies outside the accepted-work guarantee and is reported by the sextant. -/
  | hubFatalError
  deriving DecidableEq, Repr

end Sys2Proof
end

