-- ==== Sys2Proof/Decode.lean ====
section
/-! DEFINITION. The encoding of Edfen-3 words (spec/02_encoding R48 to R58, R65 to R67) and of the hub's custom-0 words
(spec/14_hub R436): decoding of any word, total and rejecting what no map holds, and the encoder written from the same tables. -/

namespace Sys2Proof

/-- What the tables of spec/02_encoding say of an opcode: the bits of the 22 below it that must be zero because the instruction
does not use their field (R49), and the class (R43). -/
inductive OpClass where
  | a | m | e | g | s
  deriving DecidableEq, Repr

/-- Part of the R format rows of R65 to R67. -/
def rTable0 : List (Nat × (RFmt → Instr)) := [
  (0x001, .mov), (0x002, .add), (0x003, .sub), (0x004, .mul),
  (0x005, .mulh), (0x006, .mulhu), (0x007, .fma), (0x008, .div),
  (0x009, .divu), (0x00A, .rem), (0x00B, .remu), (0x00C, .min),
  (0x00D, .max), (0x00E, .minu), (0x00F, .maxu), (0x010, .abs),
  (0x011, .neg), (0x012, .and), (0x013, .or), (0x014, .xor),
  (0x015, .andn), (0x016, .shl), (0x017, .shr), (0x018, .sra),
  (0x019, .rot), (0x01A, .clz), (0x01B, .popc), (0x01C, .bfx),
  (0x01D, .bfxs), (0x01E, .bfi), (0x01F, .sel), (0x020, .cmpEq)]

/-- Part of the R format rows of R65 to R67. -/
def rTable1 : List (Nat × (RFmt → Instr)) := [
  (0x021, .cmpNe), (0x022, .cmpLt), (0x023, .cmpLe), (0x024, .cmpLtu),
  (0x025, .cmpLeu), (0x026, .cmpUn), (0x027, .sqrt), (0x028, .rcp),
  (0x029, .exp2), (0x02A, .log2), (0x02B, .cvtF32), (0x02C, .cvtI32),
  (0x02D, .cvtBf16x2), (0x02E, .cvtF16x2), (0x02F, .cvtE4m3x4), (0x030, .cvtE4m3x4Sat),
  (0x031, .cvtE5m2x4), (0x032, .cvtI8x4), (0x033, .cvtI16x2), (0x034, .qmax),
  (0x035, .qntB8), (0x036, .qntB4), (0x037, .qntB2), (0x038, .deq),
  (0x039, .tagset), (0x03A, .tagget), (0x03B, .cwr), (0x03C, .cww),
  (0x03D, .regx), (0x03E, .regxNb), (0x03F, .regrel), (0x043, .ret)]

/-- Part of the R format rows of R65 to R67. -/
def rTable2 : List (Nat × (RFmt → Instr)) := [
  (0x044, .jmpr), (0x045, .brl), (0x046, .trap), (0x047, .eret),
  (0x048, .svc), (0x049, .brk), (0x04A, .wfm), (0x04B, .retire),
  (0x04C, .yield), (0x04D, .dmap), (0x04E, .nop), (0x04F, .addp),
  (0x0C0, .fuseW8), (0x0C1, .fuseW16), (0x0C2, .fuseW32), (0x0C3, .split),
  (0x0C6, .join), (0x0C7, .ballot), (0x0C8, .vany), (0x0C9, .vall),
  (0x0CA, .shflIdx), (0x0CB, .shflUp), (0x0CC, .shflDn), (0x0CD, .shflXor),
  (0x0CE, .rdxAdd), (0x0CF, .rdxMin), (0x0D0, .rdxMax), (0x0D1, .scanAdd),
  (0x0D2, .laneid), (0x0D3, .maskrd), (0x0D4, .bar), (0x0D5, .barArr)]

/-- Part of the R format rows of R65 to R67. -/
def rTable3 : List (Nat × (RFmt → Instr)) := [
  (0x0D6, .barWt), (0x0E2, .kpop), (0x0E3, .kpopNb), (0x0E4, .kbind),
  (0x0E5, .kunbind), (0x0E6, .kqry), (0x0F6, .mwait), (0x0F7, .mqry),
  (0x0F8, .mcancel), (0x0F9, .live), (0x0FA, .ringPub), (0x0FB, .ringWt),
  (0x103, .sswait), (0x104, .ssqry), (0x113, .cpyw), (0x114, .cpyq),
  (0x115, .cpyc), (0x124, .cwait), (0x125, .cqry), (0x126, .nwait),
  (0x127, .prio), (0x136, .swait), (0x137, .sqry), (0x140, .badd),
  (0x141, .bqpop), (0x143, .lstat), (0x150, .enrd), (0x151, .enrsv),
  (0x152, .enrel), (0x153, .enqry)]

/-- Every R format opcode of the three maps (R65, R66, R67); no opcode has two meanings among them. -/
def rTable : List (Nat × (RFmt → Instr)) := rTable0 ++ rTable1 ++ rTable2 ++ rTable3

/-- Part of the M format rows of R65 to R67. -/
def mTable0 : List (Nat × (MFmt → Instr)) := [
  (0x080, .ldI32), (0x081, .ldF32), (0x082, .ldBf16x2), (0x083, .ldF16x2),
  (0x084, .ldE4m3x4), (0x085, .ldE5m2x4), (0x086, .ldI8x4), (0x087, .ldI16x2),
  (0x088, .ldBfp8x4), (0x089, .ldBfp4x8), (0x08A, .ldBfp2x16), (0x08B, .ldScale),
  (0x08C, .ldAddr), (0x08D, .ldSb), (0x08E, .ldZb), (0x08F, .ldSh),
  (0x090, .ldZh), (0x091, .ldqI32), (0x092, .ldqF32), (0x093, .ldwI32),
  (0x094, .ldwF32), (0x095, .ldwRoI32), (0x096, .ldwRoF32), (0x0A1, .ldwRoI32Edfen1),
  (0x0B2, .ldwRoF32Edfen1), (0x097, .lda), (0x098, .st), (0x099, .stB8),
  (0x09A, .stB16), (0x09B, .stq), (0x09C, .stw), (0x09D, .str)]

/-- Part of the M format rows of R65 to R67. -/
def mTable1 : List (Nat × (MFmt → Instr)) := [
  (0x09E, .aadd), (0x09F, .aaddF32), (0x0A0, .amin), (0x0A2, .amax),
  (0x0A3, .aminu), (0x0A4, .amaxu), (0x0A5, .aand), (0x0A6, .aor),
  (0x0A7, .axor), (0x0A8, .axchg), (0x0A9, .acas), (0x0AA, .fenceAcq),
  (0x0AB, .fenceRel), (0x0AC, .fenceAr), (0x0AD, .win), (0x0AE, .winq),
  (0x0AF, .pfetch), (0x0B0, .clean), (0x0B1, .inval)]

/-- Every M format opcode of the three maps (R65, R66, R67); no opcode has two meanings among them. -/
def mTable : List (Nat × (MFmt → Instr)) := mTable0 ++ mTable1

/-- Part of the B format rows of R65 to R67. -/
def bTable0 : List (Nat × (BFmt → Instr)) := [
  (0x040, .br), (0x041, .brc), (0x042, .call), (0x0C4, .wpt),
  (0x0C5, .brd)]

/-- Every B format opcode of the three maps (R65, R66, R67); no opcode has two meanings among them. -/
def bTable : List (Nat × (BFmt → Instr)) := bTable0

/-- Part of the E format rows of R65 to R67. -/
def eTable0 : List (Nat × (EFmt → Instr)) := [
  (0x0E0, .kpush), (0x0E1, .kpushAck), (0x0E7, .msend), (0x0E9, .msendEdfen2),
  (0x0E8, .kdec), (0x0EA, .kdecEdfen2), (0x0F0, .mjobMma), (0x0F1, .mjobMmz),
  (0x0F2, .mjobWld), (0x0F3, .mjobAco), (0x0F4, .mjobAci), (0x0F5, .mjobZero),
  (0x100, .sscan), (0x101, .ssld), (0x102, .ssst), (0x110, .cpy),
  (0x111, .cpyg), (0x112, .cpys), (0x120, .spawn), (0x121, .spawnDep),
  (0x122, .launch), (0x123, .launchNb), (0x130, .sgath), (0x131, .sredAddF32),
  (0x132, .sredAddBf16), (0x133, .sredMaxF32), (0x134, .sredBadd), (0x135, .sconv),
  (0x142, .lsnd)]

/-- Every E format opcode of the three maps (R65, R66, R67); no opcode has two meanings among them. -/
def eTable : List (Nat × (EFmt → Instr)) := eTable0

/-- Part of `opTable`. -/
def opTable0 : List (Nat × Nat × OpClass) := [
  (0x001, 0x00007F, .a), (0x002, 0x000000, .a), (0x003, 0x000000, .a), (0x004, 0x000000, .a),
  (0x005, 0x000000, .a), (0x006, 0x000000, .a), (0x007, 0x000000, .a), (0x008, 0x000000, .a),
  (0x009, 0x000000, .a), (0x00A, 0x000000, .a), (0x00B, 0x000000, .a), (0x00C, 0x000000, .a),
  (0x00D, 0x000000, .a), (0x00E, 0x000000, .a), (0x00F, 0x000000, .a), (0x010, 0x00007F, .a),
  (0x011, 0x00007F, .a), (0x012, 0x000000, .a), (0x013, 0x000000, .a), (0x014, 0x000000, .a),
  (0x015, 0x000000, .a), (0x016, 0x000000, .a), (0x017, 0x000000, .a), (0x018, 0x000000, .a),
  (0x019, 0x000000, .a), (0x01A, 0x00007F, .a), (0x01B, 0x00007F, .a), (0x01C, 0x000000, .a),
  (0x01D, 0x000000, .a), (0x01E, 0x000000, .a), (0x01F, 0x000000, .a), (0x020, 0x000000, .a),
  (0x021, 0x000000, .a), (0x022, 0x000000, .a), (0x023, 0x000000, .a), (0x024, 0x000000, .a),
  (0x025, 0x000000, .a), (0x026, 0x000000, .a), (0x027, 0x00007F, .a), (0x028, 0x00007F, .a)]

/-- Part of `opTable`. -/
def opTable1 : List (Nat × Nat × OpClass) := [
  (0x029, 0x00007F, .a), (0x02A, 0x00007F, .a), (0x02B, 0x000000, .a), (0x02C, 0x000000, .a),
  (0x02D, 0x000000, .a), (0x02E, 0x000000, .a), (0x02F, 0x000000, .a), (0x030, 0x000000, .a),
  (0x031, 0x000000, .a), (0x032, 0x000000, .a), (0x033, 0x000000, .a), (0x034, 0x000000, .s),
  (0x035, 0x000000, .a), (0x036, 0x000000, .a), (0x037, 0x000000, .a), (0x038, 0x000000, .a),
  (0x039, 0x000000, .a), (0x03A, 0x00007F, .a), (0x03B, 0x00007F, .a), (0x03C, 0x3FC000, .s),
  (0x03D, 0x00007F, .s), (0x03E, 0x00007F, .s), (0x03F, 0x3FFFFF, .s), (0x040, 0x3FF000, .a),
  (0x041, 0x000000, .a), (0x042, 0x3FF000, .a), (0x043, 0x3FC07F, .a), (0x044, 0x3FC07F, .a),
  (0x045, 0x00407F, .a), (0x046, 0x3FC07F, .a), (0x047, 0x3FFFFF, .s), (0x048, 0x000000, .s),
  (0x049, 0x3FFFFF, .a), (0x04A, 0x00007F, .s), (0x04B, 0x3FFFFF, .s), (0x04C, 0x3FFFFF, .s),
  (0x04D, 0x000000, .s), (0x04E, 0x3FFFFF, .a), (0x04F, 0x004000, .a), (0x080, 0x000000, .m)]

/-- Part of `opTable`. -/
def opTable2 : List (Nat × Nat × OpClass) := [
  (0x081, 0x000000, .m), (0x082, 0x000000, .m), (0x083, 0x000000, .m), (0x084, 0x000000, .m),
  (0x085, 0x000000, .m), (0x086, 0x000000, .m), (0x087, 0x000000, .m), (0x088, 0x000000, .m),
  (0x089, 0x000000, .m), (0x08A, 0x000000, .m), (0x08B, 0x000000, .m), (0x08C, 0x000000, .m),
  (0x08D, 0x000000, .m), (0x08E, 0x000000, .m), (0x08F, 0x000000, .m), (0x090, 0x000000, .m),
  (0x091, 0x000000, .m), (0x092, 0x000000, .m), (0x093, 0x000000, .m), (0x094, 0x000000, .m),
  (0x095, 0x000000, .m), (0x096, 0x000000, .m), (0x0A1, 0x000000, .m), (0x0B2, 0x000000, .m),
  (0x097, 0x000000, .m), (0x098, 0x000000, .m), (0x099, 0x000000, .m), (0x09A, 0x000000, .m),
  (0x09B, 0x000000, .m), (0x09C, 0x000000, .m), (0x09D, 0x000000, .m), (0x09E, 0x000000, .m),
  (0x09F, 0x000000, .m), (0x0A0, 0x000000, .m), (0x0A2, 0x000000, .m), (0x0A3, 0x000000, .m),
  (0x0A4, 0x000000, .m), (0x0A5, 0x000000, .m), (0x0A6, 0x000000, .m), (0x0A7, 0x000000, .m)]

/-- Part of `opTable`. -/
def opTable3 : List (Nat × Nat × OpClass) := [
  (0x0A8, 0x000000, .m), (0x0A9, 0x000000, .m), (0x0AA, 0x3F0FFC, .m), (0x0AB, 0x3F0FFC, .m),
  (0x0AC, 0x3F0FFC, .m), (0x0AD, 0x000003, .m), (0x0AE, 0x0001FF, .m), (0x0AF, 0x3F0000, .m),
  (0x0B0, 0x3F0000, .m), (0x0B1, 0x3F0000, .m), (0x0C0, 0x000000, .s), (0x0C1, 0x000000, .s),
  (0x0C2, 0x000000, .s), (0x0C3, 0x3FC07F, .g), (0x0C4, 0x3FF000, .g), (0x0C5, 0x000000, .g),
  (0x0C6, 0x3FFFFF, .g), (0x0C7, 0x00007F, .g), (0x0C8, 0x00007F, .g), (0x0C9, 0x00007F, .g),
  (0x0CA, 0x000000, .g), (0x0CB, 0x000000, .g), (0x0CC, 0x000000, .g), (0x0CD, 0x000000, .g),
  (0x0CE, 0x00007F, .g), (0x0CF, 0x00007F, .g), (0x0D0, 0x00007F, .g), (0x0D1, 0x00007F, .g),
  (0x0D2, 0x003FFF, .g), (0x0D3, 0x00007F, .g), (0x0D4, 0x000000, .m), (0x0D5, 0x000000, .m),
  (0x0D6, 0x000000, .m), (0x0E0, 0x000000, .e), (0x0E1, 0x000000, .e), (0x0E2, 0x00C07F, .e),
  (0x0E3, 0x00C07F, .e), (0x0E4, 0x000000, .e), (0x0E5, 0x3FC07F, .e), (0x0E6, 0x000000, .e)]

/-- Part of `opTable`. -/
def opTable4 : List (Nat × Nat × OpClass) := [
  (0x0E7, 0x000000, .e), (0x0E9, 0x000000, .e), (0x0E8, 0x000000, .e), (0x0EA, 0x000000, .e),
  (0x0F0, 0x000000, .e), (0x0F1, 0x000000, .e), (0x0F2, 0x000000, .e), (0x0F3, 0x000000, .e),
  (0x0F4, 0x000000, .e), (0x0F5, 0x000000, .e), (0x0F6, 0x000000, .e), (0x0F7, 0x00007F, .e),
  (0x0F8, 0x00007F, .e), (0x0F9, 0x3FC07F, .e), (0x0FA, 0x000000, .e), (0x0FB, 0x000000, .e),
  (0x100, 0x000000, .e), (0x101, 0x000000, .e), (0x102, 0x000000, .e), (0x103, 0x000000, .e),
  (0x104, 0x000000, .e), (0x110, 0x000000, .e), (0x111, 0x000000, .e), (0x112, 0x000000, .e),
  (0x113, 0x000000, .e), (0x114, 0x000000, .e), (0x115, 0x00007F, .e), (0x120, 0x000000, .e),
  (0x121, 0x000000, .e), (0x122, 0x000000, .e), (0x123, 0x000000, .e), (0x124, 0x00007F, .e),
  (0x125, 0x000000, .e), (0x126, 0x000000, .e), (0x127, 0x00007F, .e), (0x130, 0x000000, .e),
  (0x131, 0x000000, .e), (0x132, 0x000000, .e), (0x133, 0x000000, .e), (0x134, 0x000000, .e)]

/-- Part of `opTable`. -/
def opTable5 : List (Nat × Nat × OpClass) := [
  (0x135, 0x000000, .e), (0x136, 0x000000, .e), (0x137, 0x000000, .e), (0x140, 0x00407F, .a),
  (0x141, 0x00C07F, .e), (0x142, 0x000000, .e), (0x143, 0x00C07F, .e), (0x150, 0x00407F, .e),
  (0x151, 0x00007F, .e), (0x152, 0x00007F, .e), (0x153, 0x00007F, .e)]

/-- For each opcode: the bits 21:0 that must be zero (R49) and the class (R67). -/
def opTable : List (Nat × Nat × OpClass) := opTable0 ++ opTable1 ++ opTable2 ++ opTable3 ++ opTable4 ++ opTable5

/-- R45: the opcodes that end their clause. -/
def endsClause : List Nat := [0x040, 0x041, 0x042, 0x043, 0x044, 0x045, 0x047, 0x04B, 0x0C0, 0x0C1, 0x0C2, 0x0C3, 0x0C5, 0x0C6]

/-- 13_gateways R422: the opcodes that only a gateway core executes. -/
def gatewayOps : List Nat := [0x140, 0x141, 0x142, 0x143]

/-- The bits 21:0 an opcode leaves unused; an opcode of no map uses none. -/
def unusedBits (op : Nat) : Nat :=
  match opTable.find? (fun e => e.1 == op) with
  | some e => e.2.1
  | none => 0x3FFFFF

/-- The class of an opcode. -/
def classOf (op : Nat) : OpClass :=
  match opTable.find? (fun e => e.1 == op) with
  | some e => e.2.2
  | none => .a

/-- R65: opcodes of Edfen-3 that Edfen-2 unmaps. -/
def edfen2Unmapped : List Nat := [0x030, 0x037, 0x04F, 0x08A, 0x134, 0x100, 0x101, 0x102, 0x103, 0x104, 0x150, 0x151, 0x152, 0x153,
  0x0E7, 0x0E8]
/-- R65: opcodes that Edfen-2 adds: MSEND and KDEC at their older places. -/
def edfen2Added : List Nat := [0x0E9, 0x0EA]
/-- R66: opcodes of Edfen-2 that Edfen-1 unmaps. -/
def edfen1Unmapped : List Nat := [0x02F, 0x031, 0x084, 0x085, 0x095, 0x096, 0x0E1, 0x111, 0x112, 0x130, 0x131, 0x132, 0x133, 0x134,
  0x135, 0x136, 0x137, 0x141, 0x142, 0x143]
/-- R66: opcodes that Edfen-1 adds: the LDW.RO forms at their older places. -/
def edfen1Added : List Nat := [0x0A1, 0x0B2]

/-- R63, R65, R66: whether the decode map numbered `m` (0 Edfen-3, 1 Edfen-2, 2 Edfen-1) maps an opcode that some map holds. -/
def mapped (m : Nat) (op : Nat) : Bool :=
  match m with
  | 0 => !edfen2Added.contains op && !edfen1Added.contains op
  | 1 => !edfen2Unmapped.contains op && !edfen1Added.contains op
  | _ => !edfen2Unmapped.contains op && !edfen1Unmapped.contains op

/-- R51: a source field, with the instruction's next literal word where the field is 95. -/
def decodeSrc (v : BitVec 7) (lit : Option Word) : Src :=
  if v.toNat < 64 then .reg (v.setWidth 6)
  else if v.toNat < 67 then .latch (v.setWidth 2)
  else if v.toNat < 72 then .rsv v
  else if v.toNat < 80 then .port (v.setWidth 3)
  else if v.toNat < 95 then .rsv v
  else if v.toNat = 95 then .lit lit
  else .inl (v.setWidth 5 ^^^ 16#5)

/-- Whether an opcode uses the bits `hi : lo` of its word. -/
def usesField (op hi lo : Nat) : Bool := ((unusedBits op >>> lo) % 2 ^ (hi + 1 - lo)) == 0

/-- R53: the literal word of source b is the second one when a takes the first. -/
def litOfB (usesA : Bool) (a : BitVec 7) (lits : List Word) : Option Word :=
  if usesA && a.toNat == 95 then lits[1]? else lits[0]?

/-- R48, R format. -/
def decodeR (op : Nat) (w : Word) (lits : List Word) : RFmt :=
  let a := w.extractLsb' 7 7
  let b := w.extractLsb' 0 7
  { d := w.extractLsb' 16 6, nw := w.getLsbD 15, hd := w.getLsbD 14,
    a := decodeSrc a (if usesField op 13 7 then lits[0]? else none),
    b := decodeSrc b (if usesField op 6 0 then litOfB (usesField op 13 7) a lits else none) }

/-- R48, M format; the literal is the offset word, or WIN's length. -/
def decodeM (op : Nat) (w : Word) (lits : List Word) : MFmt :=
  { d := w.extractLsb' 16 6, tk := w.extractLsb' 12 4, w := w.extractLsb' 9 3,
    a := decodeSrc (w.extractLsb' 2 7) (if usesField op 8 2 then lits[0]? else none), sc := w.extractLsb' 0 2 }

/-- R48, B format. -/
def decodeB (w : Word) : BFmt := { c := w.extractLsb' 16 6, cond := w.extractLsb' 12 4, off := w.extractLsb' 0 12 }

/-- R48, E format. -/
def decodeE (w : Word) : EFmt :=
  { d := w.extractLsb' 16 6, tk := w.extractLsb' 12 4, first := w.extractLsb' 6 6, count := w.extractLsb' 0 6 }

/-- 14_hub R436: a RISC-V custom-0 word of a hub hart. -/
def decodeHub (w : Word) : Option Instr :=
  if w.extractLsb' 0 7 != 0x0B#7 || w.extractLsb' 25 7 != 0#7 then none
  else
    let f : HFmt := { rd := w.extractLsb' 7 5, rs1 := w.extractLsb' 15 5, rs2 := w.extractLsb' 20 5 }
    match (w.extractLsb' 12 3).toNat with
    | 0 => some (.nset f)
    | 1 => if f.rs2 == 0#5 then some (.nget f) else none
    | 2 => some (.svcpop f)
    | 3 => some (.svcdone f)
    | _ => none

/-- The instruction an Edfen word and the literal words after it stand for, whichever map holds its opcode; `none` for an
opcode that no map holds. -/
def decodeWord (w : Word) (lits : List Word) : Option Instr :=
  let op := (w.extractLsb' 22 10).toNat
  match rTable.find? (fun e => e.1 == op) with
  | some e => some (e.2 (decodeR op w lits))
  | none =>
    match mTable.find? (fun e => e.1 == op) with
    | some e => some (e.2 (decodeM op w lits))
    | none =>
      match eTable.find? (fun e => e.1 == op) with
      | some e => some (e.2 (decodeE w))
      | none =>
        match bTable.find? (fun e => e.1 == op) with
        | some e => some (e.2 (decodeB w))
        | none => none

/-- Which of the formats an instruction's word has, with its opcode; `event` for what has no word. -/
def formOf : Instr → WordForm
  | .mov f => .r 0x001 f
  | .add f => .r 0x002 f
  | .sub f => .r 0x003 f
  | .mul f => .r 0x004 f
  | .mulh f => .r 0x005 f
  | .mulhu f => .r 0x006 f
  | .fma f => .r 0x007 f
  | .div f => .r 0x008 f
  | .divu f => .r 0x009 f
  | .rem f => .r 0x00A f
  | .remu f => .r 0x00B f
  | .min f => .r 0x00C f
  | .max f => .r 0x00D f
  | .minu f => .r 0x00E f
  | .maxu f => .r 0x00F f
  | .abs f => .r 0x010 f
  | .neg f => .r 0x011 f
  | .and f => .r 0x012 f
  | .or f => .r 0x013 f
  | .xor f => .r 0x014 f
  | .andn f => .r 0x015 f
  | .shl f => .r 0x016 f
  | .shr f => .r 0x017 f
  | .sra f => .r 0x018 f
  | .rot f => .r 0x019 f
  | .clz f => .r 0x01A f
  | .popc f => .r 0x01B f
  | .bfx f => .r 0x01C f
  | .bfxs f => .r 0x01D f
  | .bfi f => .r 0x01E f
  | .sel f => .r 0x01F f
  | .cmpEq f => .r 0x020 f
  | .cmpNe f => .r 0x021 f
  | .cmpLt f => .r 0x022 f
  | .cmpLe f => .r 0x023 f
  | .cmpLtu f => .r 0x024 f
  | .cmpLeu f => .r 0x025 f
  | .cmpUn f => .r 0x026 f
  | .sqrt f => .r 0x027 f
  | .rcp f => .r 0x028 f
  | .exp2 f => .r 0x029 f
  | .log2 f => .r 0x02A f
  | .cvtF32 f => .r 0x02B f
  | .cvtI32 f => .r 0x02C f
  | .cvtBf16x2 f => .r 0x02D f
  | .cvtF16x2 f => .r 0x02E f
  | .cvtE4m3x4 f => .r 0x02F f
  | .cvtE4m3x4Sat f => .r 0x030 f
  | .cvtE5m2x4 f => .r 0x031 f
  | .cvtI8x4 f => .r 0x032 f
  | .cvtI16x2 f => .r 0x033 f
  | .qmax f => .r 0x034 f
  | .qntB8 f => .r 0x035 f
  | .qntB4 f => .r 0x036 f
  | .qntB2 f => .r 0x037 f
  | .deq f => .r 0x038 f
  | .tagset f => .r 0x039 f
  | .tagget f => .r 0x03A f
  | .cwr f => .r 0x03B f
  | .cww f => .r 0x03C f
  | .regx f => .r 0x03D f
  | .regxNb f => .r 0x03E f
  | .regrel f => .r 0x03F f
  | .br f => .b 0x040 f
  | .brc f => .b 0x041 f
  | .call f => .b 0x042 f
  | .ret f => .r 0x043 f
  | .jmpr f => .r 0x044 f
  | .brl f => .r 0x045 f
  | .trap f => .r 0x046 f
  | .eret f => .r 0x047 f
  | .svc f => .r 0x048 f
  | .brk f => .r 0x049 f
  | .wfm f => .r 0x04A f
  | .retire f => .r 0x04B f
  | .yield f => .r 0x04C f
  | .dmap f => .r 0x04D f
  | .nop f => .r 0x04E f
  | .addp f => .r 0x04F f
  | .ldI32 f => .m 0x080 f
  | .ldF32 f => .m 0x081 f
  | .ldBf16x2 f => .m 0x082 f
  | .ldF16x2 f => .m 0x083 f
  | .ldE4m3x4 f => .m 0x084 f
  | .ldE5m2x4 f => .m 0x085 f
  | .ldI8x4 f => .m 0x086 f
  | .ldI16x2 f => .m 0x087 f
  | .ldBfp8x4 f => .m 0x088 f
  | .ldBfp4x8 f => .m 0x089 f
  | .ldBfp2x16 f => .m 0x08A f
  | .ldScale f => .m 0x08B f
  | .ldAddr f => .m 0x08C f
  | .ldSb f => .m 0x08D f
  | .ldZb f => .m 0x08E f
  | .ldSh f => .m 0x08F f
  | .ldZh f => .m 0x090 f
  | .ldqI32 f => .m 0x091 f
  | .ldqF32 f => .m 0x092 f
  | .ldwI32 f => .m 0x093 f
  | .ldwF32 f => .m 0x094 f
  | .ldwRoI32 f => .m 0x095 f
  | .ldwRoF32 f => .m 0x096 f
  | .ldwRoI32Edfen1 f => .m 0x0A1 f
  | .ldwRoF32Edfen1 f => .m 0x0B2 f
  | .lda f => .m 0x097 f
  | .st f => .m 0x098 f
  | .stB8 f => .m 0x099 f
  | .stB16 f => .m 0x09A f
  | .stq f => .m 0x09B f
  | .stw f => .m 0x09C f
  | .str f => .m 0x09D f
  | .aadd f => .m 0x09E f
  | .aaddF32 f => .m 0x09F f
  | .amin f => .m 0x0A0 f
  | .amax f => .m 0x0A2 f
  | .aminu f => .m 0x0A3 f
  | .amaxu f => .m 0x0A4 f
  | .aand f => .m 0x0A5 f
  | .aor f => .m 0x0A6 f
  | .axor f => .m 0x0A7 f
  | .axchg f => .m 0x0A8 f
  | .acas f => .m 0x0A9 f
  | .fenceAcq f => .m 0x0AA f
  | .fenceRel f => .m 0x0AB f
  | .fenceAr f => .m 0x0AC f
  | .win f => .m 0x0AD f
  | .winq f => .m 0x0AE f
  | .pfetch f => .m 0x0AF f
  | .clean f => .m 0x0B0 f
  | .inval f => .m 0x0B1 f
  | .fuseW8 f => .r 0x0C0 f
  | .fuseW16 f => .r 0x0C1 f
  | .fuseW32 f => .r 0x0C2 f
  | .split f => .r 0x0C3 f
  | .wpt f => .b 0x0C4 f
  | .brd f => .b 0x0C5 f
  | .join f => .r 0x0C6 f
  | .ballot f => .r 0x0C7 f
  | .vany f => .r 0x0C8 f
  | .vall f => .r 0x0C9 f
  | .shflIdx f => .r 0x0CA f
  | .shflUp f => .r 0x0CB f
  | .shflDn f => .r 0x0CC f
  | .shflXor f => .r 0x0CD f
  | .rdxAdd f => .r 0x0CE f
  | .rdxMin f => .r 0x0CF f
  | .rdxMax f => .r 0x0D0 f
  | .scanAdd f => .r 0x0D1 f
  | .laneid f => .r 0x0D2 f
  | .maskrd f => .r 0x0D3 f
  | .bar f => .r 0x0D4 f
  | .barArr f => .r 0x0D5 f
  | .barWt f => .r 0x0D6 f
  | .kpush f => .e 0x0E0 f
  | .kpushAck f => .e 0x0E1 f
  | .kpop f => .r 0x0E2 f
  | .kpopNb f => .r 0x0E3 f
  | .kbind f => .r 0x0E4 f
  | .kunbind f => .r 0x0E5 f
  | .kqry f => .r 0x0E6 f
  | .msend f => .e 0x0E7 f
  | .msendEdfen2 f => .e 0x0E9 f
  | .kdec f => .e 0x0E8 f
  | .kdecEdfen2 f => .e 0x0EA f
  | .mjobMma f => .e 0x0F0 f
  | .mjobMmz f => .e 0x0F1 f
  | .mjobWld f => .e 0x0F2 f
  | .mjobAco f => .e 0x0F3 f
  | .mjobAci f => .e 0x0F4 f
  | .mjobZero f => .e 0x0F5 f
  | .mwait f => .r 0x0F6 f
  | .mqry f => .r 0x0F7 f
  | .mcancel f => .r 0x0F8 f
  | .live f => .r 0x0F9 f
  | .ringPub f => .r 0x0FA f
  | .ringWt f => .r 0x0FB f
  | .sscan f => .e 0x100 f
  | .ssld f => .e 0x101 f
  | .ssst f => .e 0x102 f
  | .sswait f => .r 0x103 f
  | .ssqry f => .r 0x104 f
  | .cpy f => .e 0x110 f
  | .cpyg f => .e 0x111 f
  | .cpys f => .e 0x112 f
  | .cpyw f => .r 0x113 f
  | .cpyq f => .r 0x114 f
  | .cpyc f => .r 0x115 f
  | .spawn f => .e 0x120 f
  | .spawnDep f => .e 0x121 f
  | .launch f => .e 0x122 f
  | .launchNb f => .e 0x123 f
  | .cwait f => .r 0x124 f
  | .cqry f => .r 0x125 f
  | .nwait f => .r 0x126 f
  | .prio f => .r 0x127 f
  | .sgath f => .e 0x130 f
  | .sredAddF32 f => .e 0x131 f
  | .sredAddBf16 f => .e 0x132 f
  | .sredMaxF32 f => .e 0x133 f
  | .sredBadd f => .e 0x134 f
  | .sconv f => .e 0x135 f
  | .swait f => .r 0x136 f
  | .sqry f => .r 0x137 f
  | .badd f => .r 0x140 f
  | .bqpop f => .r 0x141 f
  | .lsnd f => .e 0x142 f
  | .lstat f => .r 0x143 f
  | .enrd f => .r 0x150 f
  | .enrsv f => .r 0x151 f
  | .enrel f => .r 0x152 f
  | .enqry f => .r 0x153 f
  | .nset f => .h 0 f
  | .nget f => .h 1 f
  | .svcpop f => .h 2 f
  | .svcdone f => .h 3 f
  | .clauseSelect _ => .event
  | .headerFetchComplete _ => .event
  | .groupReserve _ => .event
  | .memoryAccessComplete _ _ => .event
  | .regxstall _ => .event
  | .groupForm _ _ => .event
  | .splitFinish _ => .event
  | .groupRejoin _ => .event
  | .bankingSwitchComplete _ _ _ => .event
  | .retireFinish _ => .event
  | .powerGateEntry _ => .event
  | .powerGateCommitCheck _ => .event
  | .powerGateWake _ => .event
  | .powerGateReady _ => .event
  | .keyringPushArrival _ => .event
  | .keyringAccept _ => .event
  | .keyringPromote _ _ => .event
  | .spillRecordReturn _ => .event
  | .messageHandlerStart _ _ => .event
  | .handlerMsgMove _ _ => .event
  | .dieFatalError _ _ => .event
  | .journalReplay _ => .event
  | .matrixJobDispatch _ _ => .event
  | .mmaJobEnd _ _ _ => .event
  | .wldJobEnd _ _ _ => .event
  | .acoJobEnd _ _ _ => .event
  | .aciJobEnd _ _ _ => .event
  | .zeroJobEnd _ _ _ => .event
  | .matrixReadDone _ _ _ => .event
  | .matrixJobSuspend _ _ _ => .event
  | .ssJobDispatch _ _ => .event
  | .sscanPartComplete _ _ _ => .event
  | .sscanJobEnd _ _ _ => .event
  | .ssldJobEnd _ _ _ => .event
  | .ssstJobEnd _ _ _ => .event
  | .ssReadDone _ _ _ => .event
  | .copyJobDispatch _ _ => .event
  | .copyBatchComplete _ _ _ => .event
  | .copyJobEnd _ _ _ => .event
  | .copyPrefetchEnd _ _ _ => .event
  | .copyReadDone _ _ _ => .event
  | .stackJobEnd _ => .event
  | .stackReadDone _ => .event
  | .compExpandComplete _ => .event
  | .hostLaunchPost _ _ => .event
  | .launchForward _ => .event
  | .pendingLaunchSend _ => .event
  | .schedulerDispatch _ => .event
  | .placementRound _ => .event
  | .entryReserve _ _ => .event
  | .stealRequest _ => .event
  | .stealAnswer _ => .event
  | .stealRetryTimer _ => .event
  | .spawnCarrierFire _ _ => .event
  | .completionPass _ _ => .event
  | .swapOut _ => .event
  | .gridSwapOut _ => .event
  | .readmission _ => .event
  | .cwaitBroken _ => .event
  | .linkTrain _ _ _ _ _ => .event
  | .laneLoss _ _ => .event
  | .flitRetry _ _ => .event
  | .flitReceive _ _ => .event
  | .heartbeatSend _ _ => .event
  | .portSilent _ _ => .event
  | .fenceNotice _ => .event
  | .hartApertureAccess _ => .event
  | .hartPhysAccess _ => .event
  | .hubCsrWrite _ _ _ => .event
  | .shoot _ => .event
  | .gwstart _ => .event
  | .ctxnew _ => .event
  | .ctxset _ => .event
  | .ctxsusp _ => .event
  | .ctxswap _ => .event
  | .ctxres _ => .event
  | .ctxtear _ => .event
  | .migrate _ => .event
  | .clreset _ => .event
  | .hubCommandUnknown _ => .event
  | .hubCommandComplete _ => .event
  | .migrationRoundEnd _ => .event
  | .migrationSwitch _ => .event
  | .semRequest _ => .event
  | .semRelease _ => .event
  | .hostLinkDown _ => .event
  | .config _ _ => .event
  | .standby _ _ => .event
  | .lift _ _ => .event
  | .setbudget _ _ _ => .event
  | .reach _ _ _ => .event
  | .reset _ _ => .event
  | .fwupdate _ _ => .event
  | .attest _ _ _ => .event
  | .extend _ _ _ => .event
  | .counters _ => .event
  | .mailboxComplete _ => .event
  | .hostNotifyWrite _ _ _ _ => .event
  | .hostNotifyRead _ _ _ => .event
  | .hostMemoryAccess _ _ _ _ => .event
  | .hostUnmappedAccess _ _ => .event
  | .sidebandCommand _ => .event
  | .packageReset => .event
  | .boot _ => .event
  | .budgetIntervalEnd _ => .event
  | .energyMeterUpdate _ _ => .event
  | .hubFatalError => .event

/-- R51: the value of a source field. -/
def encodeSrc : Src → BitVec 7
  | .reg r => r.setWidth 7
  | .latch l => 64#7 + l.setWidth 7
  | .port q => 72#7 + q.setWidth 7
  | .lit _ => 95#7
  | .inl v => 96#7 + (v ^^^ 16#5).setWidth 7
  | .rsv v => v

/-- The literal word of a source, where it has one. -/
def Src.lits : Src → List Word
  | .lit (some w) => [w]
  | _ => []

/-- R48: the instruction word of an R-format instruction. -/
def encodeR (op : Nat) (f : RFmt) : Word :=
  BitVec.ofNat 10 op ++ f.d ++ BitVec.ofBool f.nw ++ BitVec.ofBool f.hd ++ encodeSrc f.a ++ encodeSrc f.b

/-- R48: the instruction word of an M-format instruction. -/
def encodeM (op : Nat) (f : MFmt) : Word := BitVec.ofNat 10 op ++ f.d ++ f.tk ++ f.w ++ encodeSrc f.a ++ f.sc

/-- R48: the instruction word of a B-format instruction. -/
def encodeB (op : Nat) (f : BFmt) : Word := BitVec.ofNat 10 op ++ f.c ++ f.cond ++ f.off

/-- R48: the instruction word of an E-format instruction. -/
def encodeE (op : Nat) (f : EFmt) : Word := BitVec.ofNat 10 op ++ f.d ++ f.tk ++ f.first ++ f.count

/-- R436: a custom-0 word. -/
def encodeH (funct3 : Nat) (f : HFmt) : Word := 0#7 ++ f.rs2 ++ f.rs1 ++ BitVec.ofNat 3 funct3 ++ f.rd ++ 0x0B#7

/-- The instruction word of an instruction; an event has none and gives the word of all zeros. -/
def headWord (i : Instr) : Word :=
  match formOf i with
  | .r op f => encodeR op f
  | .m op f => encodeM op f
  | .b op f => encodeB op f
  | .e op f => encodeE op f
  | .h n f => encodeH n f
  | .event => 0#32

/-- R53: the literal words that follow an instruction word, a's first. -/
def literalsOf (i : Instr) : List Word :=
  match formOf i with
  | .r _ f => f.a.lits ++ f.b.lits
  | .m _ f => f.a.lits
  | _ => []

/-- The words of an instruction: its own and its literal words. -/
def encode (i : Instr) : List Word := headWord i :: literalsOf i

/-- The instruction whose bits are `w`, bit 0 the least significant of the first word: a custom-0 word where the opcode
field is 0 (no map holds opcode 0), and otherwise a word of the Edfen maps with literal words of zeros. -/
def decodeTableWord (nbits w : Nat) : Option Instr :=
  if nbits % 8 != 0 || nbits > 96 then none
  else
    let word := BitVec.ofNat 32 w
    let lits := [BitVec.ofNat 32 (w >>> 32), BitVec.ofNat 32 (w >>> 64)]
    if word.extractLsb' 22 10 == 0#10 then decodeHub word else decodeWord word lits

end Sys2Proof
end

