-- ==== Sys2Proof/Config.lean ====
section
/-! DEFINITION. What one Pelhild 9400 fixes (spec/00_scope R2, spec/07_keyring R21) and the model's free values: opaque
constants with no body, standing for a value the spec leaves open (each named in the assumption log). -/

namespace Sys2Proof.Config

/-- Compute dies of a package (01_ties, "Where a wave runs"). -/
def dies : Nat := 8
/-- Clusters of a compute die. -/
def clusters : Nat := 64
/-- Pipelines of a cluster. -/
def pipes : Nat := 32
/-- Wave slots of a pipeline. -/
def slots : Nat := 8
/-- Register-file entries of a pipeline (04_pipeline R99). -/
def pool : Nat := 512
/-- Hub harts (14_hub R427). -/
def harts : Nat := 24
/-- Bytes of scratchpad of a cluster. -/
def scratch : Nat := 2097152
/-- KiB of state memory of a cluster (09_statespace R309). -/
def stateKiB : Nat := 256
/-- Accumulator tiles of a cluster (08_matrix R284). -/
def tiles : Nat := 16
/-- Weight-buffer slots of a cluster (08_matrix R279). -/
def wslots : Nat := 64
/-- Lines of a 32 KiB L1 slice (06_group R214). -/
def sliceLines : Nat := 256
/-- Lines of a pipeline's 32 KiB instruction cache (04_pipeline R99). -/
def codeLines : Nat := 512
/-- Resident records of a cluster, die and hub keyring (01_ties R21). -/
def krCluster : Nat := 256
def krDie : Nat := 4096
def krHub : Nat := 8192

/-- FREE VALUE (log 9): where the device's choice of a private stream number starts (07_keyring R239). -/
opaque freeStream : Nat → BitVec 14
/-- FREE VALUE (log 4): which line of a full L1 slice or instruction cache is evicted; the spec names no replacement rule. -/
opaque freeVictim : Nat → BitVec 9
/-- FREE VALUE (log 23): what KQRY reads of the cluster keyring that a gateway core does not have (07_keyring R272). -/
opaque freeQuery : Nat → BitVec 32
/-- FREE VALUE (log 27): the status that a push to another package returns: what its keyrings and contexts answer is not this machine's
(07_keyring R267): 1 REFUSED, 2 TORN, 3 BROKEN, else OK. -/
opaque freeRemote : Nat → BitVec 2
/-- FREE VALUE (log 7): stval of a hart's exception for which the spec gives none (14_hub R436 to R438). -/
opaque freeStval : Nat → BitVec 64
/-- FREE VALUE (log 15): the digest by which a CONFIG command extends measurement register 3 (15_sextant R452): the spec gives its
arguments no layout. -/
opaque freeDigest : Nat → BitVec 256
/-- FREE VALUE (log 15): a byte of the SLH-DSA-SHA2-256s identity public key derived from the fused secret (15_sextant R453). -/
opaque identityByte : Nat → Byte
/-- FREE VALUE (log 15): a byte of the signature over bytes 0 to 359 of an attestation report (15_sextant R453). -/
opaque signatureByte : List Byte → Nat → Byte
/-- FREE VALUE (log 15): bytes 288 to 295 of an attestation report, from PKGID and the firmware versions: the spec gives them no layout. -/
opaque versionByte : BitVec 12 → List Nat → Nat → Byte
/-- FREE VALUE (log 98): the 64 bytes of a spilled record's side state, whose layout the spec does not give (07_keyring R251). -/
opaque freeSide : Nat → BitVec 512
/-- FREE VALUE (log 7): what a hart reads of the time CSR, a count of the hub's own reference (14_hub R427, 01_ties R36). -/
opaque freeTime : Nat → BitVec 64
/-- FREE VALUE (log 106): what a host reads at the launch port (15_sextant R442), for which the spec gives no contents. -/
opaque freePort : Nat → BitVec 512

end Sys2Proof.Config
end

