-- ==== Sys2Proof/Machine/State.lean ====
section
/-! DEFINITION. The state of the Pelhild 9400 as plain data (the INVENTORY's "State" names the rule of spec/ for every
field), the reasons a step can stop, and the state after reset. -/

namespace Sys2Proof.Machine

/-! ## Registers, traps and lanes -/

/-- The format tags of 03_numbers R85. -/
inductive Tag where
  | none | i32 | f32 | bf16x2 | f16x2 | e4m3x4 | e5m2x4 | i8x4 | i16x2 | bfp8x4 | bfp4x8 | bfp2x16 | scale | addr
  deriving DecidableEq, Repr

/-- A register: its 32 bits and its tag. -/
structure Reg where
  bits : Word
  tag : Tag
  deriving DecidableEq, Repr

/-- A register that nothing has written since it was acquired (R86, R101). -/
def Reg.empty : Reg := ⟨0#32, .none⟩

/-- The trap causes of 01_ties R38, without the double fault that no wave receives. -/
inductive Cause where
  | illop | illfld | illcls | fmt | align | pfault | prot | divg | brk | trapi | data | regxstall | priv | gwonly
  deriving DecidableEq, Repr

/-- The statuses of 01_ties R39. -/
inductive Status where
  | ok | full | depth | torn | badspace | broken | toobig | nopeer | mismatch | abort | refused | linkdown
  deriving DecidableEq, Repr

/-- A port of a lane (07_keyring R254). `buf` is the 16-word image being read, or no word. -/
structure Port where
  bound : Bool
  lvl : Bool
  cls : BitVec 4
  mtch : BitVec 48
  mask : BitVec 48
  buf : List Word
  ridx : Nat
  deriving DecidableEq, Repr

def Port.reset : Port := ⟨false, false, 0#4, 0#48, 0#48, [], 0⟩

/-- Entries of the divergence stack (06_group R218). -/
inductive DEntry where
  | wp (h : BitVec 54) (m : Word)
  | pend (h : BitVec 54) (m : Word)
  deriving DecidableEq, Repr

/-- A window (05_memory R152). `base` is the scratchpad offset for a scratchpad window. -/
structure Window where
  valid : Bool
  kind : Bool
  base : BitVec 54
  limit : BitVec 31
  run : Bool
  frame : BitVec 57
  attr : BitVec 17
  deriving DecidableEq, Repr

def Window.invalid : Window := ⟨false, false, 0#54, 0#31, false, 0#57, 0#17⟩

/-- What kind of outstanding operation a thread has. -/
inductive OpKind where
  | load
  | store
  /-- A read that later accesses wait for (R190). -/
  | acquire
  /-- A fence, and whether it releases (R196). -/
  | fence (rel : Bool)
  /-- A WIN that loads window `n` when it completes (R197). -/
  | win (n : Nat) (w : Window)
  | cache
  /-- An E-format instruction waiting for the statuses of its pushes (R59). -/
  | push
  deriving DecidableEq, Repr

/-- An outstanding operation of a thread (02_encoding R59, R60; 05_memory R190). -/
structure PendOp where
  k : Nat
  tok : BitVec 4
  kind : OpKind
  /-- Its accesses to other packages: lane, the address that TRAPADDR takes, and package (13_gateways R419). -/
  remote : List (Nat × BitVec 54 × BitVec 12) := []
  /-- Lane, register and value written at completion. -/
  writes : List (Nat × Nat × Reg)
  /-- The registers pending until completion. -/
  pend : List Nat
  /-- Lanes whose read met an uncorrectable error, with the address that TRAPADDR takes (R172). -/
  errs : List (Nat × BitVec 54)
  /-- Pushes whose status is still awaited. -/
  flights : List Nat
  deriving DecidableEq, Repr

/-- An engine whose jobs a wave can wait for. -/
inductive Engine where
  | matrix | sspace | copy | stack
  deriving DecidableEq, Repr

/-- What a parked thread waits for (04_pipeline R100, R104). The event that makes its condition hold completes the instruction, and the
thread goes on behind it; a slot that waits for port sources is made again (02_encoding R54). -/
inductive Wait where
  | nothing
  /-- Elements from ports, as (lane, port) in the order of their selections (07_keyring R256, R257). -/
  | ports (l : List (Nat × Nat))
  /-- Whole records from ports, as (lane, port) (R257, R271). -/
  | records (l : List (Nat × Nat))
  /-- WFM on the ports of a mask per lane (04_pipeline R137). -/
  | wfm (l : List (Nat × BitVec 8))
  /-- REGX for `x` entries on every pipeline; `cycles` issue cycles waited (R110, R112). Its grant completes it. -/
  | regx (x : Nat) (d : Option Nat) (hd : Bool) (cycles : Nat)
  /-- QMAX in the exchange of its set (R126): the lane's contribution and n. Completion of the exchange completes it. -/
  | qmax (m : Word) (bad : Bool) (n : Nat) (d : Option Nat) (hd : Bool)
  /-- BAR in a phase of a barrier (06_group R236). Completion of the phase completes it. -/
  | bar (b : Nat) (d : Option Nat) (hd : Bool)
  /-- BAR.WT (R236). -/
  | barWt (b : Nat) (p : Nat)
  /-- A FUSE rendezvous (R208). Its close completes it. -/
  | fuse (n : Nat) (key : Word) (d : Option Nat) (hd : Bool)
  /-- Behind a FUSE rendezvous that holds the arrival's pipeline (R208). -/
  | fuseBehind (n : Nat) (key : Word)
  /-- An accepted rendezvous drains (R209), a SPLIT drains (R211) or RETIRE drains (R138): a *_FINISH event completes it. -/
  | groupForm (d : Option Nat)
  | split (w : Nat)
  | retire
  /-- Pushes of SVC that are not yet accepted or refused (R134). Their statuses complete it. -/
  | svc
  /-- A page fault that the hub has not resolved (05_memory R164). -/
  | pageFault
  /-- A detached lane at JPOINT (06_group R225). The rejoin completes it. -/
  | jpoint
  /-- A detached lane that has retired (R224). -/
  | retired
  /-- The end of a job, or the end of its reads, of an engine (MWAIT, SSWAIT, SWAIT). That event completes it. -/
  | job (e : Engine) (id : Word) (readOnly : Bool) (d : Option Nat) (hd : Bool)
  /-- RING.WT for n free entries of a ring. -/
  | ring (r : Nat) (n : Nat)
  /-- CPYW until a completion counter is at most a threshold. -/
  | copyCount (c : Nat) (t : Word)
  /-- LAUNCH on a full pending-launch queue, with its block and d. The freed entry completes it (11_schedulers R372). -/
  | launchQueue (b : List Word) (d : Nat)
  /-- CWAIT on the counter word at an address, until the pending-launch queue is empty. -/
  | drained (va : BitVec 54)
  /-- CWAIT on the counter word at an address. -/
  | counter (va : BitVec 54)
  /-- NWAIT until bits 31:0 of a notify register differ from a value. A write event completes it (14_hub R433). -/
  | notify (i : Nat) (v : Word) (d : Option Nat) (hd : Bool)
  /-- BQPOP of a gateway core. -/
  | blockQueue
  deriving DecidableEq, Repr

/-- The slot states of 04_pipeline R100 that a resident wave can be in. -/
inductive SlotState where
  | ready | owning | parked | suspended
  deriving DecidableEq, Repr

/-- What runs clauses: a wave, or one of its lanes when it runs on its own. `slot` 0 names the header at `hdr` before its clause
is entered; 1 to 15 the next slot of the clause at `hdr`, whose COUNT, ALLOW and YIELD are kept. -/
structure Thread where
  st : SlotState
  hdr : BitVec 54
  slot : Nat
  count : Nat
  allow : BitVec 4
  yieldBit : Bool
  /-- The header at `hdr` is decoded again when the clause is resumed at `slot` (R142). -/
  redecode : Bool
  /-- The clause or a YIELD asked for yielding after the clause ends (R102, R139). -/
  willYield : Bool
  yielding : Bool
  /-- The clause has ended but untokened operations of it are outstanding (R59). -/
  ending : Bool
  /-- Where a fetch fault of the next header is reported: header and slot (R41). -/
  orgHdr : BitVec 54
  orgSlot : Nat
  wins : Vector Window 8
  toks : Vector Nat 8
  ops : List PendOp
  wait : Wait
  /-- Literal words of the instruction the thread is parked in. -/
  parkLits : Nat
  /-- Its word, and the literal words that its sources take. -/
  parkWord : Word
  parkSrc : List Word
  /-- Lanes still to be performed of a replayable memory slot (R164, R165); all zero when none. -/
  replay : Word
  /-- An uncorrectable error that is known and not yet taken (R172): lanes and address. -/
  dataErr : List (Nat × BitVec 54)
  /-- The elements that the lanes still to be performed took from a port. -/
  replayVals : List (Nat × Word)
  /-- The fault address of the outstanding page fault and its access kind (R164). -/
  faultAddr : BitVec 54
  faultKind : BitVec 4
  /-- The status with which a parked CWAIT resumes: BROKEN of 11_schedulers R383. -/
  broken : Bool
  /-- What a CWAIT or NWAIT of the thread awaited has occurred, and it has not issued since (11_schedulers R381, R384). -/
  woken : Bool
  /-- A WFM that has ended its wait: its word and the mask of each lane. It writes d when the thread next resumes (04_pipeline R137). -/
  owed : Option (Word × List (Nat × BitVec 8))
  /-- The line of code of a clause that lies in one line, which takes no miss after its header (R105). -/
  line : Option (BitVec 48 × List Word)
  deriving DecidableEq, Repr

/-- A lane: one pipeline's share of a wave (01_ties R9, 06_group R202). -/
structure Lane where
  regs : Vector Reg 64
  l0 : Option Reg
  l1 : Option Reg
  l2 : Option Reg
  frm : Word
  flags : Word
  qsc : Word
  ftz : Word
  trapvec : Word
  trapvecHi : BitVec 22
  trapcause : Word
  trapaddr : Word
  traplanes : Word
  epc : Word
  epcHi : BitVec 22
  /-- The trap shadow of the latches (04_pipeline R141). -/
  sh0 : Option Reg
  sh1 : Option Reg
  sh2 : Option Reg
  divthr : Word
  regxwait : Word
  msgsrc : Word
  waveid : BitVec 5
  slotNo : BitVec 3
  /-- The lane's own name, by which the records it took are completed when it retires (07_keyring R260). -/
  uid : Nat
  ports : Vector Port 8
  /-- The lane's own thread while it runs detached or in a handler (06_group R223, R226). -/
  own : Option Thread
  /-- The private divergence stack of a detached lane, bottom first. -/
  priv : List DEntry
  /-- Records of the gateway block queue held by HOLD (13_gateways R424). -/
  held : List Nat
  deriving DecidableEq, Repr

/-- The identity of the record that created a wave, with the wave's place in the launch (01_ties R29). -/
structure Ident where
  record : Nat
  team : Nat
  wave : Nat
  deriving DecidableEq, Repr

/-- A register of a swapped-out wave over its lanes (04_pipeline R113): one word and tag; a start and a step with one tag; two bytes for each
lane with one tag; or a word and a tag for each lane. -/
inductive Spill where
  | unif (r : Reg)
  | affine (v0 step : Word) (t : Tag)
  | narrow (l : List (BitVec 16)) (t : Tag)
  | full (l : List Reg)
  deriving DecidableEq, Repr

/-- A wave (01_ties R9; group state of 06_group R204). `lanes` has one entry per lane. -/
structure Wave where
  uid : Nat
  ctx : BitVec 12
  team : Nat
  die : Nat
  gw : Bool
  clu : Nat
  base : Nat
  bregs : Nat
  xregs : Nat
  lanes : List Lane
  thr : Thread
  live : Word
  memb : Word
  /-- The divergence stack, bottom first. -/
  dstk : List DEntry
  detach : Bool
  jpoint : BitVec 54
  jslot : Nat
  jmask : Word
  age : Nat
  passed : Nat
  resv : Bool
  stream : BitVec 15
  ident : Ident
  seq : Nat
  attempt : Nat
  handler : Bool
  /-- The keyring record a message handler or gateway activation completes. -/
  creator : Nat
  /-- The notify register a gateway wave signals at RETIRE (13_gateways R410). -/
  notifyAt : Option (BitVec 8)
  /-- The wave's scratchpad is its handler's named regions (R146), or it is its team's. -/
  teamIndex : Word
  gridx : Word
  gridy : Word
  gridz : Word
  depth : BitVec 4
  /-- Clusters it has left, as (die, cluster): records that match its bindings are forwarded from there (07_keyring R258). -/
  former : List (Nat × Nat)
  /-- A swapped-out wave's registers as the spill engine keeps them: number and packing (04_pipeline R113); none while it is resident. -/
  packed : List (Nat × Spill)
  deriving DecidableEq, Repr

/-! ## Keyrings -/

/-- What took a dispatched record (07_keyring R248). -/
inductive Taker where
  | nobody
  | lane (lane : Nat)
  | handler (wave : Nat)
  | engine
  | scheduler
  | hub (handle : Nat)
  | gateway (wave lane : Nat)
  deriving DecidableEq, Repr

/-- An engine job as its instruction captures it (08_matrix R287, R292; 09_statespace R319; 10_copy R335, R351): the opcode, the
pushing team and context, the identifier, the descriptor words, where the pusher runs, the named windows of a copy (source, then
destination), and one number: the resolved T of an SSCAN, or the batches of a copy. A stack job, which outlives its team when a die fails, keeps the team's write
region. -/
structure JobDesc where
  eng : Engine
  op : Nat
  ctx : BitVec 12
  team : Nat
  id : Nat
  /-- The count of the team's jobs of the engine that it is; its identifier follows from it (08_matrix R288). -/
  serial : Nat
  desc : List Word
  place : Word
  wins : List Window
  n : Nat
  region : Option (Nat × Nat)
  deriving DecidableEq, Repr

/-- What a SPAWN record carries beside its image (11_schedulers R374): the spawner's indices and the argument words supplied. -/
structure SpawnInfo where
  teamIndex : Word
  gridx : Word
  gridy : Word
  gridz : Word
  args : Nat
  depth : BitVec 4
  /-- The push identity of the carrier. -/
  ident : Option (Ident × Nat)
  deriving DecidableEq, Repr

/-- A keyring record (07_keyring R237) with its side state. -/
structure Rec where
  uid : Nat
  key : BitVec 48
  cls : BitVec 4
  op : BitVec 4
  latched : Bool
  prio : BitVec 2
  sat : Bool
  ovf : Bool
  inv : Bool
  inx : Bool
  ctx : BitVec 12
  fill : Nat
  stream : BitVec 15
  car : Bool
  target : BitVec 24
  folds : Nat
  payload : List Word
  pos : Nat
  /-- When the record came to its keyring, in the order of the whole machine. -/
  stamp : Nat
  ids : List (Ident × Nat)
  attempt : Nat
  age : Nat
  sums : List Int
  dispatched : Bool
  taker : Taker
  spilled : Bool
  accepted : Bool
  sender : Word
  replayed : Bool
  /-- The host port a LAUNCH record came from. -/
  origin : Option Nat
  /-- The grid of a launching or spawning wave. -/
  parent : Option Nat
  /-- The acceptance raises the parent grid's package counter (11_schedulers R376). -/
  counts : Bool
  job : Option JobDesc
  /-- Team and identifier of every engine job the record holds (08_matrix R281, 10_copy R340). -/
  jobIds : List (Nat × Nat)
  spawn : Option SpawnInfo
  /-- The party that a FAULT record of a wave speaks of. -/
  about : Option Issuer
  /-- The grid that a LAUNCH record has created. -/
  grid : Option Nat
  deriving DecidableEq, Repr

/-- A keyring: its records in arrival order, and the next arrival position. -/
structure Keyring where
  recs : List Rec
  next : Nat
  deriving DecidableEq, Repr

def Keyring.empty : Keyring := ⟨[], 0⟩

/-- A push as its keyring receives it (07_keyring R240, R242, R265). -/
structure Push where
  key : BitVec 48
  cls : BitVec 4
  op : BitVec 4
  prio : BitVec 2
  car : Bool
  stream : BitVec 15
  target : BitVec 24
  words : List Word
  ctx : BitVec 12
  ident : Option (Ident × Nat)
  attempt : Nat
  sender : Word
  origin : Option Nat
  parent : Option Nat
  counts : Bool
  job : Option JobDesc
  spawn : Option SpawnInfo
  about : Option Issuer := none
  /-- The die and, for a cluster's engine, the cluster whose engine posted a FAULT record (07_keyring R262). -/
  home : Option (Nat × Option Nat) := none
  deriving DecidableEq, Repr

/-- When a push gives its status: at arrival or at acceptance (07_keyring R266). -/
inductive Returns where
  | arrival | acceptance
  deriving DecidableEq, Repr

/-- A push in flight. `src` is the pushing party and the lanes whose register `d` takes the status. -/
structure Flight where
  k : Nat
  kr : KrId
  /-- The keyring that it was pushed to; `kr` follows its record (07_keyring R258, R263). -/
  pushedTo : KrId
  push : Push
  src : Option (Issuer × List Nat)
  pipe : Option PipeId
  d : Option Nat
  nw : Bool
  hd : Bool
  returns : Returns
  /-- SVC waits for every record before it resumes. -/
  svc : Bool
  /-- The status of a push that the sender's checks have already decided. -/
  decided : Option Status
  /-- The record once the push has arrived; acceptance is still awaited. -/
  arrived : Option Nat
  /-- When it arrived, in the order of the whole machine, and the record as it was before the push folded into it: what the journal still
  holds (R27, R260). -/
  apos : Nat
  undo : Option Rec
  /-- The pusher's context (07_keyring R264). -/
  srcCtx : Option (BitVec 12)
  /-- The package the push goes to, when it is another one. -/
  remote : Option (BitVec 12)
  /-- LSND: the core's link engine sent it over port 0 or 1 of the die, or over the fabric (2) (13_gateways R425). -/
  link : Option Nat
  /-- The team whose pending-launch queue sent it (11_schedulers R372). -/
  queue : Option Nat
  /-- The carrier that this SPAWN record was built from, with its keyring (11_schedulers R375). -/
  carrier : Option (KrId × Nat)
  deriving DecidableEq, Repr

/-! ## Memory -/

/-- A line of an L1 slice: 128 bytes at physical line `line`, with a dirty mask (05_memory R167). -/
structure L1Line where
  pipe : PipeId
  line : Nat
  data : BitVec 1024
  dirty : BitVec 128
  deriving DecidableEq, Repr

/-- A line that a die's L2 holds dirty: what memory held when it was last written back (05_memory R171). The bytes that the device sees are
those of `State.mem`. -/
structure L2Line where
  die : Nat
  line : Nat
  old : BitVec 1024
  deriving DecidableEq, Repr

/-- An array with uncorrectable errors of its own, beside memory (05_memory R172). -/
inductive ErrArray where
  | scratch | region | tile | sstate | weight | l1
  deriving DecidableEq, Repr

/-- A byte of an array that cannot be read: its owner (a team, a context's named regions, a cluster, or a slice), and its offset there. -/
structure ErrCell where
  arr : ErrArray
  own : Nat
  off : Nat
  deriving DecidableEq, Repr

/-- A line of a cluster's read-only path as it stands for one wave (05_memory R192). -/
structure RoLine where
  wave : Nat
  line : Nat
  data : BitVec 1024
  deriving DecidableEq, Repr

/-- A 64-byte line of a pipeline's instruction cache (04_pipeline R99, R105). -/
structure ILine where
  pipe : PipeId
  ctx : BitVec 12
  line : BitVec 48
  words : List Word
  deriving DecidableEq, Repr

/-- A cached leaf entry of a die's translation caches (05_memory before R162). -/
structure TlbEntry where
  die : Nat
  ctx : BitVec 12
  level : Nat
  page : Nat
  pte : DWord
  deriving DecidableEq, Repr

/-- A page in migration (05_memory R166). -/
structure Migration where
  k : Nat
  ctx : BitVec 12
  va : BitVec 54
  level : Nat
  f0 : BitVec 57
  f1 : BitVec 57
  size : Nat
  /-- Lines of F0 written since the round began. -/
  marked : List Nat
  round : Nat
  frozen : Bool
  hart : Nat
  deriving DecidableEq, Repr

/-- A COMP page being expanded in place (05_memory R160, 12_stack R401). -/
structure Expand where
  k : Nat
  ctx : BitVec 12
  va : BitVec 54
  frame : BitVec 57
  size : Nat
  deriving DecidableEq, Repr

/-! ## Teams, grids and engines -/

/-- A barrier of a team (06_group R235). -/
structure Barrier where
  phase : BitVec 31
  arrived : Nat
  /-- The b of the phase's first arrival. -/
  expected : Option Nat
  deriving DecidableEq, Repr

def Barrier.reset : Barrier := ⟨0#31, 0, none⟩

/-- An open FUSE rendezvous (06_group R208): target width, LANEBASE of the set, key, and the waves that arrived. `drain` holds
once it is complete and its checks passed (R209). -/
structure Rendezvous where
  n : Nat
  base : Nat
  key : Word
  parts : List Nat
  drain : Bool
  deriving DecidableEq, Repr

/-- Phases of power gating (04_pipeline R148). -/
inductive GatePhase where
  | off | entering | aborting | gated | waking
  deriving DecidableEq, Repr

/-- The states of a job (08_matrix R290). -/
inductive JobState where
  | done | pending | cancelled | fault
  deriving DecidableEq, Repr

/-- An entry of a job table (08_matrix R288, R290; 09_statespace R322; 10_copy R343; 12_stack R396). -/
structure JobEnt where
  serial : Nat
  id : Nat
  st : JobState
  rd : Bool
  cause : Nat
  /-- INV, OVF, UNF, INX and SAT. -/
  flags : Word
  /-- PROG of a faulted matrix job. -/
  prog : Nat
  /-- Steps, units or batches completed. -/
  count : Nat
  tailrec : Bool
  /-- Out-of-range indices. -/
  oor : Nat
  /-- When the job ended, in the table's own count; 0 while it is pending. -/
  ended : Nat
  /-- Physical 128-byte lines the job wrote. -/
  wrote : List Nat
  deriving DecidableEq, Repr

/-- A team's job table: identifiers issued so far (NEXTID follows from it), the count of ends, and its entries, newest last. -/
structure JobTab where
  issued : Nat
  clock : Nat
  ents : List JobEnt
  deriving DecidableEq, Repr

def JobTab.empty : JobTab := ⟨0, 0, []⟩

/-- A scratchpad ring (08_matrix R282). -/
structure Ring where
  cfg : Bool
  base : BitVec 15
  esize : BitVec 8
  count : BitVec 8
  pub : Word
  con : Word
  deriving DecidableEq, Repr

def Ring.reset : Ring := ⟨false, 0#15, 0#8, 0#8, 0#32, 0#32⟩

/-- An entry of a leader's pending-launch queue (11_schedulers R372): the record to send and the keyring it goes to, whether it is
in flight, and whether it has arrived. -/
structure QEntry where
  k : Nat
  kr : KrId
  push : Push
  sent : Bool
  arrived : Bool
  /-- The die that its first sending resolved (R363). -/
  dest : Option Nat
  deriving DecidableEq, Repr

/-- A grid (01_ties R9; 11_schedulers R376). -/
structure Grid where
  uid : Nat
  ctx : BitVec 12
  /-- The package counter. -/
  counter : Nat
  parent : Option Nat
  prio : BitVec 2
  /-- The LAUNCH record: identity for its completion. -/
  record : Nat
  caddr : BitVec 54
  cmode : Bool
  region : Option (Nat × Nat)
  depth : BitVec 4
  /-- Teams completed on a die and not yet passed up; and those whose pass is due, since the die's counter has been 0. -/
  done : List (Nat × Nat)
  due : List (Nat × Nat) := []
  /-- Whole-grid swap-out (11_schedulers R380): wanted, and in force. -/
  swapping : Bool
  swapped : Bool
  /-- Lost a team to a die failure (R383). -/
  lost : Bool
  /-- The CADDR update waits for the hub to resolve a translation fault, or is to be dropped (R361). -/
  cstall : Bool
  cdrop : Bool
  /-- The word that status mode writes. -/
  code : Word
  /-- When PRIO last set the grid's priority (R392), on the scale of `Team.placedAt`. -/
  prioAt : Nat
  deriving DecidableEq, Repr

/-- What a ready-queue entry places. -/
structure Foot where
  width : Nat
  bregs : Nat
  waves : Nat
  scr : Nat
  tiles : Nat
  stKiB : Nat
  energy : Nat
  deriving DecidableEq, Repr

/-- A dispatched job of an engine. `done` counts the parts, batches or panels completed, `out` is what the reads have given and the
end will write, `res` the fault found. -/
structure Job where
  k : Nat
  d : JobDesc
  ids : List (Nat × Nat)
  die : Nat
  clu : Nat
  done : Nat
  rd : Bool
  suspended : Bool
  /-- A translation fault is outstanding. -/
  stalled : Bool
  /-- Where it is, and whether the hub has reported it unresolved. -/
  faultVa : Nat
  unresolved : Bool
  /-- Bytes read for the end: unit by unit. -/
  data : List (List Byte)
  /-- A fault met while reading: cause and units before it. -/
  fault : Option (Nat × Nat)
  flags : Word
  oor : Nat
  /-- Rows or units of the current part or batch already written. -/
  row : Nat
  /-- Units of a stack job that have been applied (12_stack R407). -/
  units : List Nat
  deriving DecidableEq, Repr

/-- An entry of a die's ready queue (11_schedulers R364): teams `lo` up to but not including `hi` of a record. -/
structure Entry where
  k : Nat
  record : Nat
  kr : KrId
  grid : Nat
  spawn : Option (SpawnInfo × List Word)
  lo : Nat
  hi : Nat
  gx : Nat
  gy : Nat
  foot : Foot
  entry : BitVec 54
  arg : DWord
  prio : BitVec 2
  stream : BitVec 15
  bearing : Nat
  depth : BitVec 4
  ctx : BitVec 12
  attempt : Nat
  passed : Nat
  reserving : Bool
  /-- A swapped-out team to readmit. -/
  saved : Option Nat
  deriving DecidableEq, Repr

/-- The decrements of a completion counter that a dispatched copy job still owes (10_copy R344): the job, the counter, how many, and
the lines of the batches that are complete but whose decrements are held back. -/
structure CcTicket where
  k : Nat
  ctr : Nat
  left : Nat
  ready : List (List Nat)
  /-- Lines of the batch in progress. -/
  cur : List Nat
  deriving DecidableEq, Repr

/-- A team (01_ties R9). `nrg` marks a message handler's team of one, whose scratchpad is its context's named regions (R146). -/
structure Team where
  uid : Nat
  ctx : BitVec 12
  die : Nat
  clu : Nat
  grid : Option Nat
  /-- The slot (a lane identity) of lane 0 of wave 0: the wave that holds it is the leader (06_group R203). -/
  lead : Nat
  /-- Footprint: width, base registers, waves, tiles, state memory in KiB, energy estimate. -/
  width : Nat
  bregs : Nat
  waves : Nat
  tiles : Nat
  stKiB : Nat
  energy : Nat
  /-- Where its scratchpad and state memory lie in the cluster's. -/
  scrBase : Nat
  stBase : Nat
  placedAt : Nat
  /-- The ready-queue entry it was placed from, with its one team. -/
  ent : Option Entry
  nrg : Bool
  scratchSize : Nat
  scratch : List Host.Cell
  barriers : Vector Barrier 16
  rendezvous : List Rendezvous
  /-- The declared write region: first address and one past the last (01_ties R30). -/
  region : Option (Nat × Nat)
  /-- µJ reserved in the die's current interval (15_sextant R446). -/
  rsv : Nat
  /-- Accumulator tiles: tile t, row i, column j is the word at 65536 t + 4 (128 i + j) (08_matrix R284). -/
  acc : List Host.Cell
  /-- State memory (09_statespace R309). -/
  ssm : List Host.Cell
  rings : Vector Ring 8
  /-- The LIVE mask, when it is in effect (08_matrix R298, R305). -/
  live : Option (BitVec 16)
  /-- Job tables of the matrix engine, the state-space control block, the copy unit and the stack engines. -/
  mjobs : JobTab
  sjobs : JobTab
  cjobs : JobTab
  kjobs : JobTab
  /-- SSTHR (09_statespace R310). -/
  ssthr : Nat
  /-- CC0 to CC7 (10_copy R341); the lines that the batches wrote which each has counted; and the jobs whose decrements are still to be
  made. -/
  cc : Vector Word 8
  ccWrote : List (Nat × List Nat)
  ccQ : List CcTicket
  /-- The leader's pending-launch queue. -/
  launchq : List QEntry
  /-- The team is complete and its resources are free, but jobs that it pushed go on (log 25). -/
  gone : Bool
  deriving DecidableEq, Repr

/-- A swapped-out team with its waves and its jobs stopped at a boundary (11_schedulers R379 to R381). -/
structure Saved where
  team : Team
  waves : List Wave
  jobs : List Job
  prio : BitVec 2
  /-- The whole context was swapped out (14_hub R441). -/
  ofCtx : Bool
  deriving DecidableEq, Repr

/-- A die scheduler (11_schedulers R362, R364, R368): the rotating pointer, the ready queue in order of dispatch, and stealing: the
request outstanding, the neighbour asked next (+1 or -1), and whether a refusal's wait has not yet passed. -/
structure Sched where
  rot : BitVec 3
  ready : List Entry
  asking : Option Nat
  up : Bool
  waiting : Bool
  deriving DecidableEq, Repr

def Sched.reset : Sched := ⟨0#3, [], none, true, false⟩

/-- A weight-buffer slot's metadata where FIRST is 1 (08_matrix R279). -/
structure WSlot where
  slot : Nat
  fmt : Nat
  ncode : Nat
  kb : Nat
  len : Nat
  ctx : BitVec 12
  deriving DecidableEq, Repr

/-- A cluster's own state: the images of its weight buffer, the buffer's bytes (slot s from 8192 s), and its power gating. -/
structure Cluster where
  images : List WSlot
  data : List Host.Cell
  wake : Bool
  gate : GatePhase
  deriving DecidableEq, Repr

def Cluster.reset : Cluster := ⟨[], [], false, .off⟩

/-- A named region's reservation in a cluster's scratchpad (04_pipeline R146): context, die, cluster, offset and size in bytes. -/
structure Resv where
  ctx : BitVec 12
  die : Nat
  clu : Nat
  base : Nat
  size : Nat
  deriving DecidableEq, Repr

/-- A Tildor port (13_gateways R416, R418): STATE, GEN, HALF, PEER, flits replayed, silence threshold, and heartbeats
sent. -/
structure Tildor where
  st : BitVec 2
  gen : BitVec 2
  half : Bool
  peer : BitVec 12
  replays : Nat
  threshold : Nat
  heartbeats : Nat
  /-- Cycles of the die since the last valid flit (13_gateways R418). -/
  silence : Nat
  deriving DecidableEq, Repr

def Tildor.reset : Tildor := ⟨0#2, 0#2, false, 0#12, 0, 2 ^ 20, 0, 0⟩

/-- Exceptions of a hart that the hub chapter names (14_hub R428 to R430, R436 to R438). -/
inductive HartExc where
  | illegal | virtual | fetchAccess | loadAccess | storeAccess | loadPage | storePage | storeMisaligned
  deriving DecidableEq, Repr

/-- A hub hart (14_hub R427, R428) with its command area (R439). -/
structure Hart where
  regs : Vector DWord 32
  pc : Nat
  mode : HartMode
  hctx : BitVec 12
  hrkey : DWord
  hwkey : DWord
  hcfg : BitVec 3
  hfstat : BitVec 4
  stval : DWord
  /-- The exception raised and not yet taken by the RISC-V base, which the spec does not describe (log 7). -/
  exc : Option HartExc
  /-- The reservation of LR: a device physical address and size. -/
  resv : Option (Nat × Nat)
  area : Vector DWord 8
  /-- A physical access that stalls (05_memory R160, R166): the device address it was made to, and where it is to be performed. -/
  held : Option (Nat × Nat)
  deriving DecidableEq, Repr

/-- A hart as the hub's reset leaves it (log 7). -/
def Hart.reset : Hart :=
  ⟨Vector.replicate 32 0#64, 0, .m, 0#12, BitVec.allOnes 64, BitVec.allOnes 64, 4#3, 0#4, 0#64, none, none, Vector.replicate 8 0#64,
    none⟩

/-- A hub command in progress (14_hub R439): its doublewords and the status it has earned. -/
structure Cmd where
  hart : Nat
  dw : List DWord
  status : Option Status
  deriving DecidableEq, Repr

/-- A mailbox command that has its status and has not completed (15_sextant R449). -/
structure Mail where
  src : MailSrc
  status : Status
  /-- A die whose cores leave their reset with it. -/
  restart : Option Nat
  deriving DecidableEq, Repr

/-- What COUNTERS returns (15_sextant R449): refused launch records by KEY and context, discarded writes, correctable errors, the
lines of the dirty-line logs, and the dropped completion updates. -/
structure Counters where
  refused : List (BitVec 48 × BitVec 12)
  discarded : Nat
  unmapped : Nat
  corrected : Nat
  dirtyLog : List Nat
  dropped : Nat
  deriving DecidableEq, Repr

/-- A package's sextant (15_sextant). -/
structure Sextant where
  /-- The port that holds the semaphore, and GEN. -/
  owner : Option Nat
  gen : BitVec 16
  /-- The ports whose OWN bit is 1 (15_sextant R443, log 104). -/
  own : List Nat
  budget : Nat
  shares : List Nat
  /-- Contexts each port may reach. -/
  reach : List (Nat × BitVec 12 × BitVec 12)
  mails : List Mail
  /-- Mailbox doubleword 0 as the host reads it back, per source. -/
  box : List (MailSrc × DWord)
  /-- Mailbox doublewords 1 to 7 of each port as the host wrote them (15_sextant R449). -/
  words : List ((Nat × Nat) × DWord)
  measure : Vector (BitVec 256) 8
  recovery : Bool
  hubHeld : Bool
  /-- Versions of the sextant firmware, hub firmware and decode maps. -/
  versions : List Nat
  /-- The images that the boot ROM finds, those that FWUPDATE staged since for the next package reset, and the fused minimum of a version
  (15_sextant R451, log 105). -/
  stored : BootImages
  staged : List FwImage
  fused : Nat
  /-- The boot of R451 has been made since the package reset. -/
  booted : Bool
  /-- Counters: refusals with KEY and context, discarded writes, unmapped accesses, correctable errors, dirty-line logs. -/
  refused : List (BitVec 48 × BitVec 12)
  discarded : Nat
  unmapped : Nat
  corrected : Nat
  dirtyLog : List Nat
  dropped : Nat
  /-- What COUNTERS returned last. -/
  returned : Option Counters
  /-- The attestation report that ATTEST wrote last, with the host buffer's address (R453). -/
  report : Option (Nat × List Byte)
  /-- The completion of the last host read, or none for a Completer Abort (R442). -/
  hostOut : Option (List Byte)
  /-- A hub fatal error or the failure of a pair of dies was reported (01_ties R31). -/
  fatal : Bool
  deriving DecidableEq, Repr

/-- Four images that pass their checks, of version 0 (log 105). -/
def BootImages.plain : BootImages := ⟨⟨0, true, 0, 0#256⟩, ⟨1, true, 0, 0#256⟩, ⟨2, true, 0, 0#256⟩, ⟨3, true, 0, 0#256⟩⟩

/-- The sextant as a package reset leaves it, before it boots. -/
def Sextant.reset : Sextant where
  owner := none
  gen := 0#16
  own := []
  budget := 3569600
  shares := [128, 128, 128, 128, 128, 128, 128, 128]
  reach := []
  mails := []
  box := []
  words := []
  measure := Vector.replicate 8 0#256
  recovery := false
  hubHeld := false
  versions := [0, 0, 0, 0]
  stored := BootImages.plain
  staged := []
  fused := 0
  booted := false
  refused := []
  discarded := 0
  unmapped := 0
  corrected := 0
  dirtyLog := []
  dropped := 0
  returned := none
  report := none
  hostOut := none
  fatal := false

/-- The journal entry of an accepted push (01_ties R29). -/
structure JEntry where
  kr : KrId
  ident : Ident
  seq : Nat
  attempt : Nat
  /-- A replay has carried the entry from a cluster keyring to the die's, for every cluster of the die (07_keyring R261). -/
  moved : Bool
  /-- The push of a SPAWN record built from a carrier, under the carrier's identity (11_schedulers R375). -/
  fired : Bool
  deriving DecidableEq, Repr

/-- What the mirror of a failed die or cluster replays (07_keyring R261, 11_schedulers R382): where to, the records with their
keyrings, and the ready-queue entries. -/
structure Replay where
  die : Nat
  recs : List (KrId × Rec)
  entries : List Entry
  deriving DecidableEq, Repr

/-- A record that SVCPOP delivered (14_hub R435): the handle's slot and generation, the record, and for a FAULT its words. -/
structure Handle where
  slot : Nat
  gen : Nat
  record : Rec
  deriving DecidableEq, Repr

/-- A pipeline's own state (04_pipeline R99). SLOT and POOL follow from the resident waves. -/
structure Pipe where
  rrptr : BitVec 3
  wake : Bool
  gate : GatePhase
  /-- A banking switch is in progress (06_group R214). -/
  switching : Bool
  /-- Waves blocked in REGX, in the order they blocked (R110). -/
  blocked : List Issuer
  /-- The port over which a gateway core's last LSND to another package left (13_gateways R425). -/
  lastPort : Option Nat
  deriving DecidableEq, Repr

def Pipe.reset : Pipe := ⟨7#3, false, .off, false, [], none⟩

/-- Context states (01_ties R16). -/
inductive CtxState where
  | free | live | swapped | suspended | teardown
  deriving DecidableEq, Repr

/-- A context (01_ties R14). `decode` is 0, 1 or 2 for the Edfen-3, Edfen-2 and Edfen-1 maps; `notify` lists the registers that
are not zero. -/
structure Ctx where
  id : BitVec 12
  st : CtxState
  root : BitVec 57
  rkey : DWord
  wkey : DWord
  tvec : BitVec 54
  /-- Sizes of NRG0 to NRG7 in units of 4 KiB. -/
  nrg : List Nat
  svcthr : BitVec 8
  mlock : BitVec 6
  /-- Physical address of the handler table. -/
  htab : BitVec 57
  hset : List DWord
  /-- Spill areas of the cluster, die and hub levels, in bytes. -/
  ksp : List Nat
  kspBase : List (BitVec 57)
  saveBase : BitVec 57
  saveSize : Nat
  decode : Nat
  notify : List (Nat × DWord)
  deriving DecidableEq, Repr

/-- A compute die's energy and interval state (01_ties R32 to R35, 15_sextant R445). -/
structure Die where
  /-- The measured energy in µJ, modulo 2^64. -/
  energy : Nat
  /-- The counter at the start of the interval. -/
  startUse : Nat
  /-- Estimates charged in the interval. -/
  charged : Nat
  /-- The allowance A of the interval. -/
  allowance : Nat
  /-- The interval has held a reservation (R33). -/
  held : Bool
  /-- The duty numerator d of R34. -/
  duty : Nat
  intervals : Nat
  deriving DecidableEq, Repr

def Die.reset : Die := ⟨0, 0, 0, 446200, false, 16, 0⟩

/-- What a cache does of its own accord: an L1 line is written back and kept or let go (05_memory R167, R175), a line of an
instruction cache, an entry of a die's translation caches or a line of a read-only path is let go. -/
inductive CacheMove where
  | line (p : PipeId) (line : Nat) (keep : Bool)
  | code (p : PipeId) (ctx : BitVec 12) (line : BitVec 48)
  | leaf (die : Nat) (ctx : BitVec 12) (level page : Nat)
  /-- A line of a die's L2 is written back. -/
  | l2 (die line : Nat)
  /-- A line of a cluster's read-only path is let go for a wave. -/
  | ro (wave line : Nat)
  deriving DecidableEq, Repr

/-- What happens to an array (05_memory R172): an error that is corrected, an uncorrectable one in a byte of memory, or in a byte of another
array. -/
inductive ErrEvent where
  | corrected
  | memory (a : Nat)
  | cell (c : ErrCell)
  deriving DecidableEq, Repr

/-- A host's access to BAR0 (15_sextant R442): a read of some bytes, or a write of its bytes. With a write of mailbox doubleword 0 goes the
command that the sextant reads in doublewords 1 to 7, whose layout the spec does not give; none where it reads no command in them. -/
inductive BarOp where
  | read (size : Nat)
  | write (bytes : List Byte) (command : Option MailCmd)
  deriving DecidableEq, Repr

/-- What a host port asks of the device: to read bytes from a device address or to write them there, or to take a launch record, which
follows the port's earlier writes (11_schedulers R360). -/
inductive HostReq where
  | read (addr size : Nat)
  | write (addr : Nat) (bytes : List Byte)
  | post (record : List Word)
  deriving DecidableEq, Repr

/-- A host port's request that stalls (05_memory R160, R166), or waits behind one that does. -/
structure HostHeld where
  port : Nat
  req : HostReq
  deriving DecidableEq, Repr

/-- Who moves next: a slot of an issuer, a hart's instruction, an event with its arguments, a cache, an error in an array, or the next unit
of the part of a stack job that an engine performs (12_stack R393), cycles that pass on a port without a valid flit (13_gateways R418), a
hart's read of a control and status register into `rd` (14_hub R428), or a host port's access to an offset of BAR0 (15_sextant R442). -/
inductive Turn where
  | slot (i : Issuer)
  | hart (h : Nat)
  | event (i : Instr)
  | cache (m : CacheMove)
  | error (e : ErrEvent)
  | unit (job engine : Nat)
  | quiet (die port cycles : Nat)
  | csrRead (hart : Nat) (csr : BitVec 12) (rd : BitVec 5)
  | bar (port off : Nat) (op : BarOp)
  deriving DecidableEq, Repr

/-- The machine's state. -/
structure State where
  waves : List Wave
  teams : List Team
  pipes : List (PipeId × Pipe)
  ctxs : List Ctx
  /-- The named regions' contents per context and cluster (04_pipeline R146): context, die, cluster. -/
  nrgs : List ((Nat × Nat × Nat) × List Host.Cell)
  keyrings : List (KrId × Keyring)
  flights : List Flight
  mem : List Host.Cell
  bad : List Nat
  /-- Bytes of other arrays that cannot be read. -/
  errs : List ErrCell
  /-- Lines that met an error while they were written back, with the die whose cache held them (05_memory R173). -/
  lost : List (Nat × Nat)
  l1 : List L1Line
  l2 : List L2Line
  /-- The clusters' read-only paths (05_memory R192). -/
  ro : List RoLine
  icache : List ILine
  tlb : List TlbEntry
  migrations : List Migration
  expands : List Expand
  pkgid : BitVec 12
  fenced : List (BitVec 12)
  /-- Compute dies whose cores are running (05_memory R171). -/
  running : List Nat
  dies : List (Nat × Die)
  clusters : List ((Nat × Nat) × Cluster)
  resvs : List Resv
  grids : List Grid
  scheds : List (Nat × Sched)
  /-- The hub's rotating pointer (11_schedulers R362). -/
  hubRot : BitVec 3
  jobs : List Job
  saved : List Saved
  journal : List JEntry
  replays : List Replay
  harts : List (Nat × Hart)
  /-- Host accesses that stall, oldest first. -/
  held : List HostHeld
  handles : List Handle
  /-- Generation counts of handle slots that are not zero. -/
  gens : List (Nat × Nat)
  cmds : List Cmd
  hubUp : Bool
  sext : Sextant
  tildors : List ((Nat × Nat) × Tildor)
  /-- Packages of the domain beside this one, and the standby list (13_gateways R415, R421). -/
  domain : List (BitVec 12)
  standby : List (BitVec 12 × BitVec 12)
  /-- The Edfen-2 and Edfen-1 maps passed their check at boot (15_sextant R451). -/
  map2 : Bool
  map1 : Bool
  /-- Which agent moves next (log 1), and the issuer or hart whose instruction is being executed. -/
  agenda : List Turn
  /-- Turns taken with an empty agenda: where the next search for one begins. -/
  turn : Nat
  cur : Option Issuer
  curHart : Option Nat
  freeCtr : Nat
  uid : Nat
  deriving DecidableEq, Repr

/-- Why the machine stops. -/
inductive Fault where
  /-- exec was asked to perform an instruction word with no issuer, or one that does not exist: nothing runs it. Safe. -/
  | noIssuer
  /-- exec was asked to perform a hub word with no hart: nothing runs it. Safe. -/
  | noHart
  deriving DecidableEq, Repr

/-- Why the machine has no meaning for an instruction. -/
inductive Refusal where
  /-- An instruction without a meaning in this model, by its mnemonic. Safe. -/
  | notModelled (mnemonic : String)
  /-- A RISC-V word of a hart that is no custom-0 word: the RISC-V base is not part of the spec's table (14_hub R427). Safe. -/
  | riscvBase
  deriving DecidableEq, Repr

/-- Context 0x000 as it stands from boot: LIVE with every lock (01_ties R15). -/
def Ctx.system : Ctx :=
  ⟨0#12, .live, 0#57, BitVec.allOnes 64, BitVec.allOnes 64, 0#54, [0, 0, 0, 0, 0, 0, 0, 0], 0#8, 0#6, 0#57, [], [0, 0, 0],
    [0#57, 0#57, 0#57], 0#57, 0, 0, []⟩

/-- The machine right after reset: the sextant's boot follows (15_sextant R451). -/
def State.reset : State where
  waves := []
  teams := []
  pipes := []
  ctxs := [Ctx.system]
  nrgs := []
  keyrings := []
  flights := []
  mem := []
  bad := []
  errs := []
  lost := []
  l1 := []
  l2 := []
  ro := []
  icache := []
  tlb := []
  migrations := []
  expands := []
  pkgid := 0#12
  fenced := []
  running := [0, 1, 2, 3, 4, 5, 6, 7]
  dies := []
  clusters := []
  resvs := []
  grids := []
  scheds := []
  hubRot := 0#3
  jobs := []
  saved := []
  journal := []
  replays := []
  harts := []
  held := []
  handles := []
  gens := []
  cmds := []
  hubUp := false
  sext := Sextant.reset
  tildors := []
  domain := []
  standby := []
  map2 := false
  map1 := false
  agenda := []
  turn := 0
  cur := none
  curHart := none
  freeCtr := 0
  uid := 0

end Sys2Proof.Machine
end

