-- ==== Sys2Proof/Machine/Flags.lean ====
section
/-! DEFINITION. Numbers: the formats of spec/03_numbers, exact arithmetic, the one rounding of each result, and every flag
computation (R77 to R84), with block floating point and its quantisation (R88 to R96). -/

namespace Sys2Proof.Machine

/-- The six flags of R77: bit 0 INV, 1 DZ, 2 OVF, 3 UNF, 4 INX, 5 SAT. -/
abbrev Flags := BitVec 6

def flagInv : Flags := 1#6
def flagDz : Flags := 2#6
def flagOvf : Flags := 4#6
def flagUnf : Flags := 8#6
def flagInx : Flags := 16#6
def flagSat : Flags := 32#6

/-- A flag when a condition holds. -/
def flagIf (c : Bool) (f : Flags) : Flags := if c then f else 0#6

/-- A floating-point format of R73: exponent and significand widths and bias; E4M3 has no infinity (R74). -/
structure FFmt where
  ebits : Nat
  mbits : Nat
  bias : Nat
  ieee : Bool
  /-- FTZ acts on it (R83). -/
  flush : Bool
  deriving DecidableEq, Repr

def fp32 : FFmt := ⟨8, 23, 127, true, true⟩
def bf16 : FFmt := ⟨8, 7, 127, true, true⟩
def fp16 : FFmt := ⟨5, 10, 15, true, true⟩
def e5m2 : FFmt := ⟨5, 2, 15, true, false⟩
def e4m3 : FFmt := ⟨4, 3, 7, false, false⟩

/-- Bits of a pattern of the format. -/
def FFmt.width (f : FFmt) : Nat := 1 + f.ebits + f.mbits
/-- The pattern with the sign bit alone. -/
def FFmt.signBit (f : FFmt) (s : Bool) : Nat := if s then 2 ^ (f.ebits + f.mbits) else 0
/-- The all-ones exponent field in place. -/
def FFmt.expOnes (f : FFmt) : Nat := (2 ^ f.ebits - 1) * 2 ^ f.mbits
/-- The canonical NaN of R73. -/
def FFmt.nan (f : FFmt) : Nat := if f.ieee then f.expOnes + 2 ^ (f.mbits - 1) else f.expOnes + 2 ^ f.mbits - 1
/-- The largest finite magnitude. -/
def FFmt.maxFin (f : FFmt) : Nat := if f.ieee then f.expOnes - 1 else f.expOnes + 2 ^ f.mbits - 2

/-- A value: a NaN, an infinity, or (-1)^s n 2^e; zeros are signed. -/
inductive Val where
  | nan
  | inf (s : Bool)
  | fin (s : Bool) (n : Nat) (e : Int)
  deriving DecidableEq, Repr

/-- R74: the value of a pattern; under `ftz` a subnormal of a flushed format reads as a zero of its sign (R83). -/
def FFmt.decode (f : FFmt) (ftz : Bool) (x : Nat) : Val :=
  let s := x / 2 ^ (f.ebits + f.mbits) % 2 == 1
  let e := x / 2 ^ f.mbits % 2 ^ f.ebits
  let m := x % 2 ^ f.mbits
  if e == 2 ^ f.ebits - 1 && f.ieee then (if m == 0 then .inf s else .nan)
  else if e == 2 ^ f.ebits - 1 && m == 2 ^ f.mbits - 1 then .nan
  else if e == 0 then (if ftz && f.flush then .fin s 0 0 else .fin s m (1 - (f.bias : Int) - f.mbits))
  else .fin s (2 ^ f.mbits + m) ((e : Int) - f.bias - f.mbits)

/-- The rounding modes of FRM.MODE (R77). -/
inductive Mode where
  | rne | rtz | rup | rdn
  deriving DecidableEq, Repr

def Mode.ofFrm (w : Word) : Mode :=
  match (w.extractLsb' 0 2).toNat with
  | 0 => .rne
  | 1 => .rtz
  | 2 => .rup
  | _ => .rdn

/-- Bits needed for a natural number. -/
def bitLen (n : Nat) : Nat := if n = 0 then 0 else Nat.log2 n + 1

/-- n / 2^k rounded to an integer, and whether that is inexact; `sticky` says that the magnitude lies strictly between n and
n + 1, in which case callers give k at least 2. -/
def roundShift (md : Mode) (s : Bool) (n k : Nat) (sticky : Bool) : Nat × Bool :=
  let q := n / 2 ^ k
  let r := n % 2 ^ k
  let inexact := r != 0 || sticky
  let up := match md with
    | .rne => 2 * r > 2 ^ k || (2 * r == 2 ^ k && k != 0 && (sticky || q % 2 == 1))
    | .rtz => false
    | .rup => inexact && !s
    | .rdn => inexact && s
  (if up then q + 1 else q, inexact)

/-- The result of an exact operation: a NaN, an infinity, a signed zero, or (-1)^s times a magnitude that is n 2^e exactly, or
lies strictly between n 2^e and (n+1) 2^e when `sticky`. -/
inductive Exact where
  | nan
  | inf (s : Bool)
  | zero (s : Bool)
  | num (s : Bool) (n : Nat) (e : Int) (sticky : Bool)
  deriving DecidableEq, Repr

/-- R80: whether an overflow delivers the infinity rather than the largest finite value. -/
def overflowsToInf (md : Mode) (s : Bool) : Bool :=
  match md with
  | .rne => true
  | .rtz => false
  | .rup => !s
  | .rdn => s

/-- R78 to R83: a non-zero exact result rounded once to a format. `sat` is CVT.E4M3X4.SAT. -/
def FFmt.roundNum (f : FFmt) (md : Mode) (ftz sat : Bool) (s : Bool) (n0 : Nat) (e0 : Int) (sticky : Bool) : Nat × Flags :=
  let p := f.mbits + 1
  let pad := p + 2 - bitLen n0
  let n := n0 * 2 ^ pad
  let e := e0 - pad
  let k := bitLen n - p
  let (q, inx) := roundShift md s n k sticky
  -- rounded with unbounded exponent: q 2^(e+k), with top bit of weight 2^top
  let top : Int := e + k + (bitLen q : Int) - 1
  let emin : Int := 1 - (f.bias : Int)
  let emax : Int := if f.ieee then f.bias else (f.bias : Int) + 1
  let mant := if bitLen q > p then q / 2 else q
  let ovfl := top > emax || (!f.ieee && top == emax && mant == 2 ^ p - 1)
  let sb := f.signBit s
  if ovfl then
    if sat then (sb + f.maxFin, flagOvf ||| flagInx ||| flagSat)
    else if !f.ieee then (sb + f.expOnes + 2 ^ f.mbits - 1, flagOvf ||| flagInx)
    else if overflowsToInf md s then (sb + f.expOnes, flagOvf ||| flagInx)
    else (sb + f.maxFin, flagOvf ||| flagInx)
  else if top < emin then
    if ftz && f.flush then (sb, flagUnf ||| flagInx)
    else
      let (qs, inxs) := roundShift md s n (emin - f.mbits - e).toNat sticky
      (sb + qs, flagIf inxs (flagUnf ||| flagInx))
  else (sb + (top - emin + 1).toNat * 2 ^ f.mbits + (mant - 2 ^ f.mbits), flagIf inx flagInx)

/-- An exact result delivered in a format. A NaN here is an invalid result (INV); an infinite E4M3 result is the NaN with its
sign (R81). -/
def FFmt.deliver (f : FFmt) (md : Mode) (ftz : Bool) : Exact → Nat × Flags
  | .nan => (f.nan, flagInv)
  | .inf s => (f.signBit s + (if f.ieee then f.expOnes else f.expOnes + 2 ^ f.mbits - 1), 0#6)
  | .zero s => (f.signBit s, 0#6)
  | .num s n e st => f.roundNum md ftz false s n e st

/-- A finite value as an exact result. -/
def exactFin (s : Bool) (n : Nat) (e : Int) : Exact := if n = 0 then .zero s else .num s n e false

/-- A signed integer multiple of 2^e, with a given sign for zero. -/
def exactInt (zs : Bool) (i : Int) (e : Int) : Exact := if i = 0 then .zero zs else .num (i < 0) i.natAbs e false

/-- (-1)^s n as an integer. -/
def signed (s : Bool) (n : Nat) : Int := if s then -(n : Int) else n

/-- The terms of a sum: NaN, infinities of each sign, the terms' signs, and the finite sum as an integer multiple of 2^e. -/
structure SumAcc where
  nan : Bool
  pinf : Bool
  ninf : Bool
  /-- Every term so far is -0, or every term is +0; R117's rule for an exact zero. -/
  allNegZero : Bool
  allPosZero : Bool
  i : Int
  e : Int
  deriving DecidableEq, Repr

def SumAcc.start : SumAcc := ⟨false, false, false, true, true, 0, 0⟩

/-- One more term of a sum. -/
def SumAcc.add (a : SumAcc) : Val → SumAcc
  | .nan => { a with nan := true }
  | .inf s => { a with pinf := a.pinf || !s, ninf := a.ninf || s, allNegZero := false, allPosZero := false }
  | .fin s n e =>
    let m := min a.e e
    { a with
      allNegZero := a.allNegZero && s && n == 0, allPosZero := a.allPosZero && !s && n == 0,
      i := a.i * 2 ^ (a.e - m).toNat + signed s n * 2 ^ (e - m).toNat, e := m }

/-- R79, R117: the exact sum of terms. An exact zero is -0 when every term is -0, +0 when every term is +0, and otherwise -0
under RDN alone. -/
def SumAcc.result (a : SumAcc) (md : Mode) : Exact :=
  if a.nan || (a.pinf && a.ninf) then .nan
  else if a.pinf then .inf false
  else if a.ninf then .inf true
  else exactInt (if a.allNegZero then true else if a.allPosZero then false else md == .rdn) a.i a.e

/-- The exact sum of values. -/
def exactSum (md : Mode) (l : List Val) : Exact := (l.foldl SumAcc.add SumAcc.start).result md

def Val.neg : Val → Val
  | .nan => .nan
  | .inf s => .inf !s
  | .fin s n e => .fin (!s) n e

/-- The exact product as a value: ∞ times 0 is NaN. -/
def Val.mul : Val → Val → Val
  | .nan, _ | _, .nan => .nan
  | .inf s, .inf t => .inf (s != t)
  | .inf s, .fin t n _ | .fin t n _, .inf s => if n = 0 then .nan else .inf (s != t)
  | .fin s n e, .fin t m g => .fin (s != t) (n * m) (e + g)

def Val.exact : Val → Exact
  | .nan => .nan
  | .inf s => .inf s
  | .fin s n e => exactFin s n e

/-- R79, R117: the exact quotient, to enough bits for one rounding, and DZ. -/
def Val.div : Val → Val → Exact × Flags
  | .nan, _ | _, .nan => (.nan, 0#6)
  | .inf _, .inf _ => (.nan, 0#6)
  | .inf s, .fin t _ _ => (.inf (s != t), 0#6)
  | .fin s _ _, .inf t => (.zero (s != t), 0#6)
  | .fin s n e, .fin t m g =>
    if m = 0 then (if n = 0 then (.nan, 0#6) else (.inf (s != t), flagDz))
    else if n = 0 then (.zero (s != t), 0#6)
    else
      let k := 32 + bitLen m
      (.num (s != t) (n * 2 ^ k / m) (e - k - g) (n * 2 ^ k % m != 0), 0#6)

/-- The integer square root, bit by bit from bit `b` down. -/
def isqrtFrom (n : Nat) : Nat → Nat → Nat
  | 0, r => if (r + 1) * (r + 1) ≤ n then r + 1 else r
  | b + 1, r => isqrtFrom n b (if (r + 2 ^ (b + 1)) * (r + 2 ^ (b + 1)) ≤ n then r + 2 ^ (b + 1) else r)

def isqrt (n : Nat) : Nat := isqrtFrom n (bitLen n / 2) 0

/-- R117: the square root. -/
def Val.sqrt : Val → Exact
  | .nan => .nan
  | .inf s => if s then .nan else .inf false
  | .fin s n e =>
    if n = 0 then .zero s
    else if s then .nan
    else
      let odd := (e % 2).toNat
      let m := n * 2 ^ (odd + 64)
      let r := isqrt m
      .num false r ((e - odd) / 2 - 32) (r * r != m)

/-- 2^0.b1b2... in units of 2^-320, rounded down at each step: 2^0.b1b2... is the square root of 2^b1 times 2^0.b2.... -/
def exp2Frac : List Bool → Nat
  | [] => 2 ^ 320
  | b :: l => isqrt (exp2Frac l * 2 ^ 320 * (if b then 2 else 1))

/-- The `k` bits of n from bit k-1 down to bit 0. -/
def bitsDown (n : Nat) : Nat → List Bool
  | 0 => []
  | k + 1 => n.testBit k :: bitsDown n k

/-- R117: 2 to the power of a value. Beyond 2^10 in magnitude the result overflows or vanishes in every format. -/
def Val.exp2 : Val → Exact
  | .nan => .nan
  | .inf s => if s then .zero false else .inf false
  | .fin s n e =>
    if n = 0 then .num false 1 0 false
    else if e + bitLen n > 10 then (if s then .num false 1 (-2000) true else .num false 1 2000 true)
    else
      let i := signed s n
      if e ≥ 0 then .num false 1 (i * 2 ^ e.toNat) false
      else
        let k := (-e).toNat
        let fl := i / (2 ^ k : Nat)
        let fr := (i % (2 ^ k : Nat)).toNat
        if fr = 0 then .num false 1 fl false
        else .num false (exp2Frac (bitsDown fr k)) (fl - 320) true

/-- The first `k` fraction bits of log2 of m / 2^512, for m from 2^512 up to 2^513, by repeated squaring. -/
def log2Frac : Nat → Nat → Nat
  | 0, _ => 0
  | k + 1, m =>
    let q := m * m / 2 ^ 512
    if q ≥ 2 ^ 513 then 2 ^ k + log2Frac k (q / 2) else log2Frac k q

/-- R117: the base-2 logarithm, and DZ. -/
def Val.log2 : Val → Exact × Flags
  | .nan => (.nan, 0#6)
  | .inf s => (if s then .nan else .inf false, 0#6)
  | .fin s n e =>
    if n = 0 then (.inf true, flagDz)
    else if s then (.nan, 0#6)
    else
      let k : Int := e + bitLen n - 1
      if n = 2 ^ (bitLen n - 1) then (exactInt false k 0, 0#6)
      else
        let t : Int := k * 2 ^ 160 + log2Frac 160 (n * 2 ^ (513 - bitLen n))
        -- the logarithm lies strictly between t and t + 1 units of 2^-160
        if t ≥ 0 then (.num false t.toNat (-160) true, 0#6) else (.num true (t.natAbs - 1) (-160) true, 0#6)

/-- R117: MIN and MAX order: -0 below +0, infinities ordinary. `none` where either is NaN. -/
def Val.less : Val → Val → Option Bool
  | .nan, _ | _, .nan => none
  | .inf s, .inf t => some (s && !t)
  | .inf s, .fin _ _ _ => some s
  | .fin _ _ _, .inf t => some (!t)
  | .fin s n e, .fin t m g =>
    let k := min e g
    let i := signed s n * 2 ^ (e - k).toNat
    let j := signed t m * 2 ^ (g - k).toNat
    some (i < j || (i == 0 && j == 0 && s && !t))

/-- R122: numerical equality; +0 equals -0. -/
def Val.eqv (a b : Val) : Bool := match a, b with
  | .fin _ 0 _, .fin _ 0 _ => true
  | _, _ => a.less b == some false && b.less a == some false

/-- R122: a < b numerically, zeros equal. -/
def Val.ltv (a b : Val) : Bool := !a.eqv b && a.less b == some true

/-! ## Elements of tags (R72, R75, R85, R91) -/

/-- The classes of tags. -/
inductive TagClass where
  | none | int | flt | blk | scale | addr
  deriving DecidableEq, Repr

def Tag.cls : Tag → TagClass
  | .none => .none
  | .i32 | .i8x4 | .i16x2 => .int
  | .f32 | .bf16x2 | .f16x2 | .e4m3x4 | .e5m2x4 => .flt
  | .bfp8x4 | .bfp4x8 | .bfp2x16 => .blk
  | .scale => .scale
  | .addr => .addr

/-- The element width of a tag. -/
def Tag.width : Tag → Nat
  | .i8x4 | .e4m3x4 | .e5m2x4 | .bfp8x4 => 8
  | .i16x2 | .bf16x2 | .f16x2 => 16
  | .bfp4x8 => 4
  | .bfp2x16 => 2
  | .none | .i32 | .f32 | .scale | .addr => 32

/-- The number of elements of a tag. -/
def Tag.elems (t : Tag) : Nat := 32 / t.width

/-- The element format of a floating-point tag. -/
def Tag.fmt : Tag → FFmt
  | .bf16x2 => bf16
  | .f16x2 => fp16
  | .e4m3x4 => e4m3
  | .e5m2x4 => e5m2
  | _ => fp32

/-- The tag codes of R85. -/
def Tag.code : Tag → Nat
  | .none => 0 | .i32 => 1 | .f32 => 2 | .bf16x2 => 3 | .f16x2 => 4 | .e4m3x4 => 5 | .e5m2x4 => 6 | .i8x4 => 7
  | .i16x2 => 8 | .bfp8x4 => 9 | .bfp4x8 => 10 | .bfp2x16 => 11 | .scale => 12 | .addr => 13

/-- The tag of a code; 14 and 15 are reserved. -/
def Tag.ofCode (n : Nat) : Option Tag :=
  [Tag.none, .i32, .f32, .bf16x2, .f16x2, .e4m3x4, .e5m2x4, .i8x4, .i16x2, .bfp8x4, .bfp4x8, .bfp2x16, .scale, .addr][n]?

/-- Element `i` of a word as a natural number. -/
def elem (t : Tag) (x : Word) (i : Nat) : Nat := x.toNat / 2 ^ (t.width * i) % 2 ^ t.width

/-- A natural number below 2^w as a signed integer of w bits. -/
def toSigned (w n : Nat) : Int := if n < 2 ^ (w - 1) then n else (n : Int) - 2 ^ w

/-- An integer reduced modulo 2^w. -/
def wrap (w : Nat) (i : Int) : Nat := (i % (2 ^ w : Nat)).toNat

/-- Element `i` as a signed integer. -/
def selem (t : Tag) (x : Word) (i : Nat) : Int := toSigned t.width (elem t x i)

/-- A word from its elements, element 0 lowest, with the OR of their flags (R84). -/
def pack (w : Nat) : List (Nat × Flags) → Nat × Flags
  | [] => (0, 0#6)
  | (n, f) :: l => let (m, g) := pack w l; (n % 2 ^ w + 2 ^ w * m, f ||| g)

/-- An element-wise operation over the elements of a tag. -/
def mapElems (t : Tag) (f : Nat → Nat × Flags) : Word × Flags :=
  let r := pack t.width ((List.range t.elems).map f)
  (BitVec.ofNat 32 r.1, r.2)

/-- Clamps a signed integer to w bits, with whether it was clamped. -/
def clamp (w : Nat) (i : Int) : Int × Bool :=
  let hi : Int := 2 ^ (w - 1) - 1
  let lo : Int := -(2 ^ (w - 1))
  if i > hi then (hi, true) else if i < lo then (lo, true) else (i, false)

/-! ## Conversions (R82) -/

/-- A finite magnitude rounded to an integer under a mode. -/
def roundInt (md : Mode) (s : Bool) (n : Nat) (e : Int) : Nat × Bool :=
  if e ≥ 0 then (n * 2 ^ e.toNat, false) else roundShift md s n (-e).toNat false

/-- R82: floating point to a signed integer of w bits: a NaN gives 0 and INV, a value out of range its limit and INV. -/
def toInt (md : Mode) (w : Nat) : Val → Int × Flags
  | .nan => (0, flagInv)
  | .inf s => (if s then -(2 ^ (w - 1)) else 2 ^ (w - 1) - 1, flagInv)
  | .fin s n e =>
    let (q, inx) := roundInt md s n e
    let (i, c) := clamp w (signed s q)
    (i, flagIf inx flagInx ||| flagIf c flagInv)

/-- R82: a value converted to a floating-point format. An infinity converted to E4M3 gives the limit under `sat`, setting SAT, and
the NaN 0x7F otherwise, setting INV (R81; log 16). -/
def toFloat (f : FFmt) (md : Mode) (ftz sat : Bool) : Val → Nat × Flags
  | .nan => (f.nan, flagInv)
  | .inf s => if f.ieee then (f.signBit s + f.expOnes, 0#6)
    else if sat then (f.signBit s + f.maxFin, flagSat) else (f.nan, flagInv)
  | .fin s n e => if n = 0 then (f.signBit s, 0#6) else f.roundNum md ftz sat s n e false

/-- R6: x rounded to nearest even in a format, with the RNE column of R80; subnormals are kept (R78). -/
def rneF32 (x : Exact) : Nat × Flags := fp32.deliver .rne false x

/-- R52: the small integers of an inline operand in a floating-point element format, to nearest even with no flag. -/
def inlineElem (f : FFmt) (i : Int) : Nat := (toFloat f .rne false false (.fin (i < 0) i.natAbs 0)).1

/-- R52: an inline integer in the consuming format; `none` traps FMT. -/
def inlineBits (t : Tag) (v : BitVec 5) : Option Word :=
  match t.cls with
  | .int => some (mapElems t fun _ => (wrap t.width v.toInt, 0#6)).1
  | .flt => some (mapElems t fun _ => (inlineElem t.fmt v.toInt, 0#6)).1
  | _ => none

/-! ## Block floating point (R88 to R96) -/

/-- n 2^k rounded to an integer with ties to even, and whether it is inexact. -/
def rneScaled (n : Nat) (k : Int) : Nat × Bool := roundInt .rne false n k

/-- R93: the largest magnitude of a set, as n 2^e, with whether any member is a NaN or an infinity. -/
def maxMag : List Val → (Nat × Int) × Bool
  | [] => ((0, 0), false)
  | v :: l =>
    let (m, bad) := maxMag l
    match v with
    | .fin _ n e =>
      let k := min e m.2
      (if n * 2 ^ (e - k).toNat ≥ m.1 * 2 ^ (m.2 - k).toNat then (n, e) else m, bad)
    | _ => (m, true)

/-- R93: the smallest E from 1 to 510 at which the magnitude fits width w. -/
def fitE (w : Nat) (m : Nat × Int) : Option Nat :=
  ((List.range 510).map (· + 1)).find? fun E => (rneScaled m.1 (m.2 + w - 1 + 255 - E)).1 ≤ 2 ^ (w - 1) - 1

/-- R93: the agreed exponent at width w, with flags; `sat` is ACO's SAT = 1. -/
def agreedE (w : Nat) (sat : Bool) (l : List Val) : Nat × Flags :=
  let (m, bad) := maxMag l
  if bad then (511, flagInv)
  else if m.1 = 0 then (0, 0#6)
  else match fitE w m with
    | some E => (E, 0#6)
    | none => if sat then (510, flagSat ||| flagInx) else (511, flagOvf ||| flagInx)

/-- R94: the quantised mantissa of a value at width w and exponent E. -/
def quantise (w E : Nat) : Val → Int × Flags
  | .nan => (0, flagInv)
  | .inf s =>
    if E = 0 || E = 511 then (0, flagInx)
    else (if s then -(2 ^ (w - 1)) else 2 ^ (w - 1) - 1, flagSat ||| flagInx)
  | .fin s n e =>
    if E = 0 || E = 511 then (0, flagIf (n != 0) flagInx)
    else
      let (q, inx) := rneScaled n (e + w - 1 + 255 - E)
      let (m, c) := clamp w (signed s q)
      (m, flagIf c (flagSat ||| flagInx) ||| flagIf inx flagInx)

/-- R88: the value of a mantissa at width w and exponent E. -/
def blockVal (w E : Nat) (m : Int) : Val :=
  if E = 511 then .nan else if E = 0 then .fin false 0 0
  else .fin (m < 0) m.natAbs ((E : Int) - 255 - ((w : Int) - 1))

/-- R95: a block element dequantised to FP32, delivered under FTZ (R83). -/
def dequantise (ftz : Bool) (w E : Nat) (m : Int) : Nat × Flags := toFloat fp32 .rne ftz false (blockVal w E m)

/-- A block of 32 mantissas with its shared exponent. -/
structure Block where
  e : Nat
  m : List Int
  deriving DecidableEq, Repr

/-- i / 2^k rounded to nearest even. -/
def rneInt (i : Int) (k : Nat) : Int × Bool := let (q, x) := roundShift .rne false i.natAbs k false; (if i < 0 then -q else q, x)

/-- R96: block add-and-requantise of two blocks of width w. -/
def blockAdd (w : Nat) (a b : Block) : Block × Flags :=
  if a.e = 511 || b.e = 511 then (⟨511, List.replicate 32 0⟩, flagInv)
  else
    let emax := max a.e b.e
    -- sums in units of 2^-(emax - emin)
    let emin := min a.e b.e
    let u := emax - emin
    let term (x : Block) (m : Int) : Int := if x.e = 0 then 0 else m * 2 ^ (x.e - emin)
    let sums := List.zipWith (fun x y => term a x + term b y) a.m b.m
    let fits (s : Nat) := sums.all fun i => let q := (rneInt i (u + s)).1; -(2 ^ (w - 1)) ≤ q && q ≤ 2 ^ (w - 1) - 1
    let s := if fits 0 then 0 else if fits 1 then 1 else 2
    let e' := emax + s
    if e' > 510 then (⟨511, List.replicate 32 0⟩, flagOvf)
    else (⟨e', sums.map fun i => (rneInt i (u + s)).1⟩, flagIf (sums.any fun i => (rneInt i (u + s)).2) flagInx)

end Sys2Proof.Machine
end

