-- ==== Sys2Proof/Machine/Operands.lean ====
section
/-! DEFINITION. Source operands, latches and results of a lane (spec/02_encoding R50 to R56, R86), and the view an issuing
party has of its wave. -/

namespace Sys2Proof.Machine

/-! ## Finding and changing the parts of the state -/

/-- A list of keyed entries: the value of a key, or a default that an absent entry stands for. -/
def assocGet {α β : Type} [DecidableEq α] (l : List (α × β)) (k : α) (dflt : β) : β :=
  match l.find? (fun e => e.1 = k) with
  | some e => e.2
  | none => dflt

/-- Sets the value of a key, keeping one entry for it. -/
def assocSet {α β : Type} [DecidableEq α] (l : List (α × β)) (k : α) (v : β) : List (α × β) :=
  if l.any (fun e => e.1 = k) then l.map (fun e => if e.1 = k then (k, v) else e) else l ++ [(k, v)]

def State.wave? (s : State) (u : Nat) : Option Wave := s.waves.find? (·.uid == u)
def State.team? (s : State) (u : Nat) : Option Team := s.teams.find? (·.uid == u)
def State.ctx? (s : State) (c : BitVec 12) : Option Ctx := s.ctxs.find? (·.id == c)

/-- Every wave whose name is `u` changed by `f`; names are unique, so this is one wave. -/
def State.modWave (s : State) (u : Nat) (f : Wave → Wave) : State :=
  { s with waves := s.waves.map fun w => if w.uid == u then f w else w }

def State.modTeam (s : State) (u : Nat) (f : Team → Team) : State :=
  { s with teams := s.teams.map fun t => if t.uid == u then f t else t }

def State.modCtx (s : State) (c : BitVec 12) (f : Ctx → Ctx) : State :=
  { s with ctxs := s.ctxs.map fun x => if x.id == c then f x else x }

def State.pipe (s : State) (p : PipeId) : Pipe := assocGet s.pipes p Pipe.reset
def State.setPipe (s : State) (p : PipeId) (x : Pipe) : State := { s with pipes := assocSet s.pipes p x }

def Wave.width (w : Wave) : Nat := w.lanes.length

/-- The pipeline of lane `i` of a wave (06_group R201). -/
def Wave.pipeOf (w : Wave) (i : Nat) : PipeId := ⟨w.die, w.gw, w.clu, w.base + i⟩

def Wave.modLane (w : Wave) (i : Nat) (f : Lane → Lane) : Wave :=
  { w with lanes := w.lanes.modify i f }

def State.modLane (s : State) (u i : Nat) (f : Lane → Lane) : State := s.modWave u (·.modLane i f)

/-- The lanes of a mask, lowest first. -/
def lanesOf (m : Word) (n : Nat) : List Nat := (List.range n).filter fun i => m.getLsbD i

/-- The mask of a list of lanes. -/
def maskOf (l : List Nat) : Word := l.foldl (fun m i => m ||| (1#32 <<< i)) 0#32

/-- What an issuing party sees: its wave, its thread, its lane when it runs on its own, and its active lanes. -/
structure View where
  w : Wave
  thr : Thread
  lane : Option Nat
  act : List Nat
  deriving DecidableEq, Repr

/-- The view of an issuer: an attached wave, or a lane that has a thread of its own. -/
def State.view (s : State) (i : Issuer) : Option View :=
  match s.wave? i.wave, i.lane with
  | none, _ => none
  | some w, none => if w.detach then none else some ⟨w, w.thr, none, lanesOf w.live w.width⟩
  | some w, some l =>
    match w.lanes[l]? with
    | none => none
    | some x => x.own.map fun t => ⟨w, t, some l, [l]⟩

def View.iss (v : View) : Issuer := ⟨v.w.uid, v.lane⟩

/-- The lowest active lane's number. -/
def View.low (v : View) : Nat := v.act.headD 0

/-- A lane of the view's wave; a lane that does not exist reads as lane 0 of no wave. -/
def View.lane? (v : View) (i : Nat) : Option Lane := v.w.lanes[i]?

/-- TRAPCAUSE.INH (04_pipeline R108). -/
def Lane.inh (l : Lane) : Bool := l.trapcause.getLsbD 13

/-- Whether the issuing party is in a trap handler. A handler runs as a solo wave or on one lane. -/
def View.inh (v : View) : Bool := (v.lane? v.low).any (·.inh)

/-- Whether the issuer is a lane running detached outside a handler. -/
def View.detached (v : View) : Bool := v.lane.isSome && !v.inh

/-- WIDTH as the issuer reads it (06_group R224, R226). -/
def View.width (v : View) : Nat := if v.lane.isSome && v.inh then 1 else v.w.width

/-- LANEBASE as the issuer reads it. -/
def View.laneBase (v : View) : Nat := if v.lane.isSome && v.inh then v.w.base + v.low else v.w.base

/-- The live mask as the issuer reads it. -/
def View.liveMask (v : View) : Word :=
  match v.lane with
  | none => v.w.live
  | some i => if v.inh then 1#32 else 1#32 <<< i

/-- The thread of an issuer changed by `f`. -/
def State.modThr (s : State) (i : Issuer) (f : Thread → Thread) : State :=
  match i.lane with
  | none => s.modWave i.wave fun w => { w with thr := f w.thr }
  | some l => s.modLane i.wave l fun x => { x with own := x.own.map f }

/-! ## Registers and latches of a lane -/

def Lane.reg (l : Lane) (r : Nat) : Reg := l.regs[r]?.getD Reg.empty
def Lane.setReg (l : Lane) (r : Nat) (v : Reg) : Lane := { l with regs := l.regs.setIfInBounds r v }

def Lane.latch (l : Lane) (k : BitVec 2) : Option Reg :=
  match k.toNat with
  | 0 => l.l0
  | 1 => l.l1
  | 2 => l.l2
  | _ => none

def Lane.clearLatches (l : Lane) : Lane := { l with l0 := none, l1 := none, l2 := none }

/-- R55: a single-register result under nw and hd. -/
def Lane.write (l : Lane) (d : Nat) (nw hd : Bool) (r : Reg) : Lane :=
  let l := if hd then { l with l0 := some r, l1 := l.l0, l2 := l.l1 } else l
  if nw then l else l.setReg d r

/-- Sets sticky flags (R77). -/
def Lane.raise (l : Lane) (f : Flags) : Lane := { l with flags := l.flags ||| f.setWidth 32 }

/-- R52: the tag of a register, latch or port source. -/
def Lane.srcTag (l : Lane) : Src → Option Tag
  | .reg r => some (l.reg r.toNat).tag
  | .latch k => (l.latch k).map (·.tag)
  | .port _ => some .i32
  | _ => none

/-- A failed check of a lane: the cause, the address TRAPADDR takes (the instruction word where none), and whether it comes at
step 7 of R62, after the ports have been popped. -/
structure Fail where
  cause : Cause
  addr : Option (BitVec 64)
  late : Bool
  deriving DecidableEq, Repr

def failFmt : Fail := ⟨.fmt, none, false⟩
def failFld : Fail := ⟨.illfld, none, false⟩
def failCls : Fail := ⟨.illcls, none, false⟩
/-- ILLFLD at step 7. -/
def failFld7 : Fail := ⟨.illfld, none, true⟩
def failFmt7 : Fail := ⟨.fmt, none, true⟩

/-- R51 to R53: a source with its tag, given the consuming format and the element popped for a port. -/
def Lane.src (l : Lane) (fmt : Tag) (p : Word) : Src → Except Fail Reg
  | .reg r => .ok (l.reg r.toNat)
  | .latch k => match l.latch k with
    | some r => .ok r
    | none => .error failFld
  | .port _ => .ok ⟨p, .i32⟩
  | .lit (some w) => .ok ⟨w, fmt⟩
  | .lit none => .error failCls
  | .inl v => match inlineBits fmt v with
    | some w => .ok ⟨w, fmt⟩
    | none => .error failFmt
  | .rsv _ => .error failFld

/-- A source that must not be tagged NONE (R86). -/
def Lane.srcSome (l : Lane) (fmt : Tag) (p : Word) (x : Src) : Except Fail Reg :=
  match l.src fmt p x with
  | .ok r => if r.tag = .none then .error failFmt else .ok r
  | .error e => .error e

/-- A source that must carry one tag. -/
def Lane.srcAs (l : Lane) (t : Tag) (p : Word) (x : Src) : Except Fail Word :=
  match l.src t p x with
  | .ok r => if r.tag = t then .ok r.bits else .error failFmt
  | .error e => .error e

/-- A register that an instruction reads as d, not NONE. -/
def Lane.regSome (l : Lane) (r : Nat) : Except Fail Reg :=
  if (l.reg r).tag = .none then .error failFmt else .ok (l.reg r)

/-- A register that must carry one tag. -/
def Lane.regAs (l : Lane) (t : Tag) (r : Nat) : Except Fail Word :=
  if (l.reg r).tag = t then .ok (l.reg r).bits else .error failFmt

/-- R87: the address in an ADDR pair, whole or FMT. -/
def Lane.pair (l : Lane) (r : Nat) : Except Fail DWord :=
  if (l.reg r).tag = .addr && (l.reg (r + 1)).tag = .addr then .ok ((l.reg (r + 1)).bits ++ (l.reg r).bits) else .error failFmt

/-- Writes an ADDR pair. -/
def Lane.setPair (l : Lane) (r : Nat) (a : DWord) : Lane :=
  (l.setReg r ⟨a.extractLsb' 0 32, .addr⟩).setReg (r + 1) ⟨a.extractLsb' 32 32, .addr⟩

/-- A register written as I32. -/
def regI32 (w : Word) : Reg := ⟨w, .i32⟩

/-- The code of a status (01_ties R39). -/
def Status.code : Status → Nat
  | .ok => 0 | .full => 1 | .depth => 2 | .torn => 3 | .badspace => 4 | .broken => 5 | .toobig => 6 | .nopeer => 7
  | .mismatch => 8 | .abort => 9 | .refused => 10 | .linkdown => 11

def Status.word (x : Status) : Word := BitVec.ofNat 32 x.code
def Status.reg (x : Status) : Reg := regI32 x.word

/-- The code of a trap cause (01_ties R38). -/
def Cause.code : Cause → Nat
  | .illop => 1 | .illfld => 2 | .illcls => 3 | .fmt => 4 | .align => 5 | .pfault => 6 | .prot => 7 | .divg => 8 | .brk => 9
  | .trapi => 10 | .data => 11 | .regxstall => 12 | .priv => 13 | .gwonly => 14

/-- R50: the register limits of a wave. -/
def regLegal (w : Wave) (r : Nat) : Bool := r < w.bregs || (32 ≤ r && r < 32 + w.xregs)

/-- R57: the tests of a condition on the bits of a register. -/
def condHolds (cond : BitVec 4) (x : Word) : Bool :=
  match cond.toNat with
  | 1 => x == 0#32
  | 2 => x != 0#32
  | 3 => x.msb
  | 4 => !x.msb
  | 5 => !x.msb && x != 0#32
  | 6 => x.msb || x == 0#32
  | _ => true

end Sys2Proof.Machine
end

