-- ==== Sys2Proof/Machine/Memory.lean ====
section
/-! DEFINITION. The memory engine (spec/05_memory): bytes in canonical form, page tables and translation, compressed pages, the
L1 slices and banking sets, and scratchpads. -/

namespace Sys2Proof.Machine

/-! ## Bytes -/

/-- The byte at an address; an unlisted address reads 0 (log 2). -/
def memGet : List Host.Cell → Nat → Byte
  | [], _ => 0#8
  | (k, b) :: m, a => if a = k then b else memGet m a

/-- Sets a byte, keeping addresses rising and listing no zero byte. -/
def memPut : List Host.Cell → Nat → Byte → List Host.Cell
  | [], a, v => if v = 0#8 then [] else [(a, v)]
  | (k, b) :: m, a, v =>
    if a < k then (if v = 0#8 then (k, b) :: m else (a, v) :: (k, b) :: m)
    else if a = k then (if v = 0#8 then m else (a, v) :: m)
    else (k, b) :: memPut m a v

/-- The canonical form from a lower bound on: addresses rise strictly and no byte is 0. -/
def memWfFrom : Nat → List Host.Cell → Bool
  | _, [] => true
  | lo, (k, b) :: m => lo ≤ k && b != 0#8 && memWfFrom (k + 1) m

/-- The canonical form of a memory. -/
def Memory.wf (m : List Host.Cell) : Bool := memWfFrom 0 m

/-- Bytes stored from an address up. -/
def memPuts : List Host.Cell → Nat → List Byte → List Host.Cell
  | m, _, [] => m
  | m, a, b :: l => memPuts (memPut m a b) (a + 1) l

/-- `n` bytes from an address up. -/
def memGets (m : List Host.Cell) (a n : Nat) : List Byte := (List.range n).map fun i => memGet m (a + i)

/-- Little-endian (R40): the number the bytes hold, lowest address first. -/
def leNat : List Byte → Nat
  | [] => 0
  | b :: l => b.toNat + 256 * leNat l

/-- The `n` little-endian bytes of a number. -/
def leBytes : Nat → Nat → List Byte
  | 0, _ => []
  | n + 1, x => BitVec.ofNat 8 x :: leBytes n (x / 256)

/-- The 32-bit words of a list of bytes, lowest first. -/
def leWords (l : List Byte) (n : Nat) : List Word := (List.range n).map fun i => BitVec.ofNat 32 (leNat ((l.drop (4 * i)).take 4))

/-- The bytes of a list of words. -/
def wordBytes (l : List Word) : List Byte := l.flatMap fun w => leBytes 4 w.toNat

/-- A number in memory. -/
def State.physNat (s : State) (a n : Nat) : Nat := leNat (memGets s.mem a n)

/-! ## Physical memory -/

/-- The lines that `n` bytes from an address lie in. -/
def spanLines (a n : Nat) : List Nat := (List.range ((a + n - 1) / 128 + 1 - a / 128)).map (a / 128 + ·)

/-- R166: lines of a page in migration that a write marks. -/
def Migration.mark (m : Migration) (a n : Nat) : Migration :=
  if n = 0 || a + n ≤ m.f0.toNat || m.f0.toNat + m.size ≤ a then m
  else { m with marked := ((spanLines a n).filter (fun k => m.f0.toNat ≤ 128 * k && 128 * k < m.f0.toNat + m.size) ++ m.marked).dedup }

/-- A hart's reservation ends when a byte of it is written (14_hub R431). -/
def Hart.disturb (h : Hart) (a n : Nat) : Hart :=
  match h.resv with
  | some (b, k) => if a < b + k && b < a + n then { h with resv := none } else h
  | none => h

/-- A write of bytes to physical memory, with its marks in pages in migration and the reservations it ends; no L2 holds its lines dirty. -/
def State.physWrite (s : State) (a : Nat) (l : List Byte) : State :=
  { s with mem := memPuts s.mem a l, migrations := s.migrations.map (·.mark a l.length),
           harts := s.harts.map (fun e => (e.1, e.2.disturb a l.length)), l2 := s.l2.filter fun e => !(spanLines a l.length).contains e.line }

/-- A byte of a physical line cannot be read (R172). -/
def State.lineErred (s : State) (line : Nat) : Bool := (List.range 128).any fun i => s.bad.contains (128 * line + i)

/-- R171: a line becomes dirty in a die's L2; what memory last had of it is kept. -/
def State.l2Own (s : State) (die line : Nat) : State :=
  { s with l2 := ⟨die, line, ((s.l2.find? (·.line == line)).map (·.old)).getD (BitVec.ofNat 1024 (leNat (memGets s.mem (128 * line) 128)))⟩ ::
                 s.l2.filter (·.line != line) }

/-- A write of bytes through a die's L2 (R167, R171). -/
def State.dieWrite (s : State) (die a : Nat) (l : List Byte) : State :=
  let s1 := (spanLines a l.length).foldl (fun s k => s.l2Own die k) s
  { s1.physWrite a l with l2 := s1.l2 }

/-- R166, R401: whether some of `n` bytes from a physical address lie in a page whose accesses stall. -/
def State.frozenIn (s : State) (a n : Nat) : Bool :=
  s.migrations.any (fun m => m.frozen && m.f0.toNat < a + n && a < m.f0.toNat + m.size) ||
  s.expands.any (fun e => e.frame.toNat < a + n && a < e.frame.toNat + e.size)

/-- R166, R401: whether a physical address lies in a page whose accesses stall. -/
def State.frozenAt (s : State) (a : Nat) : Bool := s.frozenIn a 1

/-- R151: the bytes of a heap. -/
def heapSize : Nat := 0x165A080000

/-- The package of a physical address (R151). -/
def pkgOf (a : Nat) : BitVec 12 := BitVec.ofNat 12 (a / 2 ^ 45)

/-- The compute die that homes a physical address. -/
def homeDie (a : Nat) : Nat := a % 2 ^ 45 / 2 ^ 37

/-! ## Page tables (R155 to R158) -/

/-- What a translation finds. -/
inductive Xlat where
  /-- The leaf's level and entry. -/
  | leaf (level : Nat) (pte : DWord)
  | fault (malformed : Bool)
  deriving DecidableEq, Repr

/-- The size of a page of a level. -/
def pageSize (level : Nat) : Nat := 2 ^ (18 + 9 * level)

/-- The frame of a leaf entry. -/
def pteFrame (pte : DWord) : Nat := pte.toNat % 2 ^ 57 / 2 ^ 18 * 2 ^ 18

/-- R157: whether a valid leaf entry is well formed for its level. -/
def leafOk (level : Nat) (pte : DWord) : Bool :=
  let f := pteFrame pte
  let l := f % 2 ^ 45
  !pte.getLsbD 17 && !pte.getLsbD 62 && !pte.getLsbD 63 && pte.extractLsb' 11 2 != 3#2 &&
  f % pageSize level == 0 && l / 2 ^ 37 < 8 && l % 2 ^ 37 + pageSize level ≤ heapSize &&
  (!pte.getLsbD 13 || l / 2 ^ 37 == 0)

/-- R156: whether a valid non-leaf entry is well formed. -/
def nonLeafOk (pte : DWord) : Bool := pte.extractLsb' 2 10 == 0#10 && pte.extractLsb' 57 7 == 0#7

/-- The table walk from a table's address down from a level. -/
def walkFrom (m : List Host.Cell) (va : Nat) : Nat → Nat → Xlat
  | table, level =>
    let pte : DWord := BitVec.ofNat 64 (leNat (memGets m (table + 8 * (va / 2 ^ (18 + 9 * level) % 512)) 8))
    if !pte.getLsbD 0 then .fault false
    else if pte.getLsbD 1 then (if level < 3 && leafOk level pte then .leaf level pte else .fault true)
    else match level with
      | 0 => .fault true
      | l + 1 => if nonLeafOk pte then walkFrom m va (pte.toNat % 2 ^ 57 / 2 ^ 12 * 2 ^ 12) l else .fault true
termination_by structural _ level => level

/-- R155: the walk of a virtual address in a context; root entries 504 to 511 are ignored (R149). -/
def State.walk (s : State) (c : Ctx) (va : Nat) : Xlat :=
  if va / 2 ^ 45 % 512 ≥ 504 then .fault false else walkFrom s.mem va c.root.toNat 3

/-- The address of the leaf entry that a walk from a table down ends in. -/
def leafEntryFrom (m : List Host.Cell) (va : Nat) : Nat → Nat → Option Nat
  | table, level =>
    let a := table + 8 * (va / 2 ^ (18 + 9 * level) % 512)
    let pte : DWord := BitVec.ofNat 64 (leNat (memGets m a 8))
    if !pte.getLsbD 0 then none
    else if pte.getLsbD 1 then some a
    else match level with
      | 0 => none
      | l + 1 => leafEntryFrom m va (pte.toNat % 2 ^ 57 / 2 ^ 12 * 2 ^ 12) l
termination_by structural _ level => level

/-- The cached leaf for an address (log 5). -/
def State.tlbFind (s : State) (die : Nat) (ctx : BitVec 12) (va : Nat) : Option TlbEntry :=
  s.tlb.find? fun e => e.die == die && e.ctx == ctx && e.page == va / pageSize e.level

/-- R162: a translation by the die's caches and the walker; only valid well-formed leaves are cached. -/
def State.translate (s : State) (die : Nat) (ctx : BitVec 12) (va : Nat) : State × Xlat :=
  match s.tlbFind die ctx va with
  | some e => (s, .leaf e.level e.pte)
  | none =>
    match s.ctx? ctx with
    | none => (s, .fault false)
    | some c =>
      match s.walk c va with
      | .leaf l p => ({ s with tlb := s.tlb ++ [⟨die, ctx, l, va / pageSize l, p⟩] }, .leaf l p)
      | x => (s, x)

/-- The physical address a leaf gives. -/
def leafAddr (level : Nat) (pte : DWord) (va : Nat) : Nat := pteFrame pte + va % pageSize level

/-- The kinds of access of R158. -/
inductive Access where
  | read | write | atomic | fetch
  deriving DecidableEq, Repr

/-- R158: the permission and lock check of a leaf's attribute bits 16:0 against the context's key sets. -/
def permits (c : Ctx) (k : Access) (attr : BitVec 17) : Bool :=
  let lock := (attr.extractLsb' 5 6).toNat
  let rd := attr.getLsbD 2 && c.rkey.getLsbD lock
  let wr := attr.getLsbD 3 && c.wkey.getLsbD lock
  match k with
  | .read => rd
  | .write => wr
  | .atomic => rd && wr
  | .fetch => attr.getLsbD 4 && c.rkey.getLsbD lock

def attrSO (attr : BitVec 17) : Bool := attr.extractLsb' 11 2 == 1#2
def attrUO (attr : BitVec 17) : Bool := attr.extractLsb' 11 2 == 2#2
def attrRepl (attr : BitVec 17) : Bool := attr.getLsbD 13
def attrComp (attr : BitVec 17) : Bool := attr.getLsbD 14
def attrExpand (attr : BitVec 17) : Bool := attr.getLsbD 15

/-- R159: the replica a party on a die reads, or the address itself. -/
def replicaAddr (die : Nat) (attr : BitVec 17) (a : Nat) : Nat := if attrRepl attr then a + die * 2 ^ 37 else a

/-- A write of bytes through a die's L2, or at their home. -/
def State.write (s : State) (die : Option Nat) (a : Nat) (l : List Byte) : State :=
  match die with
  | some d => s.dieWrite d a l
  | none => s.physWrite a l

/-- R159: a write to a page, to all eight replicas where it has them. -/
def State.pageWrite (s : State) (die : Option Nat) (attr : BitVec 17) (a : Nat) (l : List Byte) : State :=
  if attrRepl attr then (List.range 8).foldl (fun s k => s.write die (a + k * 2 ^ 37) l) s else s.write die a l

/-! ## Compressed pages (12_stack R399, R400) -/

/-- A stored byte; `none` for an uncorrectable error (R172). -/
def State.storedByte (s : State) (a : Nat) : Option Byte := if s.bad.contains a then none else some (memGet s.mem a)

/-- A number of `n` stored bytes, all of which can be read. -/
def State.storedNat (s : State) (a n : Nat) : Option Nat :=
  if (List.range n).any fun i => s.bad.contains (a + i) then none else some (s.physNat a n)

/-- A byte of a COMP page's uncompressed image, at physical address `a`; `none` where its unit is malformed, or where its header, its mask or
the byte itself cannot be read. -/
def State.compByte (s : State) (a : Nat) : Option Byte :=
  let piece := a / 2 ^ 18 * 2 ^ 18
  let off := a % 2 ^ 18
  let i := off % 4096
  (s.storedNat (piece + off / 4096 * 4) 4).bind fun hdr =>
    let data := hdr % 2 ^ 13 * 32
    let method := hdr / 2 ^ 13 % 4
    if hdr / 2 ^ 15 != 0 || method == 3 then none
    else if method == 1 then (if data = 0 then some 0#8 else none)
    else if method == 0 then
      if data < 256 || data + 4096 > 2 ^ 18 then none else s.storedByte (piece + data + i)
    else
      (s.storedNat (piece + data) 16).bind fun mask =>
        let stored := ((List.range 128).filter fun j => mask.testBit j).length
        if data < 256 || data + 32 + 32 * stored > 2 ^ 18 then none
        else if mask.testBit (i / 32) then
          let k := ((List.range (i / 32)).filter fun j => mask.testBit j).length
          s.storedByte (piece + data + 32 + 32 * k + i % 32)
        else some 0#8

/-- A byte as a page's reader sees it in memory: expanded on a COMP page; `none` for an uncorrectable error (R172, R400). -/
def State.pageByte (s : State) (attr : BitVec 17) (a : Nat) : Option Byte := if attrComp attr then s.compByte a else s.storedByte a

/-- The leaf entries of a page table from a table's address down from a level, as (first virtual address, level, entry). -/
def leavesFrom (m : List Host.Cell) : Nat → Nat → Nat → List (Nat × Nat × DWord)
  | va, table, level =>
    (m.filter fun c => table ≤ c.1 && c.1 < table + 4096 && c.1 % 8 == 0 && c.2.getLsbD 0).flatMap fun c =>
      let pte : DWord := BitVec.ofNat 64 (leNat (memGets m c.1 8))
      let at1 := va + (c.1 - table) / 8 * pageSize level
      if pte.getLsbD 1 then (if level < 3 && leafOk level pte then [(at1, level, pte)] else [])
      else match level with
        | 0 => []
        | l + 1 => if nonLeafOk pte then leavesFrom m at1 (pte.toNat % 2 ^ 57 / 2 ^ 12 * 2 ^ 12) l else []
termination_by structural _ _ level => level

/-- R160: a COMP page of some context with one of `n` bytes from a physical address: the context, the page's virtual address, and its entry. -/
def State.compLeaf (s : State) (a n : Nat) : Option (BitVec 12 × Nat × DWord) :=
  s.ctxs.findSome? fun c => ((leavesFrom s.mem 0 c.root.toNat 3).find? fun e =>
    let attr := e.2.2.extractLsb' 0 17
    attrComp attr && (List.range 8).any fun k =>
      let f := pteFrame e.2.2 + k * 2 ^ 37
      (k = 0 || attrRepl attr) && f < a + n && a < f + pageSize e.2.1).map fun e => (c.id, e.1, e.2.2)

/-- R160: a physical address lies in a COMP page of some context. -/
def State.compAt (s : State) (a : Nat) : Bool := (s.compLeaf a 1).isSome

/-- R160, R401: a byte as a party that reads by physical address sees it; a COMP page's bytes come expanded. -/
def State.hostByte (s : State) (a : Nat) : Option Byte := if s.compAt a then s.compByte a else s.storedByte a

/-! ## L1 slices (R167, R168) and banking sets (06_group R213) -/

/-- The widest aligned set, as base and width, that a group of the cluster holds around a pipeline. -/
def State.bankingSet (s : State) (p : PipeId) : Option (Nat × Nat) :=
  if p.gw then none
  else
    let holds (n : Nat) := s.waves.any fun w =>
      !w.gw && w.die == p.die && w.clu == p.clu && w.width == n && w.base ≤ p.pipe && p.pipe < w.base + n
    if holds 32 then some (0, 32)
    else if holds 16 then some (p.pipe / 16 * 16, 16)
    else if holds 8 then some (p.pipe / 8 * 8, 8)
    else none

/-- The slice that holds a physical line for a pipeline. -/
def State.sliceOf (s : State) (p : PipeId) (line : Nat) : PipeId :=
  match s.bankingSet p with
  | some (b, n) => { p with pipe := b + line % n }
  | none => p

/-- The slices a pipeline's cache consists of. -/
def State.slicesOf (s : State) (p : PipeId) : List PipeId :=
  match s.bankingSet p with
  | some (b, n) => (List.range n).map fun j => { p with pipe := b + j }
  | none => [p]

/-- The dirty bytes of a line as (address, byte). -/
def L1Line.dirtyBytes (l : L1Line) : List Host.Cell :=
  ((List.range 128).filter fun i => l.dirty.getLsbD i).map fun i => (l.line * 128 + i, l.data.extractLsb' (8 * i) 8)

/-- The number by which the errors of a slice go. -/
def pipeCode (p : PipeId) : Nat := ((p.die * 2 + if p.gw then 1 else 0) * 64 + p.clu) * 32 + p.pipe

/-- R172: some of `n` bytes of an array cannot be read. -/
def State.erred (s : State) (a : ErrArray) (own off n : Nat) : Bool :=
  s.errs.any fun c => c.arr = a && c.own == own && off ≤ c.off && c.off < off + n

/-- R167: a line's dirty bytes written back to the L2. An error found there keeps them from memory, and the die that held them is to be
fenced (R173). -/
def State.writeBack (s : State) (l : L1Line) : State :=
  if l.dirty = 0#128 then s
  else if s.erred .l1 (pipeCode l.pipe) (128 * l.line) 128 then { s with lost := s.lost ++ [(l.pipe.die, l.line)] }
  else l.dirtyBytes.foldl (fun s c => s.dieWrite l.pipe.die c.1 [c.2]) s

/-- Writes back every dirty byte of some slices and keeps the lines clean. -/
def State.cleanSlices (s : State) (ps : List PipeId) : State :=
  let s := (s.l1.filter fun l => ps.contains l.pipe).foldl State.writeBack s
  { s with l1 := s.l1.map fun l => if ps.contains l.pipe then { l with dirty := 0#128 } else l }

/-- Writes back and invalidates every line of some slices. -/
def State.flushSlices (s : State) (ps : List PipeId) : State :=
  let s := s.cleanSlices ps
  { s with l1 := s.l1.filter fun l => !ps.contains l.pipe }

/-- A release's effect on the L1 of pipelines (R167, R168). -/
def State.l1Release (s : State) (ps : List PipeId) : State := s.cleanSlices (ps.flatMap s.slicesOf)

/-- The waves that hold a slot on one of some pipelines. -/
def State.wavesOn (s : State) (ps : List PipeId) : List Nat :=
  (s.waves.filter fun w => ps.any fun p =>
    w.die == p.die && w.gw == p.gw && w.clu == p.clu && w.base ≤ p.pipe && p.pipe < w.base + w.width).map (·.uid)

/-- R192: an acquire invalidates the read-only path for the waves of some pipelines. -/
def State.dropReadOnly (s : State) (ps : List PipeId) : State :=
  let us := s.wavesOn ps
  { s with ro := s.ro.filter fun l => !us.contains l.wave }

/-- An acquire's effect on the L1 of pipelines, and on the read-only path of their waves. -/
def State.l1Acquire (s : State) (ps : List PipeId) : State := (s.flushSlices (ps.flatMap s.slicesOf)).dropReadOnly ps

/-- The line holding a physical line in a pipeline's cache. -/
def State.l1Find (s : State) (p : PipeId) (line : Nat) : Option L1Line :=
  s.l1.find? fun l => l.pipe = s.sliceOf p line && l.line == line

/-- Removes a line after writing back its dirty bytes. -/
def State.l1Drop (s : State) (p : PipeId) (line : Nat) : State :=
  match s.l1Find p line with
  | none => s
  | some l => let s := s.writeBack l; { s with l1 := s.l1.filter fun x => !(x.pipe = l.pipe && x.line == line) }

/-- Brings a line into a pipeline's cache; a full slice evicts a line (log 4). -/
def State.l1Fill (s : State) (p : PipeId) (attr : BitVec 17) (line : Nat) : State :=
  match s.l1Find p line with
  | some _ => s
  | none =>
    let q := s.sliceOf p line
    let own := s.l1.filter fun l => l.pipe = q
    let s := if own.length < Config.sliceLines then s
      else match own[(Config.freeVictim s.freeCtr).toNat % own.length]? with
        | some v => { s.l1Drop v.pipe v.line with freeCtr := s.freeCtr + 1 }
        | none => s
    let data := leNat ((List.range 128).map fun i => (s.pageByte attr (line * 128 + i)).getD 0#8)
    { s with l1 := s.l1 ++ [⟨q, line, BitVec.ofNat 1024 data, 0#128⟩],
             errs := s.errs.filter fun c => !(c.arr = .l1 && c.own == pipeCode q && c.off / 128 == line) }

/-- A byte read through the L1: from its line, else from memory into a new line; `none` for an uncorrectable error. -/
def State.l1Byte (s : State) (p : PipeId) (attr : BitVec 17) (a : Nat) : State × Option Byte :=
  match s.l1Find p (a / 128) with
  | some l =>
    if ((s.pageByte attr a).isNone && !l.dirty.getLsbD (a % 128)) || s.erred .l1 (pipeCode l.pipe) a 1 then (s, none)
    else (s, some (l.data.extractLsb' (8 * (a % 128)) 8))
  | none =>
    match s.pageByte attr a with
    | none => (s, none)
    | some b => (s.l1Fill p attr (a / 128), some b)

/-- A byte written into the L1 line, marked dirty. -/
def State.l1Put (s : State) (p : PipeId) (attr : BitVec 17) (a : Nat) (b : Byte) : State :=
  let s := s.l1Fill p attr (a / 128)
  let q := s.sliceOf p (a / 128)
  let i := a % 128
  { s with l1 := s.l1.map fun l =>
      if l.pipe = q && l.line == a / 128 then
        { l with data := (l.data &&& ~~~(0xFF#1024 <<< (8 * i))) ||| (b.setWidth 1024 <<< (8 * i)), dirty := l.dirty ||| (1#128 <<< i) }
      else l }

/-- R192: the line of the read-only path as a wave sees it. -/
def State.roFind (s : State) (wave line : Nat) : Option RoLine := s.ro.find? fun l => l.wave == wave && l.line == line

/-- LDW.RO's read of a byte (R192, log 75): from the line that the path has kept for the wave since its last acquire, else from memory, whose
whole line it then keeps. No store updates the path, the wave's own neither. What the caches of the wave's pipelines hold of a line that it
keeps anew is older or the wave's own, and they let go of it: no later read of the wave returns it (R174). -/
def State.roByte (s0 : State) (wave : Nat) (ps : List PipeId) (attr : BitVec 17) (a : Nat) : State × Option Byte :=
  match s0.roFind wave (a / 128) with
  | some l => if (s0.pageByte attr a).isNone then (s0, none) else (s0, some (l.data.extractLsb' (8 * (a % 128)) 8))
  | none =>
    let s := ps.foldl (fun s p => s.l1Drop p (a / 128)) s0
    match s.pageByte attr a with
    | none => (s, none)
    | some b =>
      let data := leNat ((List.range 128).map fun i => (s.pageByte attr (a / 128 * 128 + i)).getD 0#8)
      ({ s with ro := s.ro ++ [⟨wave, a / 128, BitVec.ofNat 1024 data⟩] }, some b)

/-! ## Scratchpads -/

/-- The scratchpad a wave addresses: its team's, or a handler's named regions (R146), with its size. -/
def State.scratchOf (s : State) (w : Wave) : List Host.Cell × Nat :=
  match s.team? w.team with
  | none => ([], 0)
  | some t => if t.nrg then (assocGet s.nrgs (w.ctx.toNat, w.die, w.clu) [], t.scratchSize) else (t.scratch, t.scratchSize)

/-- The array and owner by which the errors of a team's scratchpad go: its own, or its context's named regions on the cluster. -/
def Team.scratchErr (t : Team) : ErrArray × Nat :=
  if t.nrg then (.region, (t.ctx.toNat * 8 + t.die) * 64 + t.clu) else (.scratch, t.uid)

/-- R172: some of `n` bytes of a team's scratchpad cannot be read. -/
def State.scratchErred (s : State) (team off n : Nat) : Bool :=
  (s.team? team).any fun t => s.erred t.scratchErr.1 t.scratchErr.2 off n

/-- Stores bytes into the scratchpad a wave addresses. -/
def State.scratchPut (s : State) (w : Wave) (a : Nat) (l : List Byte) : State :=
  match s.team? w.team with
  | none => s
  | some t =>
    if t.nrg then { s with nrgs := assocSet s.nrgs (w.ctx.toNat, w.die, w.clu) (memPuts (s.scratchOf w).1 a l) }
    else s.modTeam w.team fun t => { t with scratch := memPuts t.scratch a l }

/-- The first address of the spill range and of the scratchpad aperture (R149). -/
def spillBase : Nat := 0x3F000000000000
def apertureBase : Nat := 0x3FFFFFFFE00000

end Sys2Proof.Machine
end

