-- ==== Sys2Proof/Machine/Rings.lean ====
section
/-! DEFINITION. Keyrings (spec/07_keyring): records and their images, matching and folding, the arrival event of a push, capacity
and spill, dispatch selections, and the pops of ports. -/

namespace Sys2Proof.Machine

def clsLaunch : BitVec 4 := 0#4
def clsSpawn : BitVec 4 := 1#4
def clsMsg : BitVec 4 := 2#4
def clsCount : BitVec 4 := 3#4
def clsMjob : BitVec 4 := 4#4
def clsCjob : BitVec 4 := 5#4
def clsSjob : BitVec 4 := 6#4
def clsSvc : BitVec 4 := 7#4
def clsRed : BitVec 4 := 8#4
def clsFault : BitVec 4 := 9#4

/-- R27, R238: the durable classes. -/
def durable (c : BitVec 4) : Bool := [0#4, 1#4, 2#4, 3#4, 7#4, 8#4].contains c

/-- R21: whether a kind of keyring holds a class. -/
def krHolds (k : KrId) (c : BitVec 4) : Bool :=
  match k with
  | .cluster _ _ => [1#4, 2#4, 3#4, 4#4, 5#4, 6#4, 8#4].contains c
  | .die _ => [0#4, 1#4, 2#4, 3#4, 8#4].contains c
  | .hub => [0#4, 7#4, 9#4, 3#4].contains c

/-- R21: resident records. -/
def krCapacity : KrId → Nat
  | .cluster _ _ => Config.krCluster
  | .die _ => Config.krDie
  | .hub => Config.krHub

/-- The keyring's level in a context's spill sizes (R14). -/
def krLevel : KrId → Nat
  | .cluster _ _ => 0
  | .die _ => 1
  | .hub => 2

/-- The die whose failure a keyring shares; the hub's has none. -/
def krDie? : KrId → Option Nat
  | .cluster d _ => some d
  | .die d => some d
  | .hub => none

def State.ring (s : State) (k : KrId) : Keyring := assocGet s.keyrings k Keyring.empty
def State.setRing (s : State) (k : KrId) (r : Keyring) : State := { s with keyrings := assocSet s.keyrings k r }
def State.modRing (s : State) (k : KrId) (f : Keyring → Keyring) : State := s.setRing k (f (s.ring k))
def Keyring.modRec (r : Keyring) (u : Nat) (f : Rec → Rec) : Keyring :=
  { r with recs := r.recs.map fun x => if x.uid == u then f x else x }
def Keyring.drop (r : Keyring) (u : Nat) : Keyring := { r with recs := r.recs.filter fun x => x.uid != u }

/-- A field of a word. -/
def fld (w : Word) (lo n : Nat) : Nat := (w.extractLsb' lo n).toNat

/-- A payload of twelve words from the words a push carries. -/
def pad12 (l : List Word) : List Word := (l ++ List.replicate 12 0#32).take 12

/-- R237: the 16-word image of a record; `st` is its STATE. -/
def Rec.image (r : Rec) (st : BitVec 2) : List Word :=
  [r.key.extractLsb' 0 32,
   BitVec.ofBool r.inx ++ BitVec.ofBool r.inv ++ BitVec.ofBool r.ovf ++ BitVec.ofBool r.sat ++ r.prio ++ st ++ r.op ++ r.cls ++
     r.key.extractLsb' 32 16,
   BitVec.ofBool r.car ++ r.stream ++ BitVec.ofNat 4 r.fill ++ r.ctx,
   BitVec.ofNat 8 r.folds ++ r.target] ++ pad12 r.payload

/-! ## Folding (R241 to R243) -/

/-- R243: the BFP-P block of a BADD payload: width n, exponent, and the mantissas of planes 0 to n - 1. -/
def blockOf (n : Nat) (pl : List Word) : Block :=
  ⟨(pl.headD 0#32).toNat % 512, (List.range 32).map fun e =>
    toSigned n ((List.range n).foldl (fun a j => a + (if ((pl.getD (j + 1) 0#32)).getLsbD e then 2 ^ j else 0)) 0)⟩

/-- Planes 0 to n - 1 of a block. -/
def planesOf (n : Nat) (b : Block) : List Word :=
  (List.range n).map fun j => BitVec.ofNat 32 ((List.range 32).foldl
    (fun a e => a + (if (wrap n (b.m.getD e 0)).testBit j then 2 ^ e else 0)) 0)

/-- The payload words of a BADD block. -/
def blockPayload (n : Nat) (b : Block) : List Word := pad12 (BitVec.ofNat 32 (b.e + n * 2 ^ 16) :: planesOf n b)

/-- R243, BADD: two payloads as blocks; differing or out-of-range widths give the NaN block. -/
def foldBadd (x v : List Word) : List Word × Flags :=
  let n := (x.headD 0#32).toNat / 2 ^ 16 % 16
  let m := (v.headD 0#32).toNat / 2 ^ 16 % 16
  if n = m && 2 ≤ n && n ≤ 8 then
    let (b, f) := blockAdd n (blockOf n x) (blockOf n v)
    (blockPayload n b, f)
  else (pad12 [BitVec.ofNat 32 (511 + n * 2 ^ 16)], flagInv)

/-- R241: one word folded by an operator that works word by word. -/
def foldWord (op : BitVec 4) (x v : Word) : Word × Flags :=
  match op.toNat with
  | 1 => (x + v, 0#6)
  | 3 => (if v.slt x then v else x, 0#6)
  | 4 => (if x.slt v then v else x, 0#6)
  | 5 => (x ||| v, 0#6)
  | 6 => (x &&& v, 0#6)
  | 7 =>
    let r := rneF32 (exactSum .rne [fp32.decode false x.toNat, fp32.decode false v.toNat])
    (BitVec.ofNat 32 r.1, r.2)
  | 8 =>
    match (fp32.decode false x.toNat).less (fp32.decode false v.toNat) with
    | none => (BitVec.ofNat 32 fp32.nan, flagInv)
    | some true => (v, 0#6)
    | some false => (x, 0#6)
  | 9 => (v, 0#6)
  | _ => (x, 0#6)

/-- Folds the words of a push into the first words of a payload. -/
def foldWords (op : BitVec 4) : List Word → List Word → List Word × Flags
  | x :: xs, v :: vs =>
    let (y, f) := foldWord op x v
    let (ys, g) := foldWords op xs vs
    (y :: ys, f ||| g)
  | xs, _ => (xs, 0#6)

/-- Adds the words of a push to the exact sums of ADD.SAT.I32. -/
def addSums : List Int → List Word → List Int
  | i :: is, v :: vs => (i + v.toInt) :: addSums is vs
  | is, _ => is

def bump (folds : Nat) : Nat := min (folds + 1) 255

/-- R249: a record with the promotions that the selections which have passed it make due, each of which restarts its count. -/
def Rec.aged (r : Rec) : Rec :=
  let n := min (3 - r.prio.toNat) (r.age / 2 ^ 16)
  { r with prio := r.prio + BitVec.ofNat 2 n, age := r.age - n * 2 ^ 16 }

/-- R242: a push folded into the record it matches, for every operator but an overflowing APPEND. -/
def Rec.fold (r0 : Rec) (p : Push) : Rec :=
  let r := r0.aged
  let r1 : Rec :=
    match p.op.toNat with
    | 2 => { r with sums := addSums r.sums p.words }
    | 11 => { r with payload := pad12 (r.payload.take r.fill ++ p.words), fill := r.fill + p.words.length }
    | 12 =>
      let (pl, f) := foldBadd r.payload (pad12 p.words)
      { r with payload := pl, inv := r.inv || f.getLsbD 0, ovf := r.ovf || f.getLsbD 2, inx := r.inx || f.getLsbD 4 }
    | 13 =>
      let w0 := r.payload.headD 0#32 + p.words.headD 0#32
      if !r.car && p.car then { r with payload := pad12 (w0 :: p.words.tail), target := p.target, car := true, spawn := p.spawn, parent := p.parent }
      else { r with payload := w0 :: r.payload.tail }
    | _ =>
      let (pl, f) := foldWords p.op r.payload p.words
      { r with payload := pl, inv := r.inv || f.getLsbD 0, ovf := r.ovf || f.getLsbD 2, inx := r.inx || f.getLsbD 4 }
  { r1 with folds := bump r.folds, prio := if r.prio < p.prio then p.prio else r.prio,
            ids := r.ids ++ p.ident.toList, jobIds := r.jobIds ++ p.job.toList.map fun j => (j.team, j.serial) }

/-- R240: a push and an OPEN record that it matches. -/
def Rec.matched (r : Rec) (p : Push) : Bool :=
  !r.latched && !r.dispatched && r.ctx == p.ctx && r.cls == p.cls && r.key == p.key && r.op == p.op && p.op != 0#4

/-- R240: the record a push creates. -/
def Push.newRec (p : Push) (uid pos : Nat) (words : List Word) (spilled : Bool) : Rec :=
  { uid := uid, key := p.key, cls := p.cls, op := p.op, latched := false, prio := p.prio, sat := false, ovf := false, inv := false,
    inx := false, ctx := p.ctx, fill := if p.op == 11#4 then words.length else 12, stream := p.stream, car := p.car,
    target := p.target, folds := 0, payload := pad12 words, pos := pos, stamp := uid, ids := p.ident.toList, attempt := 0, age := 0,
    sums := (pad12 words).map (·.toInt), dispatched := false, taker := .nobody, spilled := spilled, accepted := !durable p.cls,
    sender := p.sender, replayed := false, origin := p.origin, parent := p.parent, counts := p.counts, job := p.job,
    jobIds := p.job.toList.map fun j => (j.team, j.serial), spawn := p.spawn, about := p.about, grid := none }

/-- R242: a COUNT record whose word 0 is 0 and that carries work latches. -/
def Rec.settle (r : Rec) : Rec :=
  if r.cls == clsCount && r.payload.headD 0#32 == 0#32 && r.car then { r with latched := true } else r

/-- Resident records of a keyring that are taken. A record that has been dispatched takes none (log 83), but for those of the hub that open
handles name (14_hub R435); the hub's COUNT records, the package counters of the grids, take theirs too (14_hub R434). -/
def State.residents (s : State) (k : KrId) : Nat :=
  ((s.ring k).recs.filter fun r => !r.dispatched && !r.spilled).length +
    if k = .hub then s.handles.length + (s.grids.filter fun g => g.record != g.uid).length else 0

/-- A resident record of a keyring is free. -/
def State.roomFree (s : State) (k : KrId) : Bool := s.residents k < krCapacity k

/-- Records of a context in its spill area of a level, which all keyrings of the level share (R251, 14_hub R440). -/
def State.spilledAt (s : State) (level : Nat) (ctx : BitVec 12) : Nat :=
  ((s.keyrings.filter fun e => krLevel e.1 == level).map fun e =>
    (e.2.recs.filter fun r => !r.dispatched && r.spilled && r.ctx == ctx).length).sum

/-- R251, R252: where a new record of a context can be held: resident (`some false`), spilled (`some true`) or nowhere. Pushes for a
swapped or suspended context are held in its spill area (R253, 01_ties R16). -/
def State.room (s : State) (k : KrId) (ctx : BitVec 12) : Option Bool :=
  let out := (s.ctx? ctx).any fun c => c.st = .swapped || c.st = .suspended
  if !out && s.roomFree k then some false
  else match s.ctx? ctx with
    | none => none
    | some c => if s.spilledAt (krLevel k) ctx < c.ksp.getD (krLevel k) 0 / 128 then some true else none

/-- R242: the arrival event of a push at a keyring that holds its class; the record it folded into or created, or REFUSED. Where a move or a
replay has left two OPEN records that it matches, it folds into the one that came first (log 90). -/
def State.arrive (s : State) (k : KrId) (p : Push) : State × Option Nat :=
  let ring := s.ring k
  match ring.recs.find? (·.matched p) with
  | some r =>
    if p.op == 11#4 && r.fill + p.words.length > 12 then
      match s.room k p.ctx with
      | none => (s, none)
      | some sp =>
        let n := 12 - r.fill
        let full (x : Rec) : Rec :=
          { x.aged with payload := pad12 (x.payload.take x.fill ++ p.words.take n), fill := 12, folds := bump x.folds,
                        prio := if x.aged.prio < p.prio then p.prio else x.aged.prio, latched := true,
                        ids := x.ids ++ p.ident.toList }
        let rest : Rec := { p.newRec s.uid ring.next (p.words.drop n) sp with
          stream := r.stream, target := r.target, prio := if r.aged.prio < p.prio then p.prio else r.aged.prio }
        ({ s with uid := s.uid + 1 }.setRing k
          { recs := (ring.modRec r.uid full).recs ++ [rest], next := ring.next + 1 }, some r.uid)
    else (s.setRing k { ring.modRec r.uid (fun x => (x.fold p).settle) with next := ring.next + 1 }, some r.uid)
  | none =>
    match s.room k p.ctx with
    | none => (s, none)
    | some sp =>
      ({ s with uid := s.uid + 1 }.setRing k
        { recs := ring.recs ++ [(p.newRec s.uid ring.next p.words sp).settle], next := ring.next + 1 }, some s.uid)

/-- A record that comes from another keyring takes its arrival position here, resident where there is room, else spilled (R251). -/
def State.insertRec (s : State) (k : KrId) (r : Rec) : State :=
  let ring := s.ring k
  { s with uid := s.uid + 1 }.setRing k
    { recs := ring.recs ++ [{ r with pos := ring.next, stamp := s.uid, spilled := !s.roomFree k }], next := ring.next + 1 }

/-- The pushes that await acceptance in a record follow it to another keyring. -/
def State.followRec (s : State) (u : Nat) (k : KrId) : State :=
  { s with flights := s.flights.map fun f => if f.arrived == some u then { f with kr := k } else f }

/-- A record put among others in the order in which they came to their keyrings. -/
def insertStamp (r : KrId × Rec) : List (KrId × Rec) → List (KrId × Rec)
  | [] => [r]
  | x :: l => if r.2.stamp ≤ x.2.stamp then r :: x :: l else x :: insertStamp r l

/-- Records with their keyrings in the order in which they came to them. -/
def byStamp (l : List (KrId × Rec)) : List (KrId × Rec) := l.foldr insertStamp []

/-- Undispatched records of some keyrings move to another, in the order in which they came (R258): one event in each. -/
def State.moveRecs (s : State) (srcs : List KrId) (dst : KrId) (p : KrId → Rec → Bool) : State :=
  let mv (k : KrId) (r : Rec) : Bool := !r.dispatched && p k r
  let srcs := srcs.dedup.filter fun k => k ≠ dst && (s.ring k).recs.any (mv k)
  let recs := byStamp (srcs.flatMap fun k => ((s.ring k).recs.filter (mv k)).map fun r => (k, r))
  let s := srcs.foldl (fun s k => s.modRing k fun ring => { recs := ring.recs.filter fun r => !mv k r, next := ring.next + 1 }) s
  recs.foldl (fun s x => (s.insertRec dst x.2).followRec x.2.uid dst) s

/-! ## Dispatch (R248, R249) -/

/-- R248: no earlier undispatched record of the same class and stream blocks the record (log 22: a stream belongs to its context). -/
def Keyring.streamFree (k : Keyring) (r : Rec) : Bool :=
  r.stream == 0#15 ||
  !k.recs.any fun x => !x.dispatched && x.cls == r.cls && x.stream == r.stream && x.ctx == r.ctx && x.pos < r.pos

/-- R248: eligible for a consumer that may take it. -/
def Keyring.eligible (k : Keyring) (r : Rec) : Bool :=
  !r.dispatched && (r.cls != clsCount || r.latched) && k.streamFree r

/-- R249: the level that a record waits at: each 2^16 selections that pass it raise it by one, before its promotion event and after. -/
def Rec.rank (r : Rec) : Nat := min 3 (r.prio.toNat + r.age / 2 ^ 16)

/-- Of two candidates, the one that is dispatched first: higher PRIO, then earlier arrival; after a resume too (log 91). -/
def Rec.before (a b : Rec) : Bool := b.rank < a.rank || (a.rank == b.rank && a.stamp < b.stamp)

/-- The first of a list of candidates in dispatch order. -/
def firstRec : List Rec → Option Rec
  | [] => none
  | r :: l => match firstRec l with
    | none => some r
    | some x => if x.before r then some x else some r

/-- R248: the record a consumer's selection chooses. -/
def Keyring.select (k : Keyring) (p : Rec → Bool) : Option Rec := firstRec (k.recs.filter fun r => p r && k.eligible r)

/-- R243: the payload at dispatch; ADD.SAT.I32 delivers its clamped exact sums. -/
def Rec.deliver (r : Rec) : Rec :=
  if r.op == 2#4 then
    { r with payload := r.sums.map (fun i => BitVec.ofInt 32 (clamp 32 i).1), sat := r.sums.any fun i => (clamp 32 i).2 }
  else r

/-- R247, R249: a dispatch selection: the record latches and belongs to its taker, and every other waiting record counts it. -/
def State.dispatch (s : State) (k : KrId) (u : Nat) (t : Taker) : State :=
  s.modRing k fun ring => { ring with
    next := ring.next + 1
    recs := ring.recs.map fun r =>
      if r.uid == u then { r.deliver.aged with latched := true, dispatched := true, taker := t, spilled := false }
      else if r.dispatched then r else { r with age := r.age + 1 } }

/-- R246, R260: the consumer takes a dispatched record; a durable one stays until its work completes. -/
def State.taken (s : State) (k : KrId) (u : Nat) : State :=
  s.modRing k fun ring => { ring with recs := ring.recs.filter fun r => r.uid != u || durable r.cls }

/-- R260: a durable record's work has completed. -/
def State.completeRec (s : State) (p : Rec → Bool) : State :=
  { s with keyrings := s.keyrings.map fun e => (e.1, { e.2 with recs := e.2.recs.filter fun r => !(r.dispatched && p r) }) }

/-! ## Ports (R254 to R257) -/

/-- The keyring a binding of a lane reads (R254). -/
def Wave.portRing (w : Wave) (p : Port) : KrId := if p.lvl then .die w.die else .cluster w.die w.clu

/-- R255: a binding matches a record; records replayed from a cluster keyring also match level-0 bindings (R261). -/
def Port.takes (p : Port) (ctx : BitVec 12) (r : Rec) : Bool :=
  r.ctx == ctx && r.cls == p.cls && (r.key &&& p.mask) == (p.mtch &&& p.mask) && !r.target.getLsbD 23

/-- The keyrings whose records a binding may take: its own, and for level 0 the records that a replay put in the die's (R261). The records
of a context that is not LIVE are held (R253). -/
def State.available (s : State) (w : Wave) (p : Port) : List (KrId × Rec) :=
  if !(s.ctx? w.ctx).any (fun c => c.st = .live) then [] else
  let own := w.portRing p
  let here := ((s.ring own).recs.filter fun r => p.takes w.ctx r && (s.ring own).eligible r).map fun r => (own, r)
  let back := if p.lvl || w.gw then [] else
    ((s.ring (.die w.die)).recs.filter fun r => r.replayed && p.takes w.ctx r && (s.ring (.die w.die)).eligible r).map
      fun r => (KrId.die w.die, r)
  here ++ back

/-- The available record that a selection of a binding would choose. Records of the two keyrings stand in the order in which they came to
them (log 84). -/
def State.choose (s : State) (w : Wave) (p : Port) : Option (KrId × Rec) :=
  match firstRec ((s.available w p).map (·.2)) with
  | none => none
  | some r => (s.available w p).find? fun e => e.2.uid == r.uid

/-- A dispatch selection of a port pop by lane `i` of a wave: the record's image, acquired (R259). -/
def State.popRec (s : State) (w : Wave) (i : Nat) (p : Port) : Option (State × List Word) :=
  match s.choose w p with
  | none => none
  | some (k, r) =>
    let s := s.dispatch k r.uid (.lane (((w.lanes[i]?).map (·.uid)).getD 0))
    some (s.l1Acquire [w.pipeOf i], r.deliver.aged.image 2#2)

def Lane.port (l : Lane) (q : Nat) : Port := l.ports[q]?.getD Port.reset
def Lane.setPort (l : Lane) (q : Nat) (p : Port) : Lane := { l with ports := l.ports.setIfInBounds q p }

/-- FILL of a buffered image. -/
def bufFill (b : List Word) : Nat := ((b.getD 2 0#32).extractLsb' 12 4).toNat

/-- R256: one element of a port of lane `i`: from BUF, or from the records selected until one has an element. `fuel` bounds the
selections; a keyring has no more records than that. -/
def State.popElem (w : Wave) (i q : Nat) : Nat → State → Option (State × Word)
  | fuel, s =>
    match (s.wave? w.uid).bind (·.lanes[i]?) with
    | none => none
    | some l =>
      let p := l.port q
      if p.buf = [] || p.ridx ≥ bufFill p.buf then
        match fuel with
        | 0 => none
        | fuel + 1 =>
          match s.popRec w i p with
          | none => none
          | some (s, img) => State.popElem w i q fuel (s.modLane w.uid i fun x => x.setPort q { x.port q with buf := img, ridx := 0 })
      else
        some (s.modLane w.uid i fun x => x.setPort q { x.port q with ridx := p.ridx + 1 }, p.buf.getD (4 + p.ridx) 0#32)
termination_by structural fuel => fuel

/-- The number of selections one element can need. -/
def State.popFuel (s : State) : Nat := (s.keyrings.map fun e => e.2.recs.length).foldl (· + ·) 1

/-- R256, R257: elements for a list of (lane, port), in order; `none` when some cannot be supplied. A record of a stream that an earlier
selection of the same slot makes eligible counts as available (log 85). -/
def State.popAll (w : Wave) : List (Nat × Nat) → State → Option (State × List Word)
  | [], s => some (s, [])
  | (i, q) :: l, s =>
    match State.popElem w i q s.popFuel s with
    | none => none
    | some (s, v) =>
      match State.popAll w l s with
      | none => none
      | some (s, vs) => some (s, v :: vs)

/-- R257, R271: whole records for a list of (lane, port): each lane's unread words are discarded first. -/
def State.popRecs (w : Wave) : List (Nat × Nat) → State → Option (State × List (List Word))
  | [], s => some (s, [])
  | (i, q) :: l, s =>
    match (s.wave? w.uid).bind (·.lanes[i]?) with
    | none => none
    | some x =>
      match (s.modLane w.uid i fun y => y.setPort q { y.port q with buf := [], ridx := 0 }).popRec w i (x.port q) with
      | none => none
      | some (s, img) =>
        match State.popRecs w l s with
        | none => none
        | some (s, imgs) => some (s, img :: imgs)

/-! ## Pushes (R239, R259) -/

/-- MSGSRC of a lane's pushes (04_pipeline R108). -/
def senderWord (s : State) (w : Wave) (lane : Nat) : Word :=
  0#4 ++ s.pkgid ++ 0#1 ++ BitVec.ofBool w.gw ++ BitVec.ofNat 3 w.die ++ BitVec.ofNat 6 w.clu ++
    BitVec.ofNat 5 (if w.gw then 0 else w.base + lane)

/-- R239: the stream a selector names. -/
def streamOf (w : Wave) (sel : Nat) : BitVec 15 :=
  if sel = 0 then 0#15 else if sel = 1 then w.stream else BitVec.ofNat 15 sel

/-- A push put in flight towards a keyring, released by its sender's L1 (R259). -/
def State.launchFlight (s : State) (f : Flight) (rel : List PipeId) : State :=
  let s := s.l1Release rel
  let own := f.src.bind fun x => (s.wave? x.1.wave).map (·.ctx)
  { s with flights := s.flights ++ [{ f with k := s.uid, srcCtx := own }], uid := s.uid + 1 }

/-- A push without a sender: what the device itself posts (05_memory R164, 04_pipeline R143). -/
def devicePush (cls : BitVec 4) (ctx : BitVec 12) (key : BitVec 48) (words : List Word) (sender : Word) : Push :=
  { key := key, cls := cls, op := 0#4, prio := 0#2, car := false, stream := 0#15, target := 0#24, words := words, ctx := ctx,
    ident := none, attempt := 0, sender := sender, origin := none, parent := none, counts := false, job := none, spawn := none }

/-- A push in flight that nobody waits for. -/
def plainFlight (k : Nat) (kr : KrId) (p : Push) : Flight :=
  { k := k, kr := kr, pushedTo := kr, push := p, src := none, pipe := none, d := none, nw := false, hd := false, returns := .arrival, svc := false, decided := none,
    arrived := none, apos := 0, undo := none, srcCtx := none, remote := none, link := none, queue := none, carrier := none }

/-- A FAULT record of an engine posted to the hub keyring; `home` says with what it is lost (R262). -/
def State.postFaultAt (s : State) (home : Option (Nat × Option Nat)) (ctx : BitVec 12) (key : BitVec 48) (words : List Word) (sender : Word) : State :=
  { s with flights := s.flights ++ [plainFlight s.uid .hub { devicePush clsFault ctx key words sender with home := home }], uid := s.uid + 1 }

/-- A FAULT record posted to the hub keyring, about a wave or lane or about neither. -/
def State.postFault (s : State) (ctx : BitVec 12) (key : BitVec 48) (words : List Word) (sender : Word) (about : Option Issuer) : State :=
  { s with flights := s.flights ++ [plainFlight s.uid .hub { devicePush clsFault ctx key words sender with about := about }], uid := s.uid + 1 }

end Sys2Proof.Machine
end

