-- ==== Sys2Proof/Machine/Ops.lean ====
section
/-! DEFINITION. The operations every instruction shares: taking a trap and returning from one (spec/04_pipeline R141 to R143,
06_group R226), the end of a slot and of a clause (02_encoding R42 to R47), and the issue of a slot with the checks of R62 in
their order. -/

namespace Sys2Proof.Machine

/-! ## Threads and clauses -/

/-- The thread of a wave that starts at a header with nothing in progress (R101). -/
def Thread.start (hdr : BitVec 54) (wins : Vector Window 8) : Thread :=
  { st := .ready, hdr := hdr, slot := 0, count := 0, allow := 0#4, yieldBit := false, redecode := false, willYield := false,
    yielding := false, ending := false, orgHdr := hdr, orgSlot := 0, wins := wins, toks := Vector.replicate 8 0, ops := [],
    wait := .nothing, parkLits := 0, parkWord := 0#32, parkSrc := [], replay := 0#32, dataErr := [], replayVals := [], faultAddr := 0#54, faultKind := 0#4,
    broken := false, woken := false, owed := none, line := none }

/-- A wait of CWAIT or NWAIT (11_schedulers R381). -/
def Wait.awaited : Wait → Bool
  | .counter _ | .drained _ | .notify _ _ _ _ => true
  | _ => false

/-- The counter word that a CWAIT waits on, in either phase of it. -/
def Wait.counterAt : Wait → Option (BitVec 54)
  | .counter va | .drained va => some va
  | _ => none

/-- A thread parked in CWAIT or NWAIT goes on: what it awaited has occurred. -/
def Thread.wakes (t : Thread) : Bool := t.st = .parked && t.wait.awaited

/-- R59: whether an untokened operation is outstanding. -/
def Thread.untokened (t : Thread) : Bool := t.ops.any fun o => o.tok == 8#4

/-- The clause ends and control goes to a header (R45, R47); with untokened operations outstanding it keeps its pipelines. -/
def Thread.leave (t : Thread) (next : BitVec 54) (orgHdr : BitVec 54) (orgSlot : Nat) : Thread :=
  { t with hdr := next, slot := 0, orgHdr := orgHdr, orgSlot := orgSlot, redecode := false, wait := .nothing,
           st := if t.untokened && t.st = .owning then .owning else .ready, ending := t.untokened,
           yielding := t.yieldBit || t.willYield, willYield := false, woken := t.wakes }

/-- The header after the current clause. -/
def Thread.nextHdr (t : Thread) : BitVec 54 := t.hdr + BitVec.ofNat 54 (4 * (t.count + 1))

/-- Whether the clause ends after `n` more words. -/
def Thread.lastAfter (t : Thread) (n : Nat) : Bool := t.slot + n > t.count

/-- The slot's instruction of `n` words is done: the next slot, or the fall-through header. A parked thread becomes READY. -/
def Thread.step (t : Thread) (n : Nat) : Thread :=
  if t.lastAfter n then t.leave t.nextHdr t.nextHdr 0
  else { t with slot := t.slot + n, wait := .nothing, st := if t.st = .owning then .owning else .ready, woken := t.wakes }

/-- The lanes whose latches a thread's clause uses. -/
def Wave.threadLanes (w : Wave) (lane : Option Nat) : List Nat :=
  match lane with
  | none => List.range w.width
  | some i => [i]

/-- R55: latches become empty at a clause's end. -/
def State.emptyLatches (s : State) (i : Issuer) : State :=
  s.modWave i.wave fun w => (w.threadLanes i.lane).foldl (fun w l => w.modLane l Lane.clearLatches) w

/-- R225: a point is JPOINT: a header whose clause's first slot JPOINT names leads there too. -/
def atJoin (hdr : BitVec 54) (slot : Nat) (j : BitVec 54 × Nat) : Bool := hdr == j.1 && (slot == j.2 || (slot == 0 && j.2 == 1))

/-- R225: a detached lane outside a handler whose next point is JPOINT parks there. -/
def State.parkAtJoin (s : State) (i : Issuer) : State :=
  match s.wave? i.wave, i.lane with
  | some w, some l =>
    match w.lanes[l]? with
    | some x =>
      match x.own with
      | some t =>
        if w.detach && !x.inh && !t.ending && atJoin t.hdr t.slot (w.jpoint, w.jslot) && (t.st = .owning || t.st = .ready) then
          s.modThr i fun t => { t with st := .parked, wait := .jpoint }
        else s
      | none => s
    | none => s
  | _, _ => s

/-- The slot of an issuer is done. -/
def State.advance (s : State) (i : Issuer) (n : Nat) : State :=
  match s.view i with
  | none => s
  | some v =>
    let s1 := s.modThr i fun t => t.step n
    (if v.thr.lastAfter n then s1.emptyLatches i else s1).parkAtJoin i

/-- A control transfer ends the clause (R45). -/
def State.transfer (s : State) (i : Issuer) (target : BitVec 54) : State :=
  ((s.modThr i fun t => t.leave target t.hdr t.slot).emptyLatches i).parkAtJoin i

/-- Every issuer of a wave: itself, and its lanes that run on their own. -/
def Wave.issuers (w : Wave) : List Issuer := ⟨w.uid, none⟩ :: (List.range w.width).map fun i => ⟨w.uid, some i⟩

/-- A parked thread's instruction completes: it becomes READY at the next slot (R100). -/
def State.resumeAfter (s : State) (i : Issuer) : State :=
  match s.view i with
  | none => s
  | some v => s.advance i (1 + v.thr.parkLits)

/-- A parked thread becomes READY at the same slot, to perform its instruction again. -/
def State.resumeAt (s : State) (i : Issuer) : State := s.modThr i fun t => { t with st := .ready, wait := .nothing }

/-! ## Taking a trap -/

/-- A trap as a slot raises it: the trapping lanes, the cause and the full address of the lowest of them, TRAPADDR, and the point
that EPC and SLOT name. -/
structure TrapInfo where
  lanes : List Nat
  cause : Cause
  addr : BitVec 64
  trapaddr : Word
  hdr : BitVec 54
  slot : Nat
  /-- The kind of access that trapped, as a FAULT record gives it (05_memory R164). -/
  kind : Nat := 0
  deriving DecidableEq, Repr

/-- The trap entry header of a lane (R143). -/
def Lane.entry (l : Lane) : BitVec 54 := l.trapvecHi ++ l.trapvec

/-- R141 steps 3 to 5 in one lane. -/
def Lane.takeTrap (l : Lane) (t : TrapInfo) (lanes : Word) (split : Bool) : Lane :=
  { l with
    epc := t.hdr.extractLsb' 0 32, epcHi := t.hdr.extractLsb' 32 22,
    trapcause := BitVec.ofNat 32 (t.cause.code + t.slot * 2 ^ 8 + (if split then 2 ^ 12 else 0) + 2 ^ 13),
    trapaddr := t.trapaddr, traplanes := lanes, sh0 := l.l0, sh1 := l.l1, sh2 := l.l2, l0 := none, l1 := none, l2 := none }

/-- R141 step 6: a thread enters its handler. The trap ends its clause, so a YIELD executed in it, or in its header, takes effect
(R102, R139). -/
def Thread.handler (t : Thread) (entry : BitVec 54) : Thread :=
  { t with st := .ready, hdr := entry, slot := 0, orgHdr := t.hdr, orgSlot := t.slot, redecode := false, ending := false,
           wait := .nothing, yielding := if t.slot = 0 then t.yielding else t.yieldBit || t.willYield, willYield := false,
           replay := 0#32, replayVals := [] }

/-- The entry of the divergence stack that holds an inactive lane highest, with the number of entries below it. -/
def topmost (l : List DEntry) (i : Nat) : Option (Nat × BitVec 54) :=
  (((List.range l.length).zip l).reverse.find? fun e => match e.2 with | .wp _ m | .pend _ m => m.getLsbD i).map
    fun e => (e.1, match e.2 with | .wp h _ | .pend h _ => h)

/-- R223 step 3: the entries of DSTK that hold a lane, but for the bottom one and the one at index `skip`, with its own bit. -/
def privateStack (l : List DEntry) (i : Nat) (skip : Nat) : List DEntry :=
  (((List.range l.length).zip l).filter fun e => e.1 != 0 && e.1 != skip &&
    match e.2 with | .wp _ m | .pend _ m => m.getLsbD i).map fun e =>
      match e.2 with
      | .wp h _ => .wp h (1#32 <<< i)
      | .pend h _ => .pend h (1#32 <<< i)

/-- R223: the rejoin point that an implicit split or a trap split sets: the outermost waypoint, or a given point. -/
def Wave.joinPoint (w : Wave) (hdr : BitVec 54) (slot : Nat) : BitVec 54 × Nat :=
  match w.dstk with
  | .wp h _ :: _ => (h, 0)
  | .pend h _ :: _ => (h, 0)
  | [] => (hdr, slot)

/-- A copy of the wave's thread for lane `i` of it, at a point of its own; it parks when that is JPOINT. -/
def Thread.forLane (t : Thread) (i : Nat) (hdr : BitVec 54) (slot : Nat) (j : BitVec 54 × Nat) : Thread :=
  { t with hdr := hdr, slot := slot, ending := false, replay := 0#32, replayVals := [], yielding := false,
           dataErr := t.dataErr.filter fun e => e.1 == i,
           st := if atJoin hdr slot j then .parked else .ready, wait := if atJoin hdr slot j then .jpoint else .nothing }

/-- A copy for lane `i` whose clause ends at the split (R45, R59): with untokened operations outstanding it keeps its pipeline, and
then parks when it stands at JPOINT. `org` is the instruction that led to the next header (R41). -/
def Thread.leaveLane (t : Thread) (i : Nat) (hdr : BitVec 54) (j : BitVec 54 × Nat) (org : BitVec 54 × Nat) : Thread :=
  let t1 := t.leave hdr org.1 org.2
  { t1 with replay := 0#32, replayVals := [], dataErr := t.dataErr.filter fun e => e.1 == i,
            st := if atJoin hdr 0 j && !t1.ending then .parked else t1.st,
            wait := if atJoin hdr 0 j && !t1.ending then .jpoint else .nothing }

/-- R223, R226: the thread of an inactive member lane: at the header of the topmost entry that holds it. `go` makes a thread at a
header. -/
def Wave.inactiveLane (w : Wave) (i : Nat) (j : BitVec 54 × Nat) (go : BitVec 54 → Thread) : Thread × List DEntry :=
  match topmost w.dstk i with
  | some (k, h) =>
    if k = 0 then (w.thr.forLane i j.1 j.2 j, [])
    else (go h, privateStack w.dstk i k)
  | none => (w.thr.forLane i j.1 j.2 j, [])

/-- The parked thread that stands for a wave whose lanes run on their own. -/
def Thread.shell (t : Thread) : Thread := { t with st := .parked, wait := .nothing, ending := false, slot := 0, replay := 0#32 }

/-- R226: an attached fused wave divides at a trap: trapping lanes enter their handlers and the others become detached lanes. -/
def Wave.trapSplit (w : Wave) (t : TrapInfo) : Wave :=
  let j := w.joinPoint t.hdr t.slot
  let mask := maskOf t.lanes
  let lane (i : Nat) (l : Lane) : Lane :=
    if !w.memb.getLsbD i then l
    else if t.lanes.contains i then
      let l := l.takeTrap t mask true
      { l with own := some { w.thr.handler l.entry with dataErr := [] }, priv := privateStack w.dstk i 0 }
    else if w.live.getLsbD i then
      { l with own := some (w.thr.forLane i t.hdr t.slot j), priv := privateStack w.dstk i 0 }
    else
      let (o, p) := w.inactiveLane i j fun h => { w.thr.forLane i h 0 j with orgHdr := t.hdr, orgSlot := t.slot }
      -- it ran no YIELD of the clause that trapped (R139)
      { l with own := some { o with willYield := false }, priv := p }
  { w with lanes := w.lanes.mapIdx lane, thr := w.thr.shell, dstk := [], detach := true, jpoint := j.1, jslot := j.2, jmask := w.memb }

/-- R164: where a wave runs, as the FAULT record's word 4 and the SENDER of a record give it. -/
def whereWord (s : State) (w : Wave) (lane : Nat) : Word :=
  0#2 ++ s.pkgid ++ BitVec.ofBool w.gw ++ BitVec.ofNat 3 w.die ++ BitVec.ofNat 6 w.clu ++
    BitVec.ofNat 5 (if w.gw then 0 else w.base + lane) ++ ((w.lanes[lane]?).map (·.slotNo)).getD 0#3

/-- R143: the FAULT record of a double fault. -/
def State.postDoubleFault (s : State) (w : Wave) (t : TrapInfo) (slot : Nat) (about : Issuer) : State :=
  let a : BitVec 64 := match t.cause with
    | .align | .prot | .pfault | .data => t.addr
    | _ => 0#64
  let lo := t.lanes.headD 0
  s.postFault w.ctx (BitVec.ofNat 48 (a.toNat % 2 ^ 54 / 2 ^ 18))
    [a.extractLsb' 0 32, (a.extractLsb' 32 22).setWidth 32, BitVec.ofNat 32 (15 + t.cause.code * 256 + t.kind * 65536), w.ctx.setWidth 32,
     whereWord s w lo, maskOf t.lanes, t.hdr.extractLsb' 0 32, (t.hdr.extractLsb' 32 22).setWidth 32, t.trapaddr,
     BitVec.ofNat 32 slot, 0#32, 0#32] (senderWord s w lo) (some about)

/-- R143, R226: a double fault: the wave is SUSPENDED with all its state and one FAULT record is posted for it. A lane whose handler traps
before the boundary at which the suspension stops it stops with the wave, and its slot is executed again after a resume. -/
def State.doubleFault (s : State) (v : View) (t : TrapInfo) : State :=
  let s := if v.w.thr.st = .suspended then s else s.postDoubleFault v.w t t.slot v.iss
  let s := s.modThr v.iss fun t => { t with st := .suspended }
  s.modWave v.w.uid fun w => { w with thr := { w.thr with st := .suspended } }

/-- TAKING A TRAP (R141, R143, R226): the slot and every later one have no effect; the state given is the one before the slot. Where
the entry of one of several trapping lanes is zero, the whole wave is suspended (log 78). -/
def State.trap (s : State) (v : View) (t : TrapInfo) : State :=
  let lanes := t.lanes.filterMap fun i => v.w.lanes[i]?
  if lanes.any (fun l => l.inh || l.entry == 0#54) then s.doubleFault v t
  else match v.lane with
    | some i =>
      s.modLane v.w.uid i fun l =>
        let l := l.takeTrap t (1#32 <<< i) false
        { l with own := some (v.thr.handler l.entry) }
    | none =>
      if v.w.width ≤ 1 then
        s.modWave v.w.uid fun w =>
          match w.lanes with
          | [] => w
          | l :: ls =>
            let l := l.takeTrap t 1#32 false
            { w with lanes := l :: ls, thr := w.thr.handler l.entry }
      else s.modWave v.w.uid fun w => w.trapSplit t

/-- ERET (R142) in the lane that returns: the latches come back and INH clears; the thread resumes at EPC and SLOT. Where that is a
new clause, it starts with its latches empty (R55). -/
def State.eret (s : State) (v : View) : State :=
  match v.lane? v.low with
  | none => s
  | some l =>
    let hdr : BitVec 54 := l.epcHi ++ l.epc
    let slot := (l.trapcause.extractLsb' 8 4).toNat
    let s := s.modThr v.iss fun t => { t.leave hdr t.hdr t.slot with slot := slot, redecode := slot != 0 }
    let s := s.modLane v.w.uid v.low fun l =>
      let l : Lane := { l with trapcause := l.trapcause &&& ~~~(1#32 <<< 13), l0 := l.sh0, l1 := l.sh1, l2 := l.sh2 }
      if slot = 0 then l.clearLatches else l
    s.parkAtJoin v.iss

/-! ## Issue of a slot (R62) -/

/-- What the common checks need to know of an instruction word at its slot. -/
structure Slot where
  op : Nat
  word : Word
  nlits : Nat
  /-- R53: every literal that a used source takes lies within the header's count. -/
  litOk : Bool
  srcs : List Src
  /-- Registers the slot reads or writes (R50, R60). -/
  regs : List Nat
  /-- A further condition of step 4 of R62. -/
  bad : Bool
  /-- Only context 0x000 may execute it (step 5). -/
  priv : Bool
  tk : Option (BitVec 4)
  /-- Registers beyond `regs` that the slot reads or writes, checked by the instruction itself (R60). -/
  waits : List Nat := []
  /-- The sources are those of the lowest active lane alone (06_group R206). -/
  lowest : Bool := false
  deriving DecidableEq, Repr

/-- The slot of an instruction that reads the sources of the lowest active lane alone. -/
def Slot.once (sl : Slot) : Slot := { sl with lowest := true }

/-- An instruction parks its thread (R104). -/
def State.park (s : State) (i : Issuer) (w : Wait) (sl : Slot) : State :=
  s.modThr i fun t =>
    { t with st := .parked, wait := w, parkLits := sl.nlits, parkWord := sl.word,
             parkSrc := sl.srcs.filterMap fun x => match x with | .lit l => l | _ => none }

def srcRegs : Src → List Nat
  | .reg r => [r.toNat]
  | _ => []

def srcNlits : Src → Nat
  | .lit _ => 1
  | _ => 0

def srcLitOk : Src → Bool
  | .lit none => false
  | _ => true

def srcReserved : Src → Bool
  | .rsv _ => true
  | .latch l => l == 3#2
  | _ => false

/-- The sources an R-format opcode reads. -/
def usedSrcs (op : Nat) (f : RFmt) : List Src :=
  (if usesField op 13 7 then [f.a] else []) ++ (if usesField op 6 0 then [f.b] else [])

/-- The slot of an R-format word, with registers beyond its fields and a further step-4 condition. -/
def slotR (op : Nat) (f : RFmt) (more : List Nat := []) (bad : Bool := false) (priv : Bool := false) : Slot :=
  let srcs := usedSrcs op f
  { op := op, word := encodeR op f, nlits := (srcs.map srcNlits).sum, litOk := srcs.all srcLitOk, srcs := srcs,
    regs := (if usesField op 21 16 then [f.d.toNat] else []) ++ srcs.flatMap srcRegs ++ more, bad := bad, priv := priv, tk := none }

/-- The slot of a B-format word: `cond` is tested exactly by the conditional branches (R57). -/
def slotB (op : Nat) (f : BFmt) (more : List Nat := []) : Slot :=
  { op := op, word := encodeB op f, nlits := 0, litOk := true, srcs := [],
    regs := (if usesField op 21 16 then [f.c.toNat] else []) ++ more,
    bad := usesField op 15 12 && (f.cond == 0#4 || 6 < f.cond.toNat), priv := false, tk := none }

/-- The slot of an E-format word whose block is `count` registers from `first` (R58). -/
def slotE (op : Nat) (f : EFmt) (count : Nat) (bad : Bool := false) : Slot :=
  { op := op, word := encodeE op f, nlits := 0, litOk := true, srcs := [],
    regs := f.d.toNat :: (List.range count).map (f.first.toNat + ·), bad := bad || count = 0 || f.first.toNat + count > 64,
    priv := false, tk := some f.tk }

/-- The class bit of ALLOW (R42, R43). -/
def classAllowed (c : OpClass) (allow : BitVec 4) : Bool :=
  match c with
  | .a => true
  | .m => allow.getLsbD 0
  | .e => allow.getLsbD 1
  | .g => allow.getLsbD 2
  | .s => allow.getLsbD 3

/-- The decode map of a wave's context. -/
def State.mapOf (s : State) (w : Wave) : Nat := ((s.ctx? w.ctx).map (·.decode)).getD 0

/-- Steps 2 to 4 of R62 on the word alone. -/
def checkWord (s : State) (v : View) (sl : Slot) : Option Cause :=
  if !mapped (s.mapOf v.w) sl.op then some .illop
  else if gatewayOps.contains sl.op && !v.w.gw then some .gwonly
  else if !classAllowed (classOf sl.op) v.thr.allow then some .illcls
  else if classOf sl.op = .g && v.width == 1 then some .illcls
  else if endsClause.contains sl.op && v.thr.slot + sl.nlits != v.thr.count then some .illcls
  else if !sl.litOk then some .illcls
  else if sl.word.toNat &&& unusedBits sl.op != 0 then some .illfld
  else if sl.srcs.any srcReserved then some .illfld
  else if sl.tk.any (fun t => 8 < t.toNat) then some .illfld
  else if sl.regs.any (fun r => !regLegal v.w r) || sl.bad then some .illfld
  else none

/-- Step 4 of R62 in a lane: an empty latch or an unbound port. -/
def laneSrcBad (l : Lane) : Src → Bool
  | .latch k => (l.latch k).isNone
  | .port q => !(l.port q.toNat).bound
  | _ => false

/-- R60: some of these registers is pending. -/
def Thread.pends (t : Thread) (l : List Nat) : Bool := t.ops.any fun o => o.pend.any fun r => l.contains r

/-- R59, R60: the slot waits at issue for a pending register or a full token. -/
def Thread.busy (t : Thread) (sl : Slot) : Bool :=
  t.ops.any (fun o => o.pend.any fun r => sl.regs.contains r || sl.waits.contains r) ||
  sl.tk.any fun k => k.toNat < 8 && 64 ≤ (t.toks[k.toNat]?).getD 0

/-- R164: the kind of access of an opcode that addresses memory: 1 a store, 2 an atomic or a check for one, 4 WIN, else 0. -/
def kindOf (op : Nat) : Nat :=
  if 0x098 ≤ op && op ≤ 0x09D then 1
  else if (0x09E ≤ op && op ≤ 0x0A9 && op != 0x0A1) || op = 0x122 || op = 0x123 then 2
  else if op = 0x0AD then 4 else 0

/-- A trap of some lanes at the issuing slot: the lowest lane's cause and address (R189, R226). -/
def State.trapLanes (s : State) (v : View) (sl : Slot) (l : List (Nat × Fail)) : State :=
  match l with
  | [] => s
  | (_, f) :: _ =>
    s.trap v { lanes := l.map (·.1), cause := f.cause, addr := f.addr.getD 0#64,
               trapaddr := match f.addr with | some a => a.extractLsb' 0 32 | none => sl.word, hdr := v.thr.hdr, slot := v.thr.slot,
               kind := if f.addr.isSome then kindOf sl.op else 0 }

/-- A trap of every active lane. -/
def State.trapAll (s : State) (v : View) (sl : Slot) (f : Fail) : State := s.trapLanes v sl (v.act.map fun i => (i, f))

/-- The lanes whose sources a slot reads that fail step 4 of R62 by an empty latch or an unbound port. Where only the lowest active
lane's are read, every active lane traps with it (log 30). -/
def View.srcBad (v : View) (sl : Slot) : List Nat :=
  let bad (i : Nat) : Bool := sl.srcs.any fun x => (v.lane? i).any fun l => laneSrcBad l x
  if sl.lowest then (if bad v.low then v.act else []) else v.act.filter bad

/-- The issue of a slot: the checks of R62 in their order, the waits of R59 and R60, and then the instruction itself. -/
def issue (sl : Slot) (body : State → View → State) (s : State) : Host.Outcome State Fault Refusal :=
  match s.cur.bind s.view with
  | none => .fault .noIssuer
  | some v =>
    if v.thr.st ≠ .owning || v.act = [] then .fault .noIssuer
    else match checkWord s v sl with
      | some c => .next (s.trapAll v sl ⟨c, none, false⟩)
      | none =>
        match v.srcBad sl with
        | i :: is => .next (s.trapLanes v sl ((i :: is).map fun i => (i, failFld)))
        | [] =>
          if sl.priv && v.w.ctx != 0#12 then .next (s.trapAll v sl ⟨.priv, none, false⟩)
          else if v.thr.busy sl then .next s else .next (body s v)

/-- What a lane does at a slot: its number, the elements popped for a and b, and its state. -/
abbrev LaneFn := Nat → Word → Word → Lane → Except Fail Lane

/-- The lanes' results and failures. -/
def evalLanes (w : Wave) (l : List (Nat × Word × Word)) (fn : LaneFn) : List (Nat × Fail) × List (Nat × Lane) :=
  (l.filterMap fun e => match w.lanes[e.1]? with
      | some x => match fn e.1 e.2.1 e.2.2 x with | .error f => some (e.1, f) | .ok _ => none
      | none => none,
   l.filterMap fun e => match w.lanes[e.1]? with
      | some x => match fn e.1 e.2.1 e.2.2 x with | .ok y => some (e.1, y) | .error _ => none
      | none => none)

/-- Sets lanes of a wave. -/
def State.setLanes (s : State) (u : Nat) (l : List (Nat × Lane)) : State := l.foldl (fun s e => s.modLane u e.1 fun _ => e.2) s

/-- The ports a slot's sources name, a before b. -/
def Slot.ports (sl : Slot) : List Nat := sl.srcs.filterMap fun x => match x with | .port q => some q.toNat | _ => none

/-- The elements of lane `k` of `n`, from those popped for all lanes, source after source: for a and for b. -/
def lanePops (sl : Slot) (vals : List Word) (n k : Nat) : Word × Word :=
  match sl.srcs with
  | [.port _, .port _] => (vals.getD k 0#32, vals.getD (n + k) 0#32)
  | _ => (vals.getD k 0#32, vals.getD k 0#32)

/-- R256, R257: what a slot's port sources take in some lanes, in order: source by source, each lane by lane. -/
def Slot.takes (sl : Slot) (lanes : List Nat) : List (Nat × Nat) := sl.ports.flatMap fun q => lanes.map fun i => (i, q)

/-- R256: the elements that the slot's port sources take in some lanes, and what follows with them. `early` gives the failures
of steps up to 6, which come before anything is popped; a slot that cannot be supplied parks. -/
def withPops (sl : Slot) (s : State) (v : View) (lanes : List Nat) (early : List (Nat × Word × Word) → List (Nat × Fail))
    (k : State → List (Nat × Word × Word) → State) : State :=
  if sl.ports = [] then k s (lanes.map fun i => (i, 0#32, 0#32))
  else match (early (lanes.map fun i => (i, 0#32, 0#32))).filter fun e => !e.2.late with
    | e :: es => s.trapLanes v sl (e :: es)
    | [] =>
      match State.popAll v.w (sl.takes lanes) s with
      | none => s.park v.iss (.ports (sl.takes lanes)) sl
      | some (s', vals) => k s' (lanes.mapIdx fun j i => (i, lanePops sl vals lanes.length j))

/-- A slot that every active lane performs on its own registers (R206): all of them, with `post` for what reaches beyond the
lanes, or a trap of those that fail, which leaves nothing popped. `fn` sees the state once the elements are taken. -/
def laneOpPost (sl : Slot) (fn : State → LaneFn) (post : State → List (Nat × Word × Word) → State) (s : State) (v : View) : State :=
  withPops sl s v v.act (fun l => (evalLanes v.w l (fn s)).1) fun s' l =>
    match s'.wave? v.w.uid with
    | none => s'
    | some w =>
      match (evalLanes w l (fn s')).1 with
      | e :: es => s.trapLanes v sl (e :: es)
      | [] => (post (s'.setLanes v.w.uid (evalLanes w l (fn s')).2) l).advance v.iss (1 + sl.nlits)

/-- A slot that every active lane performs on its own registers. -/
def laneOp (sl : Slot) (fn : LaneFn) (s : State) (v : View) : State := laneOpPost sl (fun _ => fn) (fun s _ => s) s v

/-- A slot that acts once for the wave with the sources of the lowest active lane (R206): `read` gives what it needs of that
lane, and `k` acts; its last argument is the state with nothing popped, for a trap or a wait at issue. A failing check fails the wave's one action, and every active lane traps with
nothing popped (log 30). -/
def waveOp {α : Type} (sl : Slot) (read : Word → Word → Lane → Except Fail α) (k : State → View → α → State → State)
    (s : State) (v : View) : State :=
  let fails (l : List (Nat × Word × Word)) : List (Nat × Fail) :=
    match l.head?, v.w.lanes[v.low]? with
    | some e, some x => match read e.2.1 e.2.2 x with | .error f => v.act.map fun i => (i, f) | .ok _ => []
    | _, _ => []
  withPops sl s v [v.low] fails fun s' l =>
    match l, (s'.wave? v.w.uid).bind (·.lanes[v.low]?) with
    | (_, pa, pb) :: _, some x =>
      match read pa pb x with
      | .error f => s.trapAll v sl f
      | .ok a => k s' v a s
    | _, _ => s'

/-- The same register written in some lanes under nw and hd (R55). -/
def State.writeLanes (s : State) (u : Nat) (lanes : List Nat) (d : Nat) (nw hd : Bool) (r : Reg) : State :=
  lanes.foldl (fun s i => s.modLane u i fun l => l.write d nw hd r) s

/-- The result of a wave's instruction in every active lane, and the end of its slot. -/
def State.finishWith (s : State) (v : View) (sl : Slot) (f : RFmt) (r : Reg) : State :=
  (s.writeLanes v.w.uid v.act f.d.toNat f.nw f.hd r).advance v.iss (1 + sl.nlits)

/-- R101: records are named and waves are created with fresh names. -/
def State.fresh (s : State) : State × Nat := ({ s with uid := s.uid + 1 }, s.uid)

end Sys2Proof.Machine
end

