-- ==== Sys2Proof/Machine/Arith.lean ====
section
/-! DEFINITION. Arithmetic, bit operations, comparisons, conversions, quantisation and tags of spec/04_pipeline (R115 to R130). -/

namespace Sys2Proof.Machine

/-! ## Tag-polymorphic arithmetic (R115 to R119) -/

/-- A lane's rounding mode and FTZ. -/
structure NumEnv where
  md : Mode
  ftz : Bool
  deriving DecidableEq, Repr

def Lane.env (l : Lane) : NumEnv := ⟨Mode.ofFrm l.frm, l.ftz.getLsbD 0⟩

/-- R52: the common tag, that of the first register, latch or port source, or I32. -/
def Lane.polyTag (l : Lane) (srcs : List Src) : Tag := (srcs.filterMap l.srcTag).headD .i32

/-- R86: sources that must carry one admitted tag. -/
def Lane.poly (l : Lane) (adm : Tag → Bool) (t : Tag) : List (Src × Word) → Except Fail (List Word)
  | [] => .ok []
  | (x, p) :: xs =>
    match l.src t p x with
    | .error e => .error e
    | .ok r =>
      if r.tag ≠ t || t = .none || !adm t then .error failFmt
      else match l.poly adm t xs with
        | .error e => .error e
        | .ok ws => .ok (r.bits :: ws)

/-- An operation on one element of each source, by the common tag. -/
abbrev ElemFn := NumEnv → Tag → List Nat → Nat × Flags

/-- R116: an element-wise operation on words of a common tag. -/
def elementwise (g : ElemFn) (e : NumEnv) (t : Tag) (ws : List Word) : Word × Flags :=
  let r := pack t.width ((List.range t.elems).map fun i => g e t (ws.map fun w => elem t w i))
  (BitVec.ofNat 32 r.1, r.2)

/-- R116: the lane's part of a tag-polymorphic instruction whose result carries the common tag, or the tag `res`. -/
def polyLane (srcs : List Src) (readsD : Bool) (d : Nat) (nw hd : Bool) (res : Option Tag) (adm : Tag → Bool) (g : ElemFn) :
    LaneFn := fun _ pa pb l =>
  let all := srcs ++ (if readsD then [.reg (BitVec.ofNat 6 d)] else [])
  let t := l.polyTag all
  match l.poly adm t (all.zip [pa, pb, 0#32]) with
  | .error e => .error e
  | .ok ws =>
    let (r, f) := elementwise g l.env t ws
    .ok ((l.write d nw hd ⟨r, res.getD t⟩).raise f)

/-- An instruction of the table of R115. -/
def polyOp (op : Nat) (f : RFmt) (readsD : Bool) (adm : Tag → Bool) (g : ElemFn) (s : State) : Host.Outcome State Fault Refusal :=
  let sl := slotR op f
  issue sl (laneOp sl (polyLane sl.srcs readsD f.d.toNat f.nw f.hd none adm g)) s

def admitIFB (t : Tag) : Bool := t.cls == .int || t.cls == .flt || t.cls == .blk
def admitIF (t : Tag) : Bool := t.cls == .int || t.cls == .flt
def admitI (t : Tag) : Bool := t.cls == .int
def admitF (t : Tag) : Bool := t.cls == .flt
def admitI32 (t : Tag) : Bool := t == .i32
def admitIFBS (t : Tag) : Bool := admitIFB t || t.cls == .scale
def admitIS (t : Tag) : Bool := t.cls == .int || t.cls == .scale

/-- An integer result that wraps, a block result that clamps (R72, R119). -/
def intResult (t : Tag) (i : Int) : Nat × Flags :=
  if t.cls = .blk then let (m, c) := clamp t.width i; (wrap t.width m, flagIf c flagSat) else (wrap t.width i, 0#6)

/-- A floating-point result of the tag's element format. -/
def fltResult (e : NumEnv) (t : Tag) (x : Exact) : Nat × Flags := t.fmt.deliver e.md e.ftz x

/-- The value of an element of a floating-point tag. -/
def fltVal (e : NumEnv) (t : Tag) (x : Nat) : Val := t.fmt.decode e.ftz x

/-- Unpacks the two elements of a two-source operation. -/
def two (l : List Nat) : Nat × Nat := (l.headD 0, l.tail.headD 0)

def addElem : ElemFn := fun e t l =>
  let (x, y) := two l
  if t.cls = .flt then fltResult e t (exactSum e.md [fltVal e t x, fltVal e t y])
  else intResult t (toSigned t.width x + toSigned t.width y)

def subElem : ElemFn := fun e t l =>
  let (x, y) := two l
  if t.cls = .flt then fltResult e t (exactSum e.md [fltVal e t x, (fltVal e t y).neg])
  else intResult t (toSigned t.width x - toSigned t.width y)

def mulElem : ElemFn := fun e t l =>
  let (x, y) := two l
  if t.cls = .flt then fltResult e t ((fltVal e t x).mul (fltVal e t y)).exact
  else intResult t (toSigned t.width x * toSigned t.width y)

def mulhElem : ElemFn := fun _ t l =>
  let (x, y) := two l
  (wrap 32 (toSigned t.width x * toSigned t.width y / 2 ^ 32), 0#6)

def mulhuElem : ElemFn := fun _ _ l =>
  let (x, y) := two l
  (x * y / 2 ^ 32, 0#6)

/-- a times b plus d, d the third source. -/
def fmaElem : ElemFn := fun e t l =>
  let (x, y) := two l
  let z := l.getD 2 0
  if t.cls = .flt then fltResult e t (exactSum e.md [(fltVal e t x).mul (fltVal e t y), fltVal e t z])
  else intResult t (toSigned t.width x * toSigned t.width y + toSigned t.width z)

/-- R117, R118. -/
def divElem : ElemFn := fun e t l =>
  let (x, y) := two l
  if t.cls = .flt then
    let (q, f) := (fltVal e t x).div (fltVal e t y)
    let (r, g) := fltResult e t q
    (r, f ||| g)
  else if y = 0 then (wrap t.width (-1), flagDz)
  else intResult t ((toSigned t.width x).tdiv (toSigned t.width y))

def divuElem : ElemFn := fun _ t l =>
  let (x, y) := two l
  if y = 0 then (2 ^ t.width - 1, flagDz) else (x / y, 0#6)

def remElem : ElemFn := fun _ t l =>
  let (x, y) := two l
  if y = 0 then (x, flagDz) else intResult t ((toSigned t.width x).tmod (toSigned t.width y))

def remuElem : ElemFn := fun _ _ l =>
  let (x, y) := two l
  if y = 0 then (x, flagDz) else (x % y, 0#6)

/-- R117, R119: MIN (`mx` false) and MAX, signed. -/
def minmaxElem (mx : Bool) : ElemFn := fun e t l =>
  let (x, y) := two l
  match t.cls with
  | .flt =>
    match (fltVal e t x).less (fltVal e t y) with
    | none => fltResult e t .nan
    | some b => fltResult e t ((if b != mx then fltVal e t x else fltVal e t y).exact)
  | .scale => (if decide (x % 512 < y % 512) != mx then x % 512 else y % 512, 0#6)
  | _ => (if decide (toSigned t.width x < toSigned t.width y) != mx then x else y, 0#6)

/-- MINU and MAXU. -/
def minmaxuElem (mx : Bool) : ElemFn := fun _ t l =>
  let (x, y) := two l
  let k (n : Nat) := if t = .scale then n % 512 else n
  (if decide (k x < k y) != mx then k x else k y, 0#6)

def absElem : ElemFn := fun e t l =>
  let x := l.headD 0
  if t.cls = .flt then
    match fltVal e t x with
    | .nan => fltResult e t .nan
    | .inf _ => fltResult e t (.inf false)
    | .fin _ n k => fltResult e t (exactFin false n k)
  else intResult t (toSigned t.width x).natAbs

def negElem : ElemFn := fun e t l =>
  let x := l.headD 0
  if t.cls = .flt then fltResult e t (fltVal e t x).neg.exact else intResult t (-(toSigned t.width x))

def sqrtElem : ElemFn := fun e t l => fltResult e t (fltVal e t (l.headD 0)).sqrt

def rcpElem : ElemFn := fun e t l =>
  let (q, f) := (Val.fin false 1 0).div (fltVal e t (l.headD 0))
  let (r, g) := fltResult e t q
  (r, f ||| g)

def exp2Elem : ElemFn := fun e t l => fltResult e t (fltVal e t (l.headD 0)).exp2

def log2Elem : ElemFn := fun e t l =>
  let (q, f) := (fltVal e t (l.headD 0)).log2
  let (r, g) := fltResult e t q
  (r, f ||| g)

def execAdd (f : RFmt) (s : State) : Host.Outcome State Fault Refusal := polyOp 0x002 f false admitIFB addElem s
def execSub (f : RFmt) (s : State) : Host.Outcome State Fault Refusal := polyOp 0x003 f false admitIFB subElem s
def execMul (f : RFmt) (s : State) : Host.Outcome State Fault Refusal := polyOp 0x004 f false admitIF mulElem s
def execMulh (f : RFmt) (s : State) : Host.Outcome State Fault Refusal := polyOp 0x005 f false admitI32 mulhElem s
def execMulhu (f : RFmt) (s : State) : Host.Outcome State Fault Refusal := polyOp 0x006 f false admitI32 mulhuElem s
def execFma (f : RFmt) (s : State) : Host.Outcome State Fault Refusal := polyOp 0x007 f true admitIF fmaElem s
def execDiv (f : RFmt) (s : State) : Host.Outcome State Fault Refusal := polyOp 0x008 f false admitIF divElem s
def execDivu (f : RFmt) (s : State) : Host.Outcome State Fault Refusal := polyOp 0x009 f false admitI divuElem s
def execRem (f : RFmt) (s : State) : Host.Outcome State Fault Refusal := polyOp 0x00A f false admitI remElem s
def execRemu (f : RFmt) (s : State) : Host.Outcome State Fault Refusal := polyOp 0x00B f false admitI remuElem s
def execMin (f : RFmt) (s : State) : Host.Outcome State Fault Refusal := polyOp 0x00C f false admitIFBS (minmaxElem false) s
def execMax (f : RFmt) (s : State) : Host.Outcome State Fault Refusal := polyOp 0x00D f false admitIFBS (minmaxElem true) s
def execMinu (f : RFmt) (s : State) : Host.Outcome State Fault Refusal := polyOp 0x00E f false admitIS (minmaxuElem false) s
def execMaxu (f : RFmt) (s : State) : Host.Outcome State Fault Refusal := polyOp 0x00F f false admitIS (minmaxuElem true) s
def execAbs (f : RFmt) (s : State) : Host.Outcome State Fault Refusal := polyOp 0x010 f false admitIF absElem s
def execNeg (f : RFmt) (s : State) : Host.Outcome State Fault Refusal := polyOp 0x011 f false admitIFB negElem s
def execSqrt (f : RFmt) (s : State) : Host.Outcome State Fault Refusal := polyOp 0x027 f false admitF sqrtElem s
def execRcp (f : RFmt) (s : State) : Host.Outcome State Fault Refusal := polyOp 0x028 f false admitF rcpElem s
def execExp2 (f : RFmt) (s : State) : Host.Outcome State Fault Refusal := polyOp 0x029 f false admitF exp2Elem s
def execLog2 (f : RFmt) (s : State) : Host.Outcome State Fault Refusal := polyOp 0x02A f false admitF log2Elem s

/-! ## Bit operations and selection (R120, R121) -/

/-- An R-format instruction each active lane performs on its own registers. -/
def rOp (op : Nat) (f : RFmt) (fn : LaneFn) (s : State) : Host.Outcome State Fault Refusal :=
  let sl := slotR op f
  issue sl (laneOp sl fn) s

/-- R120: a two-source operation on 32-bit words; `count` says that b is a count and must be I32. The result has the tag of a, or
`tag`. -/
def bitLane (f : RFmt) (count : Bool) (tag : Option Tag) (g : Word → Word → Word) : LaneFn := fun _ pa pb l =>
  match l.srcSome .i32 pa f.a with
  | .error e => .error e
  | .ok a =>
    match if count then (l.srcAs .i32 pb f.b).map fun w => (⟨w, .i32⟩ : Reg) else l.srcSome .i32 pb f.b with
    | .error e => .error e
    | .ok b => .ok (l.write f.d.toNat f.nw f.hd ⟨g a.bits b.bits, tag.getD a.tag⟩)

/-- Leading zeros of a word. -/
def clzWord (w : Word) : Nat := 32 - bitLen w.toNat

/-- Set bits of a word. -/
def popcWord (w : Word) : Nat := ((List.range 32).filter fun i => w.getLsbD i).length

/-- R120: the field of a that b names, and its width taken as at most 32. -/
def bitField (a b : Word) : Nat × Nat :=
  let p := (b.extractLsb' 0 5).toNat
  let w := min (b.extractLsb' 5 6).toNat 32
  (a.toNat / 2 ^ p % 2 ^ w, w)

def bfxWord (a b : Word) : Word := BitVec.ofNat 32 (bitField a b).1

def bfxsWord (a b : Word) : Word :=
  let (x, w) := bitField a b
  if w = 0 then 0#32 else BitVec.ofInt 32 (toSigned w x)

def bfiWord (d a b : Word) : Word :=
  let p := (b.extractLsb' 0 5).toNat
  let w := min (b.extractLsb' 5 6).toNat 32
  let m := BitVec.ofNat 32 ((2 ^ w - 1) * 2 ^ p)
  (d &&& ~~~m) ||| ((a <<< p) &&& m)

def execAnd (f : RFmt) (s : State) : Host.Outcome State Fault Refusal := rOp 0x012 f (bitLane f false none fun a b => a &&& b) s
def execOr (f : RFmt) (s : State) : Host.Outcome State Fault Refusal := rOp 0x013 f (bitLane f false none fun a b => a ||| b) s
def execXor (f : RFmt) (s : State) : Host.Outcome State Fault Refusal := rOp 0x014 f (bitLane f false none fun a b => a ^^^ b) s
def execAndn (f : RFmt) (s : State) : Host.Outcome State Fault Refusal := rOp 0x015 f (bitLane f false none fun a b => a &&& ~~~b) s

/-- The shift count, bits 4:0. -/
def shiftOf (b : Word) : Nat := (b.extractLsb' 0 5).toNat

def execShl (f : RFmt) (s : State) : Host.Outcome State Fault Refusal := rOp 0x016 f (bitLane f true none fun a b => a <<< shiftOf b) s
def execShr (f : RFmt) (s : State) : Host.Outcome State Fault Refusal := rOp 0x017 f (bitLane f true none fun a b => a >>> shiftOf b) s
def execSra (f : RFmt) (s : State) : Host.Outcome State Fault Refusal :=
  rOp 0x018 f (bitLane f true none fun a b => a.sshiftRight (shiftOf b)) s
def execRot (f : RFmt) (s : State) : Host.Outcome State Fault Refusal :=
  rOp 0x019 f (bitLane f true none fun a b => a.rotateRight (shiftOf b)) s

/-- A one-source operation that writes an I32. -/
def unaryI32 (f : RFmt) (g : Word → Nat) : LaneFn := fun _ pa _ l =>
  match l.srcSome .i32 pa f.a with
  | .error e => .error e
  | .ok a => .ok (l.write f.d.toNat f.nw f.hd (regI32 (BitVec.ofNat 32 (g a.bits))))

def execClz (f : RFmt) (s : State) : Host.Outcome State Fault Refusal := rOp 0x01A f (unaryI32 f clzWord) s
def execPopc (f : RFmt) (s : State) : Host.Outcome State Fault Refusal := rOp 0x01B f (unaryI32 f popcWord) s
def execBfx (f : RFmt) (s : State) : Host.Outcome State Fault Refusal := rOp 0x01C f (bitLane f true (some .i32) bfxWord) s
def execBfxs (f : RFmt) (s : State) : Host.Outcome State Fault Refusal := rOp 0x01D f (bitLane f true (some .i32) bfxsWord) s

/-- BFI reads d, which must not be NONE. -/
def bfiLane (f : RFmt) : LaneFn := fun _ pa pb l =>
  match l.srcSome .i32 pa f.a, l.srcAs .i32 pb f.b, l.regSome f.d.toNat with
  | .ok a, .ok b, .ok d => .ok (l.write f.d.toNat f.nw f.hd ⟨bfiWord d.bits a.bits b, d.tag⟩)
  | .error e, _, _ | _, .error e, _ | _, _, .error e => .error e

def execBfi (f : RFmt) (s : State) : Host.Outcome State Fault Refusal := rOp 0x01E f (bfiLane f) s

/-- R121: a and b carry one tag other than NONE; d is a mask with any tag but NONE. -/
def selLane (f : RFmt) : LaneFn := fun _ pa pb l =>
  match l.poly (fun _ => true) (l.polyTag [f.a, f.b]) [(f.a, pa), (f.b, pb)], l.regSome f.d.toNat with
  | .ok [a, b], .ok d => .ok (l.write f.d.toNat f.nw f.hd ⟨(a &&& d.bits) ||| (b &&& ~~~d.bits), l.polyTag [f.a, f.b]⟩)
  | .error e, _ | _, .error e => .error e
  | _, _ => .error failFmt

def execSel (f : RFmt) (s : State) : Host.Outcome State Fault Refusal := rOp 0x01F f (selLane f) s

/-! ## Comparisons (R122) -/

/-- A relation on elements, with the flags it raises. -/
abbrev RelFn := NumEnv → Tag → Nat → Nat → Bool × Flags

/-- A comparison: an element mask, written as I32 whatever its sources' tag. -/
def cmpOp (op : Nat) (f : RFmt) (adm : Tag → Bool) (rel : RelFn) (s : State) : Host.Outcome State Fault Refusal :=
  rOp op f (polyLane [f.a, f.b] false f.d.toNat f.nw f.hd (some .i32) adm fun e t l =>
    let (b, fl) := rel e t (two l).1 (two l).2
    (if b then 2 ^ t.width - 1 else 0, fl)) s

def eqRel : RelFn := fun e t x y => if t.cls = .flt then ((fltVal e t x).eqv (fltVal e t y), 0#6) else (x == y, 0#6)
def neRel : RelFn := fun e t x y => (!(eqRel e t x y).1, 0#6)

/-- Either element is NaN. -/
def unordered (e : NumEnv) (t : Tag) (x y : Nat) : Bool := ((fltVal e t x).less (fltVal e t y)).isNone

def ltRel : RelFn := fun e t x y =>
  if t.cls = .flt then ((fltVal e t x).ltv (fltVal e t y), flagIf (unordered e t x y) flagInv)
  else (toSigned t.width x < toSigned t.width y, 0#6)

def leRel : RelFn := fun e t x y =>
  if t.cls = .flt then ((fltVal e t x).ltv (fltVal e t y) || (fltVal e t x).eqv (fltVal e t y), flagIf (unordered e t x y) flagInv)
  else (toSigned t.width x ≤ toSigned t.width y, 0#6)

def execCmpEq (f : RFmt) (s : State) : Host.Outcome State Fault Refusal := cmpOp 0x020 f admitIF eqRel s
def execCmpNe (f : RFmt) (s : State) : Host.Outcome State Fault Refusal := cmpOp 0x021 f admitIF neRel s
def execCmpLt (f : RFmt) (s : State) : Host.Outcome State Fault Refusal := cmpOp 0x022 f admitIF ltRel s
def execCmpLe (f : RFmt) (s : State) : Host.Outcome State Fault Refusal := cmpOp 0x023 f admitIF leRel s
def execCmpLtu (f : RFmt) (s : State) : Host.Outcome State Fault Refusal := cmpOp 0x024 f admitI (fun _ _ x y => (x < y, 0#6)) s
def execCmpLeu (f : RFmt) (s : State) : Host.Outcome State Fault Refusal := cmpOp 0x025 f admitI (fun _ _ x y => (x ≤ y, 0#6)) s
def execCmpUn (f : RFmt) (s : State) : Host.Outcome State Fault Refusal := cmpOp 0x026 f admitF (fun e t x y => (unordered e t x y, 0#6)) s

/-! ## Moves, tags and addresses (R123, R129, R130) -/

/-- MOV copies bits and tag, NONE included. -/
def movLane (f : RFmt) : LaneFn := fun _ pa _ l => (l.src .i32 pa f.a).map fun r => l.write f.d.toNat f.nw f.hd r

def execMov (f : RFmt) (s : State) : Host.Outcome State Fault Refusal := rOp 0x001 f (movLane f) s
def execNop (f : RFmt) (s : State) : Host.Outcome State Fault Refusal := rOp 0x04E f (fun _ _ _ l => .ok l) s

/-- R129: codes 14 and 15 trap ILLFLD. -/
def tagsetLane (f : RFmt) : LaneFn := fun _ pa pb l =>
  match l.srcSome .i32 pa f.a, l.srcAs .i32 pb f.b with
  | .ok a, .ok b =>
    match Tag.ofCode (b.extractLsb' 0 4).toNat with
    | some t => .ok (l.write f.d.toNat f.nw f.hd ⟨a.bits, t⟩)
    | none => .error failFld7
  | .error e, _ | _, .error e => .error e

def execTagset (f : RFmt) (s : State) : Host.Outcome State Fault Refusal := rOp 0x039 f (tagsetLane f) s

def taggetLane (f : RFmt) : LaneFn := fun _ pa _ l =>
  (l.src .i32 pa f.a).map fun r => l.write f.d.toNat f.nw f.hd (regI32 (BitVec.ofNat 32 r.tag.code))

def execTagget (f : RFmt) (s : State) : Host.Outcome State Fault Refusal := rOp 0x03A f (taggetLane f) s

/-- An even register named by a source field: ADDP, RET, JMPR and BRL take no other source (R130, R132). -/
def pairReg : Src → Option Nat
  | .reg r => if r.toNat % 2 = 0 then some r.toNat else none
  | _ => none

/-- R130. -/
def addpLane (f : RFmt) : LaneFn := fun _ _ pb l =>
  match l.pair ((pairReg f.a).getD 0), l.srcAs .i32 pb f.b with
  | .ok a, .ok b => .ok (if f.nw then l else l.setPair f.d.toNat (a + b.signExtend 64))
  | .error e, _ | _, .error e => .error e

def execAddp (f : RFmt) (s : State) : Host.Outcome State Fault Refusal :=
  let sl := slotR 0x04F f ((pairReg f.a).toList.map (· + 1) ++ [f.d.toNat + 1]) ((pairReg f.a).isNone || f.d.toNat % 2 = 1)
  issue sl (laneOp sl (addpLane f)) s

/-! ## Conversions (R124, R125) -/

/-- The value of an element of an INT or FLT tag. -/
def elemVal (e : NumEnv) (t : Tag) (x : Nat) : Val :=
  if t.cls = .flt then fltVal e t x
  else let i := toSigned t.width x; .fin (i < 0) i.natAbs 0

/-- Element b mod E of a, whose tag must be INT or FLT. -/
def cvtSource (f : RFmt) (pa pb : Word) (l : Lane) : Except Fail (Tag × Nat) :=
  match l.srcSome .i32 pa f.a, l.srcAs .i32 pb f.b with
  | .ok a, .ok b => if admitIF a.tag then .ok (a.tag, elem a.tag a.bits (b.toNat % a.tag.elems)) else .error failFmt
  | .error e, _ | _, .error e => .error e

/-- CVT.F32; an F32 element comes back unchanged but for a NaN (log 17). -/
def cvtF32Lane (f : RFmt) : LaneFn := fun _ pa pb l =>
  match cvtSource f pa pb l with
  | .error e => .error e
  | .ok (t, x) =>
    let (r, fl) := if t = .f32 && fp32.decode false x != .nan then (x, 0#6)
      else toFloat fp32 l.env.md l.env.ftz false (elemVal l.env t x)
    .ok ((l.write f.d.toNat f.nw f.hd ⟨BitVec.ofNat 32 r, .f32⟩).raise fl)

def execCvtF32 (f : RFmt) (s : State) : Host.Outcome State Fault Refusal := rOp 0x02B f (cvtF32Lane f) s

def cvtI32Lane (f : RFmt) : LaneFn := fun _ pa pb l =>
  match cvtSource f pa pb l with
  | .error e => .error e
  | .ok (t, x) =>
    let (r, fl) := if t.cls = .int then (toSigned t.width x, 0#6) else toInt l.env.md 32 (fltVal l.env t x)
    .ok ((l.write f.d.toNat f.nw f.hd (regI32 (BitVec.ofInt 32 r))).raise fl)

def execCvtI32 (f : RFmt) (s : State) : Host.Outcome State Fault Refusal := rOp 0x02C f (cvtI32Lane f) s

/-- R125: c(x) for a floating-point element format. -/
def packFlt (g : FFmt) (sat : Bool) : ElemFn := fun e t l =>
  toFloat g e.md e.ftz sat (elemVal e t (l.headD 0))

/-- R125: c(x) for an integer element format of w bits: an I32 source clamps with SAT. -/
def packInt (w : Nat) : ElemFn := fun e t l =>
  if t = .i32 then
    let (i, c) := clamp w (toSigned 32 (l.headD 0))
    (wrap w i, flagIf c flagSat)
  else
    let (i, fl) := toInt e.md w (fltVal e t (l.headD 0))
    (wrap w i, fl)

/-- R125: a and b are both I32 or both F32; `four` shifts d left by 16 and reads it. -/
def packLane (f : RFmt) (w : Nat) (tag : Tag) (four : Bool) (c : ElemFn) : LaneFn := fun _ pa pb l =>
  let t := l.polyTag [f.a, f.b]
  match l.poly (fun t => t == .i32 || t == .f32) t [(f.a, pa), (f.b, pb)],
      if four then l.regSome f.d.toNat else .ok Reg.empty with
  | .ok [a, b], .ok d =>
    let (x, fx) := c l.env t [a.toNat]
    let (y, fy) := c l.env t [b.toNat]
    let low := BitVec.ofNat 32 (x + y * 2 ^ w)
    .ok ((l.write f.d.toNat f.nw f.hd ⟨if four then (d.bits <<< 16) ||| low else low, tag⟩).raise (fx ||| fy))
  | .error e, _ | _, .error e => .error e
  | _, _ => .error failFmt

def execCvtBf16x2 (f : RFmt) (s : State) : Host.Outcome State Fault Refusal := rOp 0x02D f (packLane f 16 .bf16x2 false (packFlt bf16 false)) s
def execCvtF16x2 (f : RFmt) (s : State) : Host.Outcome State Fault Refusal := rOp 0x02E f (packLane f 16 .f16x2 false (packFlt fp16 false)) s
def execCvtI16x2 (f : RFmt) (s : State) : Host.Outcome State Fault Refusal := rOp 0x033 f (packLane f 16 .i16x2 false (packInt 16)) s
def execCvtE4m3x4 (f : RFmt) (s : State) : Host.Outcome State Fault Refusal := rOp 0x02F f (packLane f 8 .e4m3x4 true (packFlt e4m3 false)) s
def execCvtE4m3x4Sat (f : RFmt) (s : State) : Host.Outcome State Fault Refusal := rOp 0x030 f (packLane f 8 .e4m3x4 true (packFlt e4m3 true)) s
def execCvtE5m2x4 (f : RFmt) (s : State) : Host.Outcome State Fault Refusal := rOp 0x031 f (packLane f 8 .e5m2x4 true (packFlt e5m2 false)) s
def execCvtI8x4 (f : RFmt) (s : State) : Host.Outcome State Fault Refusal := rOp 0x032 f (packLane f 8 .i8x4 true (packInt 8)) s

/-! ## Quantisation (R127, R128) -/

/-- QSC.E of a lane. -/
def Lane.qscE (l : Lane) : Nat := (l.qsc.extractLsb' 0 9).toNat

/-- R127: QNT of two F32 sources, read whole whatever FTZ holds (R83). -/
def qntLane (f : RFmt) (n : Nat) (tag : Tag) : LaneFn := fun _ pa pb l =>
  match l.srcAs .f32 pa f.a, l.srcAs .f32 pb f.b, l.regSome f.d.toNat with
  | .ok a, .ok b, .ok d =>
    let (x, fx) := quantise n l.qscE (fp32.decode false a.toNat)
    let (y, fy) := quantise n l.qscE (fp32.decode false b.toNat)
    let r := (d.bits <<< (2 * n)) ||| BitVec.ofNat 32 (wrap n y * 2 ^ n + wrap n x)
    .ok ((l.write f.d.toNat f.nw f.hd ⟨r, tag⟩).raise (fx ||| fy))
  | .error e, _, _ | _, .error e, _ | _, _, .error e => .error e

def execQntB8 (f : RFmt) (s : State) : Host.Outcome State Fault Refusal := rOp 0x035 f (qntLane f 8 .bfp8x4) s
def execQntB4 (f : RFmt) (s : State) : Host.Outcome State Fault Refusal := rOp 0x036 f (qntLane f 4 .bfp4x8) s
def execQntB2 (f : RFmt) (s : State) : Host.Outcome State Fault Refusal := rOp 0x037 f (qntLane f 2 .bfp2x16) s

/-- R128: DEQ of element b mod E of a block register. -/
def deqLane (f : RFmt) : LaneFn := fun _ pa pb l =>
  match l.srcSome .i32 pa f.a, l.srcAs .i32 pb f.b with
  | .ok a, .ok b =>
    if a.tag.cls = .blk then
      let (r, fl) := dequantise l.env.ftz a.tag.width l.qscE (selem a.tag a.bits (b.toNat % a.tag.elems))
      .ok ((l.write f.d.toNat f.nw f.hd ⟨BitVec.ofNat 32 r, .f32⟩).raise fl)
    else .error failFmt
  | .error e, _ | _, .error e => .error e

def execDeq (f : RFmt) (s : State) : Host.Outcome State Fault Refusal := rOp 0x038 f (deqLane f) s

end Sys2Proof.Machine
end

