-- ==== Sys2Proof/Machine/Waits.lean ====
section
/-! DEFINITION. What waves do to one another on a pipeline or in a team: register blocks and their blocked requests
(spec/04_pipeline R109 to R112), row exchanges of QMAX (R126), team barriers (06_group R235), and a die's remaining allowance
(15_sextant R445). -/

namespace Sys2Proof.Machine

/-! ## Register blocks (R109 to R112) -/

/-- Register-file entries held by no block on a pipeline: POOL (R99, R110). -/
def State.poolFree (s : State) (p : PipeId) : Nat :=
  Config.pool - ((s.waves.filter fun w => w.die == p.die && w.gw == p.gw && w.clu == p.clu && w.base ≤ p.pipe &&
    p.pipe < w.base + w.width).map fun w => w.bregs + w.xregs).sum

/-- The pipelines of a wave. -/
def Wave.pipes (w : Wave) : List PipeId := (List.range w.width).map w.pipeOf

/-- Whether a request of a wave for `x` entries can be taken now: free on every pipeline, and no request blocked earlier. -/
def State.regxFree (s : State) (w : Wave) (i : Issuer) (x : Nat) : Bool :=
  w.pipes.all fun p => x ≤ s.poolFree p && ((s.pipe p).blocked.head? == none || (s.pipe p).blocked.head? == some i)

/-- Takes an extended block: g32 up become NONE with zero bits in every lane. -/
def Wave.takeBlock (w : Wave) (x : Nat) : Wave :=
  { w with xregs := x, lanes := w.lanes.map fun l =>
      { l with regs := Vector.ofFn fun (r : Fin 64) => if 32 ≤ r.val && r.val < 32 + x then Reg.empty else l.regs[r] } }

/-- Removes an issuer from the blocked order of its pipelines. -/
def State.unblock (s : State) (i : Issuer) : State :=
  { s with pipes := s.pipes.map fun e => (e.1, { e.2 with blocked := e.2.blocked.filter fun j => j ≠ i }) }

/-- Writes a result into the active lanes of a view, or latches it only. -/
def State.deliver (s : State) (v : View) (d : Option Nat) (hd : Bool) (r : Reg) : State :=
  s.writeLanes v.w.uid v.act (d.getD 0) d.isNone hd r

/-- A blocked REGX whose block is free: it is taken and the request completes with OK. -/
def State.grantOne (s : State) (i : Issuer) : State :=
  match s.view i with
  | none => s
  | some v =>
    match v.thr.wait with
    | .regx x d hd _ =>
      if s.regxFree v.w i x then
        (((s.unblock i).modWave v.w.uid (·.takeBlock x)).deliver v d hd Status.ok.reg).resumeAfter i
      else s
    | _ => s

/-- Every issuer that blocks on some pipeline, in the pipelines' orders. -/
def State.blockedIssuers (s : State) : List Issuer := (s.pipes.flatMap fun e => e.2.blocked).dedup

/-- R110: after entries are freed, blocked requests that can be taken are granted, as often as one frees the way of another. -/
def State.grantRegx (s : State) : State :=
  let all := s.blockedIssuers
  all.foldl (fun s _ => all.foldl State.grantOne s) s

/-! ## Row exchanges (R126) -/

/-- A lane's contribution: the largest magnitude of its elements as FP32, and whether one is a NaN or an infinity. -/
def rowPart (t : Tag) (w : Word) : Word × Bool :=
  let (m, bad) := maxMag ((List.range t.elems).map fun i => t.fmt.decode false (elem t w i))
  (BitVec.ofNat 32 (toFloat fp32 .rne false false (.fin false m.1 m.2)).1, bad)

/-- R93: E at width n for a row of contributions. -/
def rowE (n : Nat) (row : List (Word × Bool)) : Nat × Flags :=
  agreedE n false (row.map fun e => if e.2 then .nan else fp32.decode false e.1.toNat)

/-- What a member writes: d as SCALE, QSC.E and the flags. -/
def Lane.takeScale (l : Lane) (d : Nat) (nw hd : Bool) (r : Nat × Flags) : Lane :=
  { l.write d nw hd ⟨BitVec.ofNat 32 r.1, .scale⟩ with qsc := BitVec.ofNat 32 r.1 }.raise r.2

/-- The members of the exchange of an aligned set of eight: the team's resident solo waves on it. -/
def State.rowMembers (s : State) (team base : Nat) : List Wave :=
  s.waves.filter fun w => w.team == team && w.width == 1 && w.base / 8 * 8 == base

/-- R126: an exchange whose every member has arrived completes: each arrived wave takes E and resumes. -/
def State.settleRow (s : State) (team base : Nat) : State :=
  let ms := s.rowMembers team base
  let parts := ms.filterMap fun w => match w.thr.wait with | .qmax m bad _ _ _ => some (m, bad) | _ => none
  if ms = [] || parts.length < ms.length then s
  else ms.foldl (fun s w =>
    match w.thr.wait with
    | .qmax _ _ n d hd =>
      (s.modLane w.uid 0 fun l => l.takeScale (d.getD 0) d.isNone hd (rowE n parts)).resumeAfter ⟨w.uid, none⟩
    | _ => s) s

/-- The exchanges of every set of a team are tried again: membership is taken anew (R126). -/
def State.settleRows (s : State) (team : Nat) : State :=
  [0, 8, 16, 24].foldl (fun s b => s.settleRow team b) s

/-! ## Barriers (06_group R235, R236) -/

/-- The waves of a team that have not retired; a group counts as one. -/
def State.teamWaves (s : State) (team : Nat) : List Wave := s.waves.filter (·.team == team)

/-- The arrivals that complete the phase of a barrier: its fixed count, or every wave of the team for 0. -/
def State.barrierCount (s : State) (team : Nat) (b : Nat) : Nat := if b = 0 then (s.teamWaves team).length else b

/-- The waves of a team parked in BAR on a barrier. -/
def State.barWaiters (s : State) (team b : Nat) : List Wave :=
  s.waves.filter fun w => w.team == team && match w.thr.wait with | .bar x _ _ => x == b | _ => false

/-- R235: a phase whose arrivals have reached the expected count completes: the counter rises and the waves parked in BAR resume,
each acquiring at CLU. -/
def State.settleBarrier (s : State) (team b : Nat) : State :=
  match s.team? team with
  | none => s
  | some t =>
    let x := t.barriers[b]?.getD Barrier.reset
    match x.expected with
    | none => s
    | some e =>
      if x.arrived = 0 || x.arrived < s.barrierCount team e then s
      else
        let ws := s.barWaiters team b
        let s := s.modTeam team fun t => { t with barriers := t.barriers.setIfInBounds b ⟨x.phase + 1#31, 0, none⟩ }
        ws.foldl (fun s w =>
          match w.thr.wait with
          | .bar _ d hd =>
            let s := s.l1Acquire w.pipes
            match s.view ⟨w.uid, none⟩ with
            | some v => (s.deliver v d hd Status.ok.reg).resumeAfter v.iss
            | none => s
          | _ => s) s

/-- Barriers counted by the team's waves are tried again after an arrival, a retirement, a FUSE or a SPLIT. -/
def State.settleBarriers (s : State) (team : Nat) : State := (List.range 16).foldl (fun s b => s.settleBarrier team b) s

/-- Everything that a change of a team's waves can complete. -/
def State.settleTeam (s : State) (team : Nat) : State := ((s.settleRows team).settleBarriers team).grantRegx

/-! ## Whole-grid swap-out (11_schedulers R380) -/

/-- A wave parked in NWAIT: its thread, or every lane of it that runs on its own. -/
def Wave.inNwait (w : Wave) : Bool :=
  let waits (t : Thread) : Bool := match t.wait with | .notify _ _ _ _ => t.st = .parked | _ => false
  let owns := w.lanes.filterMap (·.own)
  if owns = [] then waits w.thr else owns.all waits

/-- The resident waves of a grid. -/
def State.gridWaves (s : State) (g : Nat) : List Wave := s.waves.filter fun w => (s.team? w.team).any fun t => t.grid == some g

/-- R380's test: the grid is to be swapped out once the share of its waves parked in NWAIT meets SVCTHR. -/
def State.testSwap (s : State) (g : Nat) : State :=
  { s with grids := s.grids.map fun x =>
      if x.uid == g && !x.swapped then
        let ws := s.gridWaves g
        let thr := ((s.ctx? x.ctx).map fun c => c.svcthr.toNat).getD 0
        if ws ≠ [] && thr != 0 && thr * ws.length ≤ 256 * (ws.filter Wave.inNwait).length then { x with swapping := true } else x
      else x }

/-- The test for every grid of a context. -/
def State.testSwaps (s : State) (c : BitVec 12) : State := (s.grids.filter (·.ctx == c)).foldl (fun s g => s.testSwap g.uid) s

/-- A thread that parked and was resumed within one slot still owns its pipelines unless its clause ended. -/
def State.keepOwning (s : State) (i : Issuer) : State :=
  s.modThr i fun t => if t.st = .ready && t.slot != 0 then { t with st := .owning } else t

/-! ## Energy (01_ties R33, R35; 15_sextant R445) -/

def State.die (s : State) (n : Nat) : Die := assocGet s.dies n Die.reset
def State.modDie (s : State) (n : Nat) (f : Die → Die) : State := { s with dies := assocSet s.dies n (f (s.die n)) }

/-- Reservations held on a die in the interval. -/
def State.reserved (s : State) (n : Nat) : Nat := ((s.teams.filter (·.die == n)).map (·.rsv)).sum

/-- A counter difference modulo 2^64. -/
def Die.used (d : Die) : Nat := (d.energy + 2 ^ 64 - d.startUse) % 2 ^ 64

/-- R445: the remaining allowance of a die, before saturation. -/
def State.remaining (s : State) (n : Nat) : Int :=
  let d := s.die n
  (d.allowance : Int) - d.charged - s.reserved n - (if d.used > d.charged then (d.used : Int) - d.charged else 0)

/-- R35: ENBAL, saturated at ±0x7FFF_FFFF. -/
def State.enbal (s : State) (n : Nat) : Word := BitVec.ofInt 32 (max (-0x7FFFFFFF) (min 0x7FFFFFFF (s.remaining n)))

end Sys2Proof.Machine
end

