-- ==== Sys2Proof/Machine/Control.lean ====
section
/-! DEFINITION. Control words, register blocks, QMAX, control transfer, traps, service calls, waiting and retiring
(spec/04_pipeline R106 to R140) and DMAP (02_encoding R64). -/

namespace Sys2Proof.Machine

/-! ## Control words (R106 to R108) -/

/-- CWR's value of a control word in a lane. -/
def readControl (s : State) (v : View) (i : Nat) (l : Lane) (n : Nat) : Word :=
  match n with
  | 0x00 => l.frm
  | 0x01 => l.flags
  | 0x02 => l.qsc
  | 0x03 => l.ftz
  | 0x04 => l.waveid.setWidth 32
  | 0x05 => v.w.teamIndex
  | 0x06 => v.w.gridx
  | 0x07 => v.w.gridy
  | 0x08 => v.w.gridz
  | 0x09 => BitVec.ofNat 32 v.laneBase
  | 0x0A => BitVec.ofNat 32 v.width
  | 0x0B => v.w.depth.setWidth 32
  | 0x0C => v.w.ctx.setWidth 32
  | 0x0D => BitVec.ofNat 32 (v.w.clu + (if v.w.gw then 2 ^ 14 else (v.w.base + i) * 2 ^ 6) + l.slotNo.toNat * 2 ^ 11)
  | 0x0E => BitVec.ofNat 32 v.w.die
  | 0x0F => s.pkgid.setWidth 32
  | 0x10 => l.trapvec
  | 0x11 => l.trapcause
  | 0x12 => l.trapaddr
  | 0x13 => l.traplanes
  | 0x14 => l.epc
  | 0x15 => l.divthr
  | 0x16 => (((s.ctx? v.w.ctx).map (·.svcthr)).getD 0#8).setWidth 32
  | 0x17 => l.regxwait
  | 0x18 => v.liveMask
  | 0x19 => l.msgsrc
  | 0x1A => BitVec.ofNat 32 (min v.w.attempt 255)
  | 0x1B => s.enbal v.w.die
  | _ => 0#32

def cwrLane (s : State) (v : View) (f : RFmt) : LaneFn := fun i pa _ l =>
  (l.srcAs .i32 pa f.a).map fun n => l.write f.d.toNat f.nw f.hd (regI32 (readControl s v i l (n.extractLsb' 0 8).toNat))

def execCwr (f : RFmt) (s : State) : Host.Outcome State Fault Refusal :=
  let sl := slotR 0x03B f
  issue sl (fun s v => laneOp sl (cwrLane s v f) s v) s

/-- CWW into a lane's control word: `none` for a read-only or reserved word, or a reserved bit. SVCTHR is the context's. -/
def Lane.writeControl (l : Lane) (n : Nat) (x : Word) : Option Lane :=
  match n with
  | 0x00 => if x.toNat < 4 then some { l with frm := x } else none
  | 0x01 => if x.toNat < 64 then some { l with flags := x } else none
  | 0x02 => if x.toNat < 512 then some { l with qsc := x } else none
  | 0x03 => if x.toNat < 2 then some { l with ftz := x } else none
  | 0x10 => if x.toNat % 4 = 0 then some { l with trapvec := x } else none
  | 0x11 => if x.toNat < 2 ^ 14 then
      some { l with trapcause := (l.trapcause &&& 0x3000#32) ||| (x &&& 0x0FFF#32) } else none
  | 0x12 => some { l with trapaddr := x }
  | 0x13 => some { l with traplanes := x }
  | 0x14 => if x.toNat % 4 = 0 then some { l with epc := x } else none
  | 0x15 => if x.toNat < 16 then some { l with divthr := x } else none
  | 0x16 => some l
  | 0x17 => some { l with regxwait := x }
  | _ => none

/-- The number and value of a CWW in a lane. -/
def cwwSource (f : RFmt) (pa pb : Word) (l : Lane) : Except Fail (Word × Word) :=
  match l.srcAs .i32 pa f.a, l.srcSome .i32 pb f.b with
  | .ok a, .ok b => .ok (a, b.bits)
  | .error e, _ | _, .error e => .error e

/-- The bits of source a, where the privilege check of step 5 can see them. -/
def peekBits (l : Lane) : Src → Word
  | .reg r => (l.reg r.toNat).bits
  | .latch k => ((l.latch k).map (·.bits)).getD 0#32
  | .lit w => w.getD 0#32
  | .inl v => v.signExtend 32
  | _ => 0#32

def cwwLane (v : View) (f : RFmt) : LaneFn := fun _ pa pb l =>
  if (peekBits l f.a).extractLsb' 0 8 == 0x16#8 && v.w.ctx != 0#12 then .error ⟨.priv, none, false⟩
  else match cwwSource f pa pb l with
    | .error e => .error e
    | .ok (n, x) =>
      if n.extractLsb' 0 8 == 0x16#8 && v.w.ctx != 0#12 then .error ⟨.priv, none, true⟩
      else match l.writeControl (n.extractLsb' 0 8).toNat x with
        | some l => .ok l
        | none => .error failFld7

/-- R108: SVCTHR of the context that bits 19:8 of a name; no effect in TEARDOWN or FREE. -/
def cwwContexts (f : RFmt) (v : View) (s : State) (l : List (Nat × Word × Word)) : State :=
  l.foldl (fun s e =>
    match (v.lane? e.1).map (cwwSource f e.2.1 e.2.2) with
    | some (.ok (n, x)) =>
      if n.extractLsb' 0 8 == 0x16#8 then
        (s.modCtx (n.extractLsb' 8 12) fun c => if c.st = .teardown || c.st = .free then c else { c with svcthr := x.extractLsb' 0 8 }).testSwaps
          (n.extractLsb' 8 12)
      else s
    | _ => s) s

def execCww (f : RFmt) (s : State) : Host.Outcome State Fault Refusal :=
  let sl := slotR 0x03C f
  issue sl (fun s v => laneOpPost sl (fun _ => cwwLane v f) (cwwContexts f v) s v) s

/-! ## Register blocks (R111) -/

/-- REGX and REGX.NB after their source. -/
def regxBody (f : RFmt) (sl : Slot) (nb : Bool) (s : State) (v : View) (a : Word) (_ : State) : State :=
  let x := (a.toNat + 7) / 8 * 8
  if a.toInt ≤ 0 || a.toInt > 32 then s.finishWith v sl f Status.toobig.reg
  else if v.w.xregs != 0 then s.finishWith v sl f Status.refused.reg
  else if s.regxFree v.w v.iss x then (s.modWave v.w.uid (·.takeBlock x)).finishWith v sl f Status.ok.reg
  else if nb then s.finishWith v sl f Status.full.reg
  else
    let s := s.park v.iss (.regx x (if f.nw then none else some f.d.toNat) f.hd 0) sl
    v.w.pipes.foldl (fun s p => s.setPipe p { s.pipe p with blocked := (s.pipe p).blocked ++ [v.iss] }) s

def execRegx (f : RFmt) (s : State) : Host.Outcome State Fault Refusal :=
  let sl := slotR 0x03D f
  issue sl.once (waveOp sl (fun pa _ l => l.srcAs .i32 pa f.a) (regxBody f sl false)) s

def execRegxNb (f : RFmt) (s : State) : Host.Outcome State Fault Refusal :=
  let sl := slotR 0x03E f
  issue sl.once (waveOp sl (fun pa _ l => l.srcAs .i32 pa f.a) (regxBody f sl true)) s

def execRegrel (f : RFmt) (s : State) : Host.Outcome State Fault Refusal :=
  let sl := slotR 0x03F f
  issue sl (fun s v => ((s.modWave v.w.uid fun w => { w with xregs := 0 }).advance v.iss 1).grantRegx) s

/-- R112: a REGX that has waited REGXWAIT issue cycles traps REGXSTALL; the request leaves the blocked order. -/
def execRegxstall (i : Issuer) (s : State) : Host.Outcome State Fault Refusal :=
  match s.view i with
  | none => .next s
  | some v =>
    match v.thr.wait, v.lane? (if v.lane.isSome then v.low else 0) with
    | .regx _ _ _ c, some l =>
      if v.thr.st = .parked && l.regxwait != 0#32 && l.regxwait.toNat ≤ c then
        .next ((s.unblock i).trap v { lanes := v.act, cause := .regxstall, addr := 0#64, trapaddr := v.thr.parkWord, hdr := v.thr.hdr,
                                      slot := v.thr.slot }).grantRegx
      else .next s
    | _, _ => .next s

/-! ## QMAX (R126) -/

/-- A lane's contribution and its n. -/
def qmaxSource (f : RFmt) (pa pb : Word) (l : Lane) : Except Fail ((Word × Bool) × Nat) :=
  let t := (l.srcTag f.a).getD .i32
  match l.srcAs t pa f.a, l.srcAs .i32 pb f.b with
  | .ok a, .ok b =>
    if t.cls ≠ .flt then .error failFmt
    else if b.toNat < 2 || b.toNat > 8 then .error failFld7
    else .ok (rowPart t a, b.toNat)
  | .error e, _ | _, .error e => .error e

/-- QMAX: an attached fused wave exchanges among its active lanes, a solo wave with its set; a lane of a fused wave that runs on its own,
in a handler too, is a row of its own (R126, 06_group R224; log 81). -/
def qmaxBody (f : RFmt) (sl : Slot) (s : State) (v : View) : State :=
  let parts (w : Wave) (l : List (Nat × Word × Word)) := l.map fun e =>
    (e.1, match w.lanes[e.1]? with | some x => qmaxSource f e.2.1 e.2.2 x | none => .error failFmt)
  let fails (w : Wave) (l : List (Nat × Word × Word)) : List (Nat × Fail) :=
    (parts w l).filterMap fun e => match e.2 with | .error x => some (e.1, x) | .ok _ => none
  withPops sl s v v.act (fails v.w) fun s' l =>
    match s'.wave? v.w.uid with
    | none => s'
    | some w =>
      match fails w l with
      | e :: es => s.trapLanes v sl (e :: es)
      | [] =>
        let ok := (parts w l).filterMap fun e => match e.2 with | .ok x => some (e.1, x) | .error _ => none
        if v.w.width = 1 then
          match ok with
          | (_, (m, bad), n) :: _ =>
            ((s'.park v.iss (.qmax m bad n (if f.nw then none else some f.d.toNat) f.hd) sl).settleRow w.team
              (w.base / 8 * 8)).keepOwning v.iss
          | [] => s'
        else
          (ok.foldl (fun s e => s.modLane w.uid e.1 fun x =>
            x.takeScale f.d.toNat f.nw f.hd (rowE e.2.2 (ok.map (·.2.1)))) s').advance v.iss (1 + sl.nlits)

def execQmax (f : RFmt) (s : State) : Host.Outcome State Fault Refusal :=
  let sl := slotR 0x034 f
  issue sl (qmaxBody f sl) s

/-! ## Control transfer (R131, R132) -/

/-- R57: the target of a B-format branch. -/
def branchTarget (hdr : BitVec 54) (off : BitVec 12) : BitVec 54 := hdr + (off.signExtend 54 <<< 2)

def execBr (f : BFmt) (s : State) : Host.Outcome State Fault Refusal :=
  let sl := slotB 0x040 f
  issue sl (fun s v => s.transfer v.iss (branchTarget v.thr.hdr f.off)) s

/-- DIVG in every active lane (06_group R222). -/
def failDivg : Fail := ⟨.divg, none, false⟩

def brcBody (f : BFmt) (sl : Slot) (s : State) (v : View) : State :=
  let lanes := v.act.filterMap fun i => (v.lane? i).map fun l => (i, l.reg f.c.toNat)
  match lanes.filter fun e => e.2.tag = .none with
  | e :: es => s.trapLanes v sl ((e :: es).map fun x => (x.1, failFmt))
  | [] =>
    let taken := lanes.filter fun e => condHolds f.cond e.2.bits
    if taken.length = lanes.length then s.transfer v.iss (branchTarget v.thr.hdr f.off)
    else if taken = [] then s.advance v.iss 1
    else s.trapAll v sl failDivg

def execBrc (f : BFmt) (s : State) : Host.Outcome State Fault Refusal :=
  let sl := slotB 0x041 f
  issue sl (brcBody f sl) s

/-- The return address of a clause (R131). -/
def Thread.returnAddr (t : Thread) : DWord := t.nextHdr.setWidth 64

/-- An ADDR pair written in some lanes. -/
def State.writePairs (s : State) (u : Nat) (lanes : List Nat) (d : Nat) (a : DWord) : State :=
  lanes.foldl (fun s i => s.modLane u i fun l => l.setPair d a) s

def execCall (f : BFmt) (s : State) : Host.Outcome State Fault Refusal :=
  let sl := slotB 0x042 f [6, 7]
  issue sl (fun s v => (s.writePairs v.w.uid v.act 6 v.thr.returnAddr).transfer v.iss (branchTarget v.thr.hdr f.off)) s

/-- R132: the target an indirect branch reads in a lane. -/
def indirect (l : Lane) (r : Nat) : Except Fail (BitVec 54) :=
  match l.pair r with
  | .error _ => .error failFmt7
  | .ok a =>
    if a.extractLsb' 0 2 != 0#2 then .error ⟨.align, some a, true⟩
    else if a.extractLsb' 54 10 != 0#10 then .error ⟨.prot, some a, true⟩
    else .ok (a.setWidth 54)

/-- RET, JMPR and BRL: `link` is the pair that takes the return address. -/
def indirectBody (f : RFmt) (link : Option Nat) (sl : Slot) (s : State) (v : View) : State :=
  let ts := v.act.filterMap fun i => (v.lane? i).map fun l => (i, indirect l ((pairReg f.a).getD 0))
  match ts.filterMap fun e => match e.2 with | .error x => some (e.1, x) | .ok _ => none with
  | e :: es => s.trapLanes v sl (e :: es)
  | [] =>
    match (ts.filterMap fun e => match e.2 with | .ok t => some t | .error _ => none).dedup with
    | [t] => (match link with | some d => s.writePairs v.w.uid v.act d v.thr.returnAddr | none => s).transfer v.iss t
    | _ => s.trapAll v sl failDivg

/-- The slot of an indirect branch. -/
def slotIndirect (op : Nat) (f : RFmt) : Slot :=
  slotR op f ((pairReg f.a).toList.map (· + 1) ++ (if op = 0x045 then [f.d.toNat + 1] else []))
    ((pairReg f.a).isNone || (op = 0x045 && f.d.toNat % 2 = 1))

def execRet (f : RFmt) (s : State) : Host.Outcome State Fault Refusal :=
  let sl := slotIndirect 0x043 f
  issue sl (indirectBody f none sl) s

def execJmpr (f : RFmt) (s : State) : Host.Outcome State Fault Refusal :=
  let sl := slotIndirect 0x044 f
  issue sl (indirectBody f none sl) s

/-- BRL; nw suppresses the write of the link pair, as it does that of a register (log 82). -/
def execBrl (f : RFmt) (s : State) : Host.Outcome State Fault Refusal :=
  let sl := slotIndirect 0x045 f
  issue sl (indirectBody f (if f.nw then none else some f.d.toNat) sl) s

/-! ## TRAP, BRK and ERET (R133, R142) -/

/-- R133: the point a handler returns to: the slot after the instruction, or the next header. -/
def Thread.after (t : Thread) (n : Nat) : BitVec 54 × Nat := if t.lastAfter n then (t.nextHdr, 0) else (t.hdr, t.slot + n)

def execTrap (f : RFmt) (s : State) : Host.Outcome State Fault Refusal :=
  let sl := slotR 0x046 f
  issue sl (fun s v =>
    withPops sl s v v.act (fun l => l.filterMap fun e => (v.lane? e.1).bind fun x =>
        match x.srcSome .i32 e.2.1 f.a with | .error y => some (e.1, y) | .ok _ => none) fun s' l =>
      let vals := l.map fun e => (e.1, match (v.lane? e.1) with | some x => x.srcSome .i32 e.2.1 f.a | none => .error failFmt)
      match vals.filterMap fun e => match e.2 with | .error y => some (e.1, y) | .ok _ => none with
      | e :: es => s.trapLanes v sl (e :: es)
      | [] =>
        let val := (vals.filterMap fun e => match e.2 with | .ok r => some r.bits | .error _ => none).headD 0#32
        let (h, k) := v.thr.after (1 + sl.nlits)
        s'.trap v { lanes := v.act, cause := .trapi, addr := 0#64, trapaddr := val, hdr := h, slot := k }) s

def execBrk (f : RFmt) (s : State) : Host.Outcome State Fault Refusal :=
  let sl := slotR 0x049 f
  issue sl (fun s v =>
    let (h, k) := v.thr.after 1
    s.trap v { lanes := v.act, cause := .brk, addr := 0#64, trapaddr := sl.word, hdr := h, slot := k }) s

/-- ERET outside a trap handler traps PRIV. -/
def execEret (f : RFmt) (s : State) : Host.Outcome State Fault Refusal :=
  let sl := slotR 0x047 f
  issue sl (fun s v => if v.inh then s.eret v else s.trapAll v sl ⟨.priv, none, false⟩) s

/-! ## Service calls (R134 to R136) -/

/-- The tag of g0 to g7 of a lane. -/
def svcTag (l : Lane) (r : Nat) : Bool := (l.reg r).tag = .addr

/-- Whether register g2k starts a whole pair. -/
def svcPair (l : Lane) (k : Nat) : Bool := svcTag l (2 * k) && svcTag l (2 * k + 1)

/-- R135 in a lane: the number and the notify index, or a failed check. -/
def svcSource (f : RFmt) (pa pb : Word) (l : Lane) : Except Fail (Word × Word) :=
  match l.srcAs .i32 pa f.a, l.srcAs .i32 pb f.b with
  | .ok a, .ok b =>
    if (List.range 4).any fun k => svcTag l (2 * k) != svcTag l (2 * k + 1) then .error failFmt7
    else .ok (a, b)
  | .error e, _ | _, .error e => .error e

/-- R135 step 2: a pair that points into the scratchpad aperture or the spill range. -/
def svcBad (l : Lane) : Bool :=
  (List.range 4).any fun k => svcPair l k && match l.pair (2 * k) with
    | .ok a => spillBase ≤ a.toNat && a.toNat < 2 ^ 54
    | .error _ => false

/-- R134: the record of a lane. -/
def svcPush (s : State) (w : Wave) (i : Nat) (l : Lane) (a b : Word) : Push :=
  let num := a.extractLsb' 0 16
  let idx := b.extractLsb' 0 8
  let pairs := (List.range 4).foldl (fun n k => n + if svcPair l k then 2 ^ (8 + k) else 0) 0
  { key := num.setWidth 48, cls := clsSvc, op := 0#4, prio := 0#2, car := false, stream := w.stream, target := idx.setWidth 24,
    words := (List.range 8).map (fun r => (l.reg r).bits) ++
      [num.setWidth 32, BitVec.ofNat 32 (idx.toNat + pairs), senderWord s w i,
       BitVec.ofNat 32 (l.waveid.toNat + min w.attempt 255 * 256)],
    ctx := w.ctx, ident := some (w.ident, w.seq), attempt := w.attempt, sender := senderWord s w i, origin := none, parent := none, counts := false,
    job := none, spawn := none }

/-- SVC of one lane: BADSPACE at once, or a record in flight. -/
def svcLane (f : RFmt) (v : View) (s : State) (e : Nat × Word × Word) : State :=
  match s.wave? v.w.uid with
  | none => s
  | some w =>
    match w.lanes[e.1]? with
    | none => s
    | some l =>
      match svcSource f e.2.1 e.2.2 l with
      | .error _ => s
      | .ok (a, b) =>
        if svcBad l then s.writeLanes w.uid [e.1] f.d.toNat f.nw f.hd Status.badspace.reg
        else
          let s1 := s.launchFlight { plainFlight 0 .hub (svcPush s w e.1 l a b) with
            src := some (v.iss, [e.1]), pipe := some (w.pipeOf e.1), d := some f.d.toNat, nw := f.nw, hd := f.hd, returns := .acceptance,
            svc := true } w.pipes
          s1.modWave w.uid fun w => { w with seq := w.seq + 1 }

def execSvc (f : RFmt) (s : State) : Host.Outcome State Fault Refusal :=
  let sl := slotR 0x048 f (List.range 8)
  issue sl (fun s v =>
    withPops sl s v v.act (fun l => l.filterMap fun e => (v.lane? e.1).bind fun x =>
        match svcSource f e.2.1 e.2.2 x with | .error y => some (e.1, y) | .ok _ => none) fun s' l =>
      match l.filterMap fun e => (v.lane? e.1).bind fun x =>
          match svcSource f e.2.1 e.2.2 x with | .error y => some (e.1, y) | .ok _ => none with
      | e :: es => s.trapLanes v sl (e :: es)
      | [] =>
        let s1 := l.foldl (svcLane f v) s'
        if s1.flights.any fun x => x.svc && x.src.any fun y => y.1 = v.iss then s1.park v.iss .svc sl
        else s1.advance v.iss (1 + sl.nlits)) s

/-! ## Waiting, yielding and retiring (R137 to R139) -/

/-- The ports of a WFM mask that hold a record available in every active lane, as R257 takes them. -/
def wfmMask (s : State) (v : View) (m : BitVec 8) : Word :=
  maskOf ((List.range 8).filter fun q => m.getLsbD q && (State.popRecs v.w (v.act.map fun i => (i, q)) s).isSome)

def execWfm (f : RFmt) (s : State) : Host.Outcome State Fault Refusal :=
  let sl := slotR 0x04A f
  issue sl.once (waveOp sl (fun pa _ l => l.srcAs .i32 pa f.a) fun s v a s0 =>
    let m := a.extractLsb' 0 8
    match v.act.filter fun i => (v.lane? i).any fun l => (List.range 8).any fun q => m.getLsbD q && !(l.port q).bound with
    | i :: is => s0.trapLanes v sl ((i :: is).map fun i => (i, failFld7))
    | [] =>
      if m == 0#8 || wfmMask s v m != 0#32 then s.finishWith v sl f (regI32 (wfmMask s v m))
      else s0.park v.iss (.wfm (v.act.map fun i => (i, m))) sl) s

/-- RETIRE waits in its own state for its drains; RETIRE_FINISH ends the wave (R138). -/
def execRetire (f : RFmt) (s : State) : Host.Outcome State Fault Refusal :=
  let sl := slotR 0x04B f
  issue sl (fun s v => s.park v.iss .retire sl) s

def execYield (f : RFmt) (s : State) : Host.Outcome State Fault Refusal :=
  let sl := slotR 0x04C f
  issue sl (fun s v => (s.modThr v.iss fun t => { t with willYield := true }).advance v.iss 1) s

/-! ## DMAP (02_encoding R64) -/

/-- Whether a context has a wave placed, ready or swapped, or an accepted launch record that has not retired (R64), in a keyring or among
what a failed part left to replay. A grid that stands for a refused record whose store of the status waits (`State.refuseHost`) is none. -/
def State.ctxBusy (s : State) (c : BitVec 12) : Bool :=
  let launch (r : Rec) : Bool := r.ctx == c && r.accepted && (r.cls == clsLaunch || r.cls == clsSpawn)
  s.waves.any (·.ctx == c) || s.teams.any (fun t => t.ctx == c && !t.gone) || s.saved.any (fun v => v.waves.any (·.ctx == c)) ||
  s.grids.any (fun g => g.ctx == c && g.record != g.uid) || s.keyrings.any (fun e => e.2.recs.any launch) ||
  s.scheds.any (fun e => e.2.ready.any (·.ctx == c)) ||
  s.replays.any fun r => (r.recs.any fun x => launch x.2) || r.entries.any (·.ctx == c)

/-- R64: the status of a DMAP and, where it is OK, the map installed. -/
def dmapStatus (s : State) (c : BitVec 12) (sel : Word) : Status :=
  match s.ctx? c with
  | none => .torn
  | some x =>
    if x.st = .teardown || x.st = .free then .torn
    else if sel.toNat > 2 || (sel.toNat = 1 && !s.map2) || (sel.toNat = 2 && !s.map1) || s.ctxBusy c then .refused
    else .ok

def dmapSource (f : RFmt) (pa pb : Word) (l : Lane) : Except Fail (Word × Word) :=
  match l.srcAs .i32 pa f.a, l.srcAs .i32 pb f.b with
  | .ok a, .ok b => .ok (a, b)
  | .error e, _ | _, .error e => .error e

/-- One lane's DMAP. -/
def dmapLane (f : RFmt) (v : View) (s : State) (e : Nat × Word × Word) : State :=
  match (v.lane? e.1).map (dmapSource f e.2.1 e.2.2) with
  | some (.ok (a, b)) =>
    let c := a.extractLsb' 0 12
    let st := dmapStatus s c b
    let s := if st = .ok then s.modCtx c fun x => { x with decode := b.toNat } else s
    s.writeLanes v.w.uid [e.1] f.d.toNat f.nw f.hd st.reg
  | _ => s

def execDmap (f : RFmt) (s : State) : Host.Outcome State Fault Refusal :=
  let sl := slotR 0x04D f (priv := true)
  issue sl (fun s v =>
    let fails (l : List (Nat × Word × Word)) : List (Nat × Fail) := l.filterMap fun e => (v.lane? e.1).bind fun x =>
      match dmapSource f e.2.1 e.2.2 x with | .error y => some (e.1, y) | .ok _ => none
    withPops sl s v v.act fails fun s' l =>
      match fails l with
      | e :: es => s.trapLanes v sl (e :: es)
      | [] => (l.foldl (dmapLane f v) s').advance v.iss (1 + sl.nlits)) s

end Sys2Proof.Machine
end

