-- ==== Sys2Proof/Machine/Group.lean ====
section
/-! DEFINITION. The fused group and the hinge (spec/06_group): FUSE and SPLIT, divergence and rejoin, cross-lane instructions, and
team barriers. -/

namespace Sys2Proof.Machine

/-! ## FUSE (R207 to R210) -/

/-- The base of the aligned set of width `n` around a pipeline. -/
def setBase (n p : Nat) : Nat := p / n * n

/-- Whether two aligned sets overlap. -/
def setsOverlap (n b m c : Nat) : Bool := b < c + m && c < b + n

/-- The pipelines of a team's rendezvous that its participants hold. -/
def State.covered (s : State) (parts : List Nat) : List Nat :=
  (parts.filterMap s.wave?).flatMap fun w => (List.range w.width).map (w.base + ·)

/-- The open rendezvous of a team that overlaps a set. -/
def State.rendezvousAt (s : State) (team n b : Nat) : Option Rendezvous :=
  match s.team? team with
  | none => none
  | some t => t.rendezvous.find? fun r => setsOverlap n b r.n r.base

def State.modRendezvous (s : State) (team : Nat) (f : List Rendezvous → List Rendezvous) : State :=
  s.modTeam team fun t => { t with rendezvous := f t.rendezvous }

/-- A parked participant's FUSE completes with a status: it continues at its next header (R207). -/
def State.fuseResume (s : State) (u : Nat) (st : Status) : State :=
  match s.view ⟨u, none⟩ with
  | none => s
  | some v =>
    match v.thr.wait with
    | .fuse _ _ d hd => (s.deliver v d hd st.reg).resumeAfter v.iss
    | _ => s

/-- Waves waiting behind a rendezvous that has closed arrive again (R208). -/
def State.wakeBehind (s : State) (team : Nat) : State :=
  { s with waves := s.waves.map fun w =>
      if w.team == team then
        match w.thr.wait with
        | .fuseBehind _ _ => { w with thr := { w.thr with st := .ready, wait := .nothing } }
        | _ => w
      else w }

/-- The next header of a wave parked in a FUSE, which is its clause's last instruction. -/
def Wave.fuseNext (w : Wave) : BitVec 54 := w.thr.nextHdr

/-- R209: a rendezvous whose participants hold every pipeline is checked: it drains, or every participant gets MISMATCH. -/
def State.completeRendezvous (s : State) (team : Nat) (r : Rendezvous) : State :=
  if (s.covered r.parts).length < r.n then s
  else
    let ws := r.parts.filterMap s.wave?
    if (ws.map Wave.fuseNext).dedup.length = 1 && (ws.map (·.xregs)).dedup.length = 1 then
      s.modRendezvous team fun l => l.map fun x => if x.base == r.base && x.n == r.n then { x with drain := true } else x
    else
      let s := s.modRendezvous team fun l => l.filter fun x => !(x.base == r.base && x.n == r.n)
      (r.parts.foldl (fun s u => s.fuseResume u .mismatch) s).wakeBehind team

/-- R208: a wave arrives at the rendezvous of its team and set. -/
def State.arriveFuse (s : State) (v : View) (sl : Slot) (f : RFmt) (n : Nat) (key : Word) (try_ : Bool) (s0 : State) : State :=
  let b := setBase n v.w.base
  let d := if f.nw then none else some f.d.toNat
  let join (r : Rendezvous) (s : State) : State :=
    let r := { r with parts := r.parts ++ [v.w.uid] }
    if try_ && (s.covered r.parts).length < n then s.finishWith v sl f Status.nopeer.reg
    else
      let s := s.park v.iss (.fuse n key d f.hd) sl
      let s := s.modRendezvous v.w.team fun l => (l.filter fun x => !(x.base == b && x.n == n)) ++ [r]
      s.completeRendezvous v.w.team r
  match s.rendezvousAt v.w.team n b with
  | none => join ⟨n, b, key, [], false⟩ s
  | some r =>
    if r.n ≠ n || r.key ≠ key then s.finishWith v sl f Status.mismatch.reg
    else if r.drain || (s.covered r.parts).any fun p => v.w.base ≤ p && p < v.w.base + v.w.width then
      if try_ then s.finishWith v sl f Status.nopeer.reg else s0.park v.iss (.fuseBehind n key) sl
    else join r s

/-- R207: some pipeline of the set holds no slot of a wave of the team. -/
def State.noPeer (s : State) (w : Wave) (n : Nat) : Bool :=
  let b := setBase n w.base
  w.gw || (List.range n).any fun k => !s.waves.any fun x =>
    x.team == w.team && x.die == w.die && x.clu == w.clu && !x.gw && x.base ≤ b + k && b + k < x.base + x.width

def fuseBody (n : Nat) (f : RFmt) (sl : Slot) (s : State) (v : View) (x : Word × Word) (s0 : State) : State :=
  let full := BitVec.ofNat 32 (2 ^ v.w.width - 1)
  if v.inh then s.finishWith v sl f Status.abort.reg
  else if v.w.detach then s.finishWith v sl f Status.refused.reg
  else if x.2.toNat > 1 then s0.trapAll v sl failFld7
  else if v.w.width ≥ n then s.finishWith v sl f Status.mismatch.reg
  else if v.w.width > 1 && (v.w.live ≠ full || v.w.dstk ≠ []) then s.finishWith v sl f Status.mismatch.reg
  else if s.noPeer v.w n then s.finishWith v sl f Status.nopeer.reg
  else s.arriveFuse v sl f n x.1 (x.2 == 1#32) s0

/-- The key and mode of a FUSE. -/
def twoI32 (f : RFmt) (pa pb : Word) (l : Lane) : Except Fail (Word × Word) :=
  match l.srcAs .i32 pa f.a, l.srcAs .i32 pb f.b with
  | .ok a, .ok b => .ok (a, b)
  | .error e, _ | _, .error e => .error e

def execFuseW8 (f : RFmt) (s : State) : Host.Outcome State Fault Refusal :=
  let sl := slotR 0x0C0 f
  issue sl.once (waveOp sl (twoI32 f) (fuseBody 8 f sl)) s

def execFuseW16 (f : RFmt) (s : State) : Host.Outcome State Fault Refusal :=
  let sl := slotR 0x0C1 f
  issue sl.once (waveOp sl (twoI32 f) (fuseBody 16 f sl)) s

def execFuseW32 (f : RFmt) (s : State) : Host.Outcome State Fault Refusal :=
  let sl := slotR 0x0C2 f
  issue sl.once (waveOp sl (twoI32 f) (fuseBody 32 f sl)) s

/-- A thread with nothing outstanding: its tokens are clear and its operations done. -/
def Thread.drained (t : Thread) : Bool := t.ops = [] && t.toks.toList.all (· == 0)

/-- R213: when the banking set of a pipeline changes, its slice writes back and is invalidated. The state `s0` is the one before
the change of waves. -/
def State.bankingSwitch (s0 s : State) (die clu : Nat) : State :=
  let changed := (List.range 32).filter fun p => s0.bankingSet ⟨die, false, clu, p⟩ ≠ s.bankingSet ⟨die, false, clu, p⟩
  if changed = [] then s
  else
    let ps := changed.map fun p => (⟨die, false, clu, p⟩ : PipeId)
    let s := s.flushSlices ps
    -- the switch holds its pipelines until BANKING_SWITCH_COMPLETE (R214)
    ps.foldl (fun s p => s.setPipe p { s.pipe p with switching := true }) s

/-- R214: a banking switch ends for the pipelines of its set. -/
def execBankingSwitchComplete (die clu base : Nat) (s : State) : Host.Outcome State Fault Refusal :=
  .next { s with pipes := s.pipes.map fun e =>
    if e.1.die == die && !e.1.gw && e.1.clu == clu && e.1.pipe / 8 * 8 == base / 8 * 8 then (e.1, { e.2 with switching := false }) else e }

/-- The youngest age in a cluster (R209 step 7). -/
def State.youngest (s : State) : Nat := ((s.waves ++ s.saved.flatMap (·.waves)).map (·.age)).foldl max 0 + 1

/-- What a thread keeps by lane, for the `n` lanes from `lo` that go on under the numbers from 0 (R211). -/
def Thread.relane (t : Thread) (lo n : Nat) : Thread :=
  let cut {α : Type} (l : List (Nat × α)) : List (Nat × α) := (l.filter fun e => lo ≤ e.1 && e.1 < lo + n).map fun e => (e.1 - lo, e.2)
  { t with
    replay := (t.replay >>> lo) &&& BitVec.ofNat 32 (2 ^ n - 1), replayVals := cut t.replayVals, dataErr := cut t.dataErr,
    owed := t.owed.map fun e => (e.1, cut e.2),
    wait := match t.wait with
      | .ports l => .ports (cut l)
      | .records l => .records (cut l)
      | .wfm l => .wfm (cut l)
      | w => w }

/-- R209 steps 2 to 7: the participants of a drained rendezvous become one wave. A read error that one of them met is taken by the group
(R227). -/
def State.formGroup (s : State) (t : Team) (r : Rendezvous) : State :=
  let ws := r.parts.filterMap s.wave?
  let lanes := (List.range r.n).filterMap fun k => (ws.find? fun w => w.base ≤ r.base + k && r.base + k < w.base + w.width).bind
    fun w => w.lanes[r.base + k - w.base]?.map fun l => (w, l)
  match lanes with
  | [] => s
  | (w0, _) :: _ =>
    let ps := (List.range r.n).map fun k => (⟨t.die, false, t.clu, r.base + k⟩ : PipeId)
    let s1 := s.l1Acquire ps
    let lane (wl : Wave × Lane) : Lane :=
      let l := wl.2.clearLatches
      match wl.1.thr.wait with
      | .fuse _ _ d hd => l.write (d.getD 0) d.isNone hd Status.ok.reg |>.clearLatches
      | _ => l
    let full := BitVec.ofNat 32 (2 ^ r.n - 1)
    let g : Wave := { w0 with
      base := r.base, lanes := lanes.map lane,
      thr := { Thread.start w0.fuseNext w0.thr.wins with
        orgHdr := w0.thr.hdr, orgSlot := w0.thr.slot, yielding := w0.thr.yielding,
        dataErr := ws.flatMap fun w => w.thr.dataErr.map fun e => (w.base - r.base + e.1, e.2) },
      live := full, memb := full, dstk := [], detach := false, age := s.youngest, passed := 0, resv := false }
    let s2 := { s1 with waves := s1.waves.filterMap fun (w : Wave) =>
      if w.uid == w0.uid then some g else if r.parts.contains w.uid then none else some w }
    let s3 := s2.modRendezvous t.uid fun l => l.filter fun x => !(x.base == r.base && x.n == r.n)
    ((s1.bankingSwitch s3 t.die t.clu).wakeBehind t.uid).settleTeam t.uid

/-- GROUP_FORM: a rendezvous that is complete forms its group once every participant has drained (R209 step 1). -/
def execGroupForm (team base : Nat) (s : State) : Host.Outcome State Fault Refusal :=
  match s.team? team with
  | none => .next s
  | some t =>
    match t.rendezvous.find? fun r => r.base == base && r.drain with
    | none => .next s
    | some r => if (r.parts.filterMap s.wave?).all fun w => w.thr.drained then .next (s.formGroup t r) else .next s

/-! ## SPLIT (R211) -/

/-- R211: whether the group state admits a split to a width. -/
def splitOk (v : View) (w : Nat) : Bool :=
  let full := BitVec.ofNat 32 (2 ^ v.w.width - 1)
  if v.w.detach then w == 1
  else if w == 1 then true
  else (w == 8 || w == 16) && w < v.w.width && v.w.live == full && v.w.memb == full && v.w.dstk == []

/-- SPLIT waits in its own state for its drains; SPLIT_FINISH makes the new waves. -/
def execSplit (f : RFmt) (s : State) : Host.Outcome State Fault Refusal :=
  let sl := slotR 0x0C3 f
  issue sl.once (waveOp sl (fun pa _ l => l.srcAs .i32 pa f.a) fun s v a s0 =>
    if splitOk v a.toNat then s.park v.iss (.split a.toNat) sl else s0.trapAll v sl failFld7) s

/-- A thread of a wave made by SPLIT at a header, with a copy of the windows, and the read errors of its lanes (R227). -/
def Thread.splitOff (t : Thread) (hdr : BitVec 54) (slot : Nat) : Thread :=
  { Thread.start hdr t.wins with orgHdr := t.hdr, orgSlot := t.slot, slot := slot, count := t.count, allow := t.allow,
                                  yieldBit := t.yieldBit, redecode := slot != 0, dataErr := t.dataErr }

/-- A free private stream number for a new wave of a context on a die (log 9): one that none of the context's waves and undispatched
records has, or at least no undispatched record, no swapped-out wave and none of its waves on the die (07_keyring R239). -/
def State.newStream (s : State) (c : BitVec 12) (die : Nat) : State × BitVec 15 :=
  let streams (l : List Wave) : List (BitVec 15) := (l.filter (·.ctx == c)).map (·.stream)
  let pushed := (s.keyrings.flatMap fun e => (e.2.recs.filter fun r => !r.dispatched && r.ctx == c).map (·.stream)) ++
    (s.replays.flatMap fun r => (r.recs.filter fun x => !x.2.dispatched && x.2.ctx == c).map fun x => x.2.stream) ++
    (s.flights.filter (·.push.ctx == c)).map (·.push.stream)
  let out := streams (s.saved.flatMap (·.waves)) ++ pushed
  let used := streams s.waves ++ out
  let near := streams (s.waves.filter (·.die == die)) ++ out
  let start := (Config.freeStream s.freeCtr).toNat
  let free (l : List (BitVec 15)) : Option Nat :=
    (List.range (2 ^ 14)).find? fun k => !l.contains (BitVec.ofNat 15 (0x4000 + (start + k) % 2 ^ 14))
  let pick := ((free used).orElse fun _ => free near).getD 0
  ({ s with freeCtr := s.freeCtr + 1 }, BitVec.ofNat 15 (0x4000 + (start + pick) % 2 ^ 14))

/-- The identity of a wave that SPLIT makes at a base: one that a later attempt of the same program takes again (log 26). -/
def Wave.splitIdent (w : Wave) (b : Nat) : Ident := { w.ident with wave := ((w.ident.wave * 2 ^ 20 + w.seq) * 32 + (b - w.base)) + 32 }

/-- A party goes on under another name: what is outstanding for it, and the records that speak of it, follow. -/
def State.renameIssuer (s : State) (a b : Issuer) : State :=
  let re (i : Issuer) : Issuer := if i = a then b else i
  let lane (l : List Nat) : List Nat := if b.lane.isNone && a.lane.isSome then l.map fun _ => 0 else l
  { s with
    pipes := s.pipes.map fun e => (e.1, { e.2 with blocked := e.2.blocked.map re })
    flights := s.flights.map fun f =>
      { f with src := f.src.map (fun x => if x.1 = a then (b, lane x.2) else x), push := { f.push with about := f.push.about.map re } }
    keyrings := s.keyrings.map fun e => (e.1, { e.2 with recs := e.2.recs.map fun r => { r with about := r.about.map re } })
    handles := s.handles.map fun h => { h with record := { h.record with about := h.record.about.map re } } }

/-- Adds the waves a SPLIT makes, each with its lanes, base and thread. The first keeps the old wave's name, and its stream where it holds
the lane-0 slot; every other takes new ones (07_keyring R239). -/
def State.addSplit (w : Wave) : List (Nat × List Lane × Thread) → Bool → State → State
  | [], _, s => s
  | (b, ls, t) :: rest, first, s =>
    let n := ls.length
    let full := BitVec.ofNat 32 (2 ^ n - 1)
    let g : Wave := { w with base := b, lanes := ls.map fun l => { l.clearLatches with own := none, priv := [] }, thr := t, live := full,
                             memb := full, dstk := [], detach := false, jmask := 0#32, passed := 0, resv := false }
    let (s, st) : State × BitVec 15 := if b = w.base then (s, w.stream) else s.newStream w.ctx w.die
    if first then
      State.addSplit w rest false ({ s with waves := s.waves ++ [{ g with stream := st }] }.renameIssuer ⟨w.uid, some (b - w.base)⟩ ⟨w.uid, none⟩)
    else
      let (s, u) := s.fresh
      State.addSplit w rest false
        ({ s with waves := s.waves ++ [{ g with uid := u, stream := st, seq := 0, ident := w.splitIdent b }] }.renameIssuer
          ⟨w.uid, some (b - w.base)⟩ ⟨u, none⟩)

/-- R211: the waves a SPLIT to width `w` makes of a wave: base, lanes and thread of each. -/
def splitParts (v : View) (w : Nat) : List (Nat × List Lane × Thread) :=
  let x := v.w
  if !x.detach && w ≠ 1 then
    (List.range (x.width / w)).map fun k => (x.base + k * w, (x.lanes.drop (k * w)).take w, (x.thr.splitOff x.thr.nextHdr 0).relane (k * w) w)
  else
    (List.range x.width).filterMap fun i =>
      match x.lanes[i]? with
      | none => none
      | some l =>
        if !x.memb.getLsbD i then none
        else
          let t : Thread :=
            if x.detach then
              match l.own with
              | none => x.thr.splitOff x.thr.nextHdr 0
              | some o =>
                if v.lane = some i then o.splitOff o.nextHdr 0
                else if o.wait = .jpoint then { o with st := .ready, wait := .nothing, redecode := o.slot != 0 }
                else o
            else if x.live.getLsbD i then x.thr.splitOff x.thr.nextHdr 0
            else match topmost x.dstk i with
              | some (_, h) => x.thr.splitOff h 0
              | none => x.thr.splitOff x.thr.nextHdr 0
          some (x.base + i, [l], t.relane i 1)

/-- SPLIT_FINISH: once the wave has drained, an acquire-release at CLU, and the new waves. -/
def execSplitFinish (i : Issuer) (s : State) : Host.Outcome State Fault Refusal :=
  match s.view i with
  | none => .next s
  | some v =>
    match v.thr.wait with
    | .split w =>
      let drained := v.w.thr.drained && v.w.lanes.all fun l => l.own.all Thread.drained
      if !drained then .next s
      else
        let s1 := s.l1Acquire v.w.pipes
        let s2 := State.addSplit v.w (splitParts v w) true { s1 with waves := s1.waves.filter fun x => x.uid != v.w.uid }
        .next ((s1.bankingSwitch s2 v.w.die v.w.clu).settleTeam v.w.team)
    | _ => .next s

/-! ## Divergence (R218 to R221, R223) -/

/-- R218: the stack limit of an attached wave. -/
def Wave.stackLimit (w : Wave) : Nat :=
  match w.lanes with
  | [] => 16
  | l :: _ => let d := (l.divthr.extractLsb' 0 4).toNat; if d = 0 then 16 else d

/-- R223: an attached wave splits into detached lanes at a push beyond its limit. `point` gives the next point of an active lane
and `push` the entry a WPT adds to its private stack. A lane that falls through into a new clause reports its fetch there, any other at
the splitting instruction (R41). -/
def Wave.implicitSplit (w : Wave) (point : Nat → BitVec 54 × Nat) (push : Nat → List DEntry) : Wave :=
  let j := w.joinPoint w.thr.hdr w.thr.slot
  let here := (w.thr.hdr, w.thr.slot)
  let go (i : Nat) (p : BitVec 54 × Nat) : Thread :=
    if p.2 != 0 then w.thr.forLane i p.1 p.2 j
    else w.thr.leaveLane i p.1 j (if p.1 == w.thr.nextHdr then (p.1, 0) else here)
  let lane (i : Nat) (l : Lane) : Lane :=
    if !w.memb.getLsbD i then l
    else if w.live.getLsbD i then
      let l1 := if (point i).2 = 0 then l.clearLatches else l
      { l1 with own := some (go i (point i)), priv := privateStack w.dstk i 0 ++ push i }
    else
      let (o, p) := w.inactiveLane i j fun h => w.thr.leaveLane i h j here
      { l with own := some o, priv := p }
  { w with lanes := w.lanes.mapIdx lane, thr := w.thr.shell, dstk := [], detach := true, jpoint := j.1, jslot := j.2, jmask := w.memb }

/-- An implicit split is an acquire-release at CLU (R223 step 6). -/
def State.splitDeep (s : State) (v : View) (point : Nat → BitVec 54 × Nat) (push : Nat → List DEntry) : State :=
  (s.l1Acquire v.w.pipes).modWave v.w.uid fun w => w.implicitSplit point push

/-- WPT (R219). -/
def wptBody (f : BFmt) (sl : Slot) (s : State) (v : View) : State :=
  let h := branchTarget v.thr.hdr f.off
  match v.lane with
  | some i =>
    if ((v.lane? i).map fun l => l.priv.length).getD 0 ≥ 16 then s.trapAll v sl failFld7
    else (s.modLane v.w.uid i fun l => { l with priv := l.priv ++ [.wp h (1#32 <<< i)] }).advance v.iss 1
  | none =>
    if v.w.dstk.length ≥ v.w.stackLimit then
      let (nh, ns) := v.thr.after 1
      s.splitDeep v (fun _ => (nh, ns)) fun i => [.wp h (1#32 <<< i)]
    else (s.modWave v.w.uid fun w => { w with dstk := w.dstk ++ [.wp h w.live] }).advance v.iss 1

def execWpt (f : BFmt) (s : State) : Host.Outcome State Fault Refusal :=
  let sl := slotB 0x0C4 f
  issue sl (wptBody f sl) s

def DEntry.isWp : DEntry → Bool
  | .wp _ _ => true
  | .pend _ _ => false

/-- BRD (R220). -/
def brdBody (f : BFmt) (sl : Slot) (s : State) (v : View) : State :=
  let lanes := v.act.filterMap fun i => (v.lane? i).map fun l => (i, l.reg f.c.toNat)
  let h := branchTarget v.thr.hdr f.off
  match lanes.filter fun e => e.2.tag = .none with
  | e :: es => s.trapLanes v sl ((e :: es).map fun x => (x.1, failFmt))
  | [] =>
    let taken := (lanes.filter fun e => condHolds f.cond e.2.bits).map (·.1)
    if taken.length = lanes.length then s.transfer v.iss h
    else if taken = [] then s.advance v.iss 1
    else if !v.w.dstk.any DEntry.isWp then s.trapAll v sl failDivg
    else if v.w.dstk.length ≥ v.w.stackLimit then
      s.splitDeep v (fun i => if taken.contains i then (h, 0) else (v.thr.nextHdr, 0)) fun _ => []
    else
      (s.modWave v.w.uid fun w => { w with dstk := w.dstk ++ [.pend h (maskOf taken)], live := w.live &&& ~~~(maskOf taken) }).advance v.iss 1

def execBrd (f : BFmt) (s : State) : Host.Outcome State Fault Refusal :=
  let sl := slotB 0x0C5 f
  issue sl (brdBody f sl) s

/-- JOIN (R221). -/
def joinBody (sl : Slot) (s : State) (v : View) : State :=
  match v.lane with
  | some i =>
    match ((v.lane? i).map (·.priv)).getD ([] : List DEntry) with
    | [] => if v.w.jslot = 0 then s.transfer v.iss v.w.jpoint
      else
        -- JPOINT is a slot of a clause: the lane parks there
        ((s.modThr v.iss fun t => { t.leave v.w.jpoint t.hdr t.slot with slot := v.w.jslot, redecode := true }).emptyLatches v.iss).parkAtJoin v.iss
    | e :: l =>
      let p := e :: l
      match p.getLast? with
      | some (.wp h _) | some (.pend h _) =>
        (s.modLane v.w.uid i fun l => { l with priv := p.dropLast }).transfer v.iss h
      | none => s
  | none =>
    match v.w.dstk.getLast? with
    | none => s.trapAll v sl failFld7
    | some (.wp h m) | some (.pend h m) =>
      (s.modWave v.w.uid fun w => { w with dstk := w.dstk.dropLast, live := m }).transfer v.iss h

def execJoin (f : RFmt) (s : State) : Host.Outcome State Fault Refusal :=
  let sl := slotR 0x0C6 f
  issue sl (joinBody sl) s

/-- GROUP_REJOIN (R225): every lane of JMASK is parked at JPOINT with its tokens clear. -/
def execGroupRejoin (u : Nat) (s : State) : Host.Outcome State Fault Refusal :=
  match s.wave? u with
  | none => .next s
  | some w =>
    let js := lanesOf w.jmask w.width
    let there := js.all fun i => (w.lanes[i]?).any fun l => l.own.any fun t => t.wait = .jpoint && t.drained
    match js.filterMap fun i => (w.lanes[i]?).bind (·.own) with
    | [] => .next s
    | t :: ts =>
      if !w.detach || !there || w.thr.st = .suspended then .next s
      else
        let thr : Thread := { Thread.start w.jpoint t.wins with slot := w.jslot, count := t.count, allow := t.allow, yieldBit := t.yieldBit,
                                                                redecode := w.jslot != 0,
                                                                -- a YIELD of the clause that JPOINT is in, and the lanes' read errors (R227)
                                                                willYield := w.jslot != 0 && (t :: ts).any (·.willYield),
                                                                dataErr := (t :: ts).flatMap (·.dataErr) }
        .next ((s.l1Acquire w.pipes).modWave u fun w =>
          { w with detach := false, live := w.memb, dstk := [], thr := thr,
                   lanes := w.lanes.map fun l => { l.clearLatches with own := none, priv := [] } })

/-! ## Cross-lane instructions (R230 to R234) -/

/-- A lane's value of source a with its tag. -/
def crossSource (f : RFmt) (pa : Word) (l : Lane) : Except Fail Reg := l.src ((l.srcTag f.a).getD .i32) pa f.a

/-- R230: the active lanes' values of a, checked for one admitted tag: where the tags differ, the lanes trap whose tag is not the lowest
lane's. `k` gives the results from the values. -/
def crossOp (sl : Slot) (f : RFmt) (adm : Tag → Bool) (k : State → View → List (Nat × Reg) → State) (s : State)
    (v : View) : State :=
  let read (w : Wave) (l : List (Nat × Word × Word)) := l.filterMap fun e => (w.lanes[e.1]?).map fun x => (e.1, crossSource f e.2.1 x)
  let fails (w : Wave) (l : List (Nat × Word × Word)) : List (Nat × Fail) :=
    let rs := read w l
    match rs.filterMap fun e => match e.2 with | .error x => some (e.1, x) | .ok _ => none with
    | e :: es => e :: es
    | [] =>
      let ts := rs.filterMap fun e => match e.2 with | .ok r => some (e.1, r.tag) | .error _ => none
      match ts.filter fun e => e.2 ≠ (ts.map (·.2)).headD .none with
      | e :: es => (e :: es).map fun e => (e.1, failFmt)
      | [] => (ts.filter fun e => !adm e.2).map fun e => (e.1, failFmt)
  withPops sl s v v.act (fails v.w) fun s' l =>
    match s'.wave? v.w.uid with
    | none => s'
    | some w =>
      match fails w l with
      | e :: es => s.trapLanes v sl (e :: es)
      | [] => k s' v ((read w l).filterMap fun e => match e.2 with | .ok r => some (e.1, r) | .error _ => none)

/-- Lane masks and all-or-nothing results as I32 (R232). -/
def voteOp (op : Nat) (f : RFmt) (g : View → List (Nat × Reg) → Word) (s : State) : Host.Outcome State Fault Refusal :=
  let sl := slotR op f
  issue sl (crossOp sl f (fun t => t ≠ .none) fun s v l => s.finishWith v sl f (regI32 (g v l))) s

def execBallot (f : RFmt) (s : State) : Host.Outcome State Fault Refusal :=
  voteOp 0x0C7 f (fun _ l => maskOf ((l.filter fun e => e.2.bits != 0#32).map (·.1))) s
def execVany (f : RFmt) (s : State) : Host.Outcome State Fault Refusal :=
  voteOp 0x0C8 f (fun _ l => if l.any fun e => e.2.bits != 0#32 then BitVec.allOnes 32 else 0#32) s
def execVall (f : RFmt) (s : State) : Host.Outcome State Fault Refusal :=
  voteOp 0x0C9 f (fun _ l => if l.all fun e => e.2.bits != 0#32 then BitVec.allOnes 32 else 0#32) s

/-- R233: a shuffle; `src` gives the source lane of lane i at distance b in a wave of W lanes. A lane that receives its own a is its own
source lane, whose a must not be NONE (log 79); the lanes' tags need not agree (log 94). -/
def shuffleOp (op : Nat) (f : RFmt) (src : Nat → Nat → Nat → Int) (s : State) : Host.Outcome State Fault Refusal :=
  let sl := slotR op f
  issue sl (fun s v =>
    let read (w : Wave) (l : List (Nat × Word × Word)) := l.filterMap fun e => (w.lanes[e.1]?).map fun x =>
      (e.1, x.src ((x.srcTag f.a).getD .i32) e.2.1 f.a, x.srcAs .i32 e.2.2 f.b)
    let srcLane (i : Nat) (b : Word) : Nat :=
      let k := src i b.toNat v.w.width
      if 0 ≤ k && v.act.contains k.toNat then k.toNat else i
    let fails (w : Wave) (l : List (Nat × Word × Word)) : List (Nat × Fail) :=
      let rs := read w l
      rs.filterMap fun e => match e.2.1, e.2.2 with
        | .error x, _ | _, .error x => some (e.1, x)
        | .ok r, .ok _ =>
          -- a source lane whose a is NONE traps; which lane it is hangs on the elements popped for b
          if r.tag = .none && rs.any fun g => match g.2.2 with | .ok b => srcLane g.1 b == e.1 | .error _ => false
          then some (e.1, failFmt7) else none
    withPops sl s v v.act (fails v.w) fun s' l =>
      match s'.wave? v.w.uid with
      | none => s'
      | some w =>
        match fails w l with
        | e :: es => s.trapLanes v sl (e :: es)
        | [] =>
          let rs := (read w l).filterMap fun e => match e.2.1, e.2.2 with | .ok r, .ok b => some (e.1, r, b) | _, _ => none
          let val (i : Nat) (r : Reg) (b : Word) : Reg := ((rs.find? fun e => e.1 == srcLane i b).map fun e => e.2.1).getD r
          (rs.foldl (fun s e => s.writeLanes v.w.uid [e.1] f.d.toNat f.nw f.hd (val e.1 e.2.1 e.2.2)) s').advance v.iss (1 + sl.nlits)) s

def execShflIdx (f : RFmt) (s : State) : Host.Outcome State Fault Refusal := shuffleOp 0x0CA f (fun _ b w => (b % w : Nat)) s
def execShflUp (f : RFmt) (s : State) : Host.Outcome State Fault Refusal := shuffleOp 0x0CB f (fun i b _ => (i : Int) - b) s
def execShflDn (f : RFmt) (s : State) : Host.Outcome State Fault Refusal := shuffleOp 0x0CC f (fun i b _ => (i : Int) + b) s
def execShflXor (f : RFmt) (s : State) : Host.Outcome State Fault Refusal := shuffleOp 0x0CD f (fun i b _ => (i ^^^ b : Nat)) s

/-- R234: the sum of one element over lanes, rounded once. -/
def sumElem (e : NumEnv) (t : Tag) (l : List Nat) : Nat × Flags :=
  if t.cls = .flt then fltResult e t (exactSum e.md (l.map (fltVal e t)))
  else (wrap t.width ((l.map (toSigned t.width)).sum), 0#6)

/-- R234: the minimum or maximum of one element over lanes. -/
def extremeElem (mx : Bool) (e : NumEnv) (t : Tag) (l : List Nat) : Nat × Flags :=
  match l with
  | [] => (0, 0#6)
  | x :: xs =>
    if t.cls = .flt && (x :: xs).any fun y => fltVal e t y = .nan then fltResult e t .nan
    else xs.foldl (fun a y => minmaxElem mx e t [a.1, y]) (minmaxElem mx e t [x, x])

/-- A reduction of the elements at one position over lanes. -/
abbrev LaneFold := NumEnv → Tag → List Nat → Nat × Flags

/-- The reduction of words of a tag, element by element. -/
def foldLanes (g : LaneFold) (e : NumEnv) (t : Tag) (ws : List Word) : Word × Flags :=
  let r := pack t.width ((List.range t.elems).map fun i => g e t (ws.map fun w => elem t w i))
  (BitVec.ofNat 32 r.1, r.2)

/-- RDX: the same result in every active lane, under the lowest active lane's FRM and FTZ. -/
def rdxOp (op : Nat) (f : RFmt) (adm : Tag → Bool) (g : LaneFold) (s : State) : Host.Outcome State Fault Refusal :=
  let sl := slotR op f
  issue sl (crossOp sl f adm fun s v l =>
    match l, v.lane? v.low with
    | (_, r) :: _, some low =>
      let (x, fl) := foldLanes g low.env r.tag (l.map fun e => e.2.bits)
      (v.act.foldl (fun s i => s.modLane v.w.uid i fun y => (y.write f.d.toNat f.nw f.hd ⟨x, r.tag⟩).raise fl) s).advance v.iss (1 + sl.nlits)
    | _, _ => s) s

def execRdxAdd (f : RFmt) (s : State) : Host.Outcome State Fault Refusal := rdxOp 0x0CE f admitIF sumElem s
def execRdxMin (f : RFmt) (s : State) : Host.Outcome State Fault Refusal :=
  rdxOp 0x0CF f (fun t => admitIF t || t == .scale) (extremeElem false) s
def execRdxMax (f : RFmt) (s : State) : Host.Outcome State Fault Refusal :=
  rdxOp 0x0D0 f (fun t => admitIF t || t == .scale) (extremeElem true) s

/-- SCAN.ADD: each lane's prefix sum under its own FRM and FTZ. -/
def execScanAdd (f : RFmt) (s : State) : Host.Outcome State Fault Refusal :=
  let sl := slotR 0x0D1 f
  issue sl (crossOp sl f admitIF fun s v l =>
    (l.foldl (fun s e => s.modLane v.w.uid e.1 fun y =>
      let (x, fl) := foldLanes sumElem y.env e.2.tag ((l.filter fun g => g.1 ≤ e.1).map fun g => g.2.bits)
      (y.write f.d.toNat f.nw f.hd ⟨x, e.2.tag⟩).raise fl) s).advance v.iss (1 + sl.nlits)) s

def execLaneid (f : RFmt) (s : State) : Host.Outcome State Fault Refusal :=
  rOp 0x0D2 f (fun i _ _ l => .ok (l.write f.d.toNat f.nw f.hd (regI32 (BitVec.ofNat 32 i)))) s

/-- R231: MASKRD's value. -/
def maskrdValue (v : View) (l : Lane) (k : Nat) : Word :=
  match k with
  | 0 => v.liveMask
  | 1 => v.w.memb
  | 2 => BitVec.ofNat 32 (if v.lane.isSome then l.priv.length else v.w.dstk.length)
  | _ => if v.w.detach then v.w.jmask else 0#32

def execMaskrd (f : RFmt) (s : State) : Host.Outcome State Fault Refusal :=
  let sl := slotR 0x0D3 f
  issue sl (fun s v => laneOp sl (fun _ pa _ l =>
    match l.srcAs .i32 pa f.a with
    | .error e => .error e
    | .ok a => if a.toNat < 4 then .ok (l.write f.d.toNat f.nw f.hd (regI32 (maskrdValue v l a.toNat))) else .error failFld7) s v) s

/-! ## Barriers (R235, R236) -/

/-- A wave that may not arrive: in a handler ABORT, a detached lane REFUSED, a count above 32 TOOBIG; a negative count is read as an
unsigned one above 32 (log 80). -/
def barRefusal (v : View) (b : Word) : Option Status :=
  if v.inh then some .abort else if v.lane.isSome then some .refused else if b.toNat > 32 then some .toobig else none

/-- R235: one arrival at a barrier, releasing at CLU; MISMATCH where the phase expects another count. -/
def State.arriveBar (s : State) (v : View) (b : Nat) (n : Nat) : Option State :=
  match s.team? v.w.team with
  | none => none
  | some t =>
    let x := t.barriers[b]?.getD Barrier.reset
    if x.expected.any (· != n) then none
    else some ((s.l1Release v.w.pipes).modTeam v.w.team fun t =>
      { t with barriers := t.barriers.setIfInBounds b { x with arrived := x.arrived + 1, expected := some n } })

def State.barrier (s : State) (v : View) (b : Nat) : Barrier :=
  ((s.team? v.w.team).bind fun t => t.barriers[b]?).getD Barrier.reset

def barBody (f : RFmt) (sl : Slot) (s : State) (v : View) (x : Word × Word) (s0 : State) : State :=
  if x.1.toNat > 15 then s0.trapAll v sl failFld7
  else match barRefusal v x.2 with
    | some st => s.finishWith v sl f st.reg
    | none =>
      match s.arriveBar v x.1.toNat x.2.toNat with
      | none => s.finishWith v sl f Status.mismatch.reg
      | some s => ((s.park v.iss (.bar x.1.toNat (if f.nw then none else some f.d.toNat) f.hd) sl).settleBarrier v.w.team x.1.toNat).keepOwning v.iss

def execBar (f : RFmt) (s : State) : Host.Outcome State Fault Refusal :=
  let sl := slotR 0x0D4 f
  issue sl.once (waveOp sl (twoI32 f) (barBody f sl)) s

/-- BAR.ARR writes the phase it arrived in, or 0x8000_0000 with the status. -/
def barArrBody (f : RFmt) (sl : Slot) (s : State) (v : View) (x : Word × Word) (s0 : State) : State :=
  let no (st : Status) := s.finishWith v sl f (regI32 (0x80000000#32 ||| st.word))
  if x.1.toNat > 15 then s0.trapAll v sl failFld7
  else match barRefusal v x.2 with
    | some st => no st
    | none =>
      let ph := (s.barrier v x.1.toNat).phase
      match s.arriveBar v x.1.toNat x.2.toNat with
      | none => no .mismatch
      | some s => (s.settleBarrier v.w.team x.1.toNat).finishWith v sl f (regI32 (ph.setWidth 32))

def execBarArr (f : RFmt) (s : State) : Host.Outcome State Fault Refusal :=
  let sl := slotR 0x0D5 f
  issue sl.once (waveOp sl (twoI32 f) (barArrBody f sl)) s

/-- R236: whether a phase number has passed. -/
def phasePassed (ph p : BitVec 31) : Bool := let k := (ph - p).toNat; 1 ≤ k && k ≤ 2 ^ 30

/-- BAR.WT parks until the phase has passed, then acquires at CLU. -/
def barWtBody (f : RFmt) (sl : Slot) (s : State) (v : View) (x : Word × Word) (s0 : State) : State :=
  if x.1.toNat > 15 || x.2.msb then s0.trapAll v sl failFld7
  else match barRefusal v 0#32 with
    | some st => s.finishWith v sl f st.reg
    | none =>
      if phasePassed (s.barrier v x.1.toNat).phase (x.2.setWidth 31) then (s.l1Acquire v.w.pipes).finishWith v sl f Status.ok.reg
      else s0.park v.iss (.barWt x.1.toNat x.2.toNat) sl

def execBarWt (f : RFmt) (s : State) : Host.Outcome State Fault Refusal :=
  let sl := slotR 0x0D6 f
  issue sl.once (waveOp sl (twoI32 f) (barWtBody f sl)) s

end Sys2Proof.Machine
end

