-- ==== Sys2Proof/Machine/MemInstr.lean ====
section
/-! DEFINITION. The memory instructions (spec/05_memory R189 to R200): windows, the checks of each lane in their order, page
faults (R164), and loads, stores, atomics, fences, windows and cache maintenance. -/

namespace Sys2Proof.Machine

/-! ## Offsets and targets (02_encoding R56, R153) -/

/-- The source of an offset: field a, or the source of its offset word. -/
def offsetSrc (f : MFmt) : Src :=
  match f.a with
  | .lit (some w) => decodeSrc (w.extractLsb' 25 7) none
  | x => x

/-- The displacement of an offset word, or 0. -/
def offsetDisp (f : MFmt) : Word :=
  match f.a with
  | .lit (some w) => (w.extractLsb' 0 25).signExtend 32
  | _ => 0#32

/-- R56: an offset word's source field accepts registers, latches and inline integers. -/
def offsetBad (f : MFmt) : Bool :=
  match f.a with
  | .lit (some w) => let v := (w.extractLsb' 25 7).toNat; !(v < 67 || 96 ≤ v)
  | _ => false

/-- R56: the offset of a lane; synchronising accesses do not scale it. -/
def offsetOf (f : MFmt) (sync : Bool) (l : Lane) (p : Word) : Except Fail Word :=
  (l.srcAs .i32 p (offsetSrc f)).map fun (x : Word) => (if sync then x else x <<< f.sc.toNat) + offsetDisp f

/-- The slot of a memory instruction with an offset. -/
def slotM (op : Nat) (f : MFmt) (regs : List Nat) (bad : Bool) : Slot :=
  { op := op, word := encodeM op f, nlits := srcNlits f.a, litOk := srcLitOk f.a, srcs := [offsetSrc f],
    regs := regs ++ srcRegs (offsetSrc f), bad := bad || offsetBad f, priv := false, tk := some f.tk }

/-- The slot of a memory instruction without an offset. -/
def slotM0 (op : Nat) (f : MFmt) (srcs : List Src) (regs : List Nat) (bad : Bool) : Slot :=
  { op := op, word := encodeM op f, nlits := (srcs.map srcNlits).sum, litOk := srcs.all srcLitOk, srcs := srcs,
    regs := regs ++ srcs.flatMap srcRegs, bad := bad, priv := false, tk := some f.tk }

/-- A part of an access that lies in one page. -/
structure Piece where
  pa : Nat
  len : Nat
  attr : BitVec 17
  deriving DecidableEq, Repr

/-- Where a lane's access goes. -/
inductive Target where
  | scratch (off : Nat)
  | pages (l : List Piece)
  deriving DecidableEq, Repr

/-- What the checks of R189 give a lane. -/
inductive Resolved where
  | ok (t : Target) (addr : BitVec 54)
  | trap (f : Fail)
  /-- An invalid or malformed entry at an address (R164). -/
  | fault (addr : BitVec 54) (malformed : Bool)
  /-- The access stalls at a frozen page or one that is being expanded (R160, R166). -/
  | wait (addr : BitVec 54) (l : List Piece)
  deriving DecidableEq, Repr

/-- Thread of an issuer in the current state. -/
def State.thrOf (s : State) (v : View) : Thread := ((s.view v.iss).map (·.thr)).getD v.thr

/-- R156, R157: the bytes from an address to the end of its CONT group, at most 2^31 - 1. -/
def contRun (level : Nat) (pte : DWord) (va : Nat) : Nat :=
  let g := pageSize level * 2 ^ (pte.extractLsb' 57 5).toNat
  min ((va / g + 1) * g - va) (2 ^ 31 - 1)

/-- A failed check at step 7 of R62 with its address. -/
def failAt (c : Cause) (a : BitVec 64) : Fail := ⟨c, some a, true⟩

/-- R30: whether a store of a wave lies inside its launch's write region. -/
def State.inRegion (s : State) (w : Wave) (va n : Nat) : Bool :=
  match (s.team? w.team).bind (·.region) with
  | none => true
  | some (lo, hi) => lo ≤ va && va + n ≤ hi

/-- The translation of the part of an access that lies in one page, with the caches' effect. -/
def State.pieceAt (s : State) (v : View) (va n : Nat) : State × Except Bool Piece :=
  match s.translate v.w.die v.w.ctx va with
  | (s, .leaf l p) => (s, .ok ⟨leafAddr l p va, min n (pageSize l - va % pageSize l), p.extractLsb' 0 17⟩)
  | (s, .fault m) => (s, .error m)

/-- R183: the pieces of an access, the lower page first; an access spans at most two pages. When only the second page's entry is
invalid, the fault names that page's first byte of the access (log 76). -/
def State.piecesAt (s : State) (v : View) (va n : Nat) : State × Except (Nat × Bool) (List Piece) :=
  match s.pieceAt v va n with
  | (s, .error m) => (s, .error (va, m))
  | (s, .ok p) =>
    if n ≤ p.len then (s, .ok [p])
    else match s.pieceAt v (va + p.len) (n - p.len) with
      | (s, .error m) => (s, .error (va + p.len, m))
      | (s, .ok q) => (s, .ok [p, q])

/-- Steps 4 and 5 of R189 for pieces: permission, lock, write region, COMP; then pages whose accesses stall. -/
def State.checkPieces (s : State) (v : View) (k : Access) (va n : Nat) (ps : List Piece) : Resolved :=
  let w := k = .write || k = .atomic
  let ok := match s.ctx? v.w.ctx with
    | none => false
    | some c => ps.all (fun p => permits c k p.attr && (!w || !attrComp p.attr || attrExpand p.attr)) &&
        (!w || s.inRegion v.w va n)
  if !ok then .trap (failAt .prot (BitVec.ofNat 64 va))
  else if ps.any fun p => s.frozenIn p.pa p.len || (w && attrComp p.attr) then .wait (BitVec.ofNat 54 va) ps
  else .ok (.pages ps) (BitVec.ofNat 54 va)

/-- R160: a write to a COMP page with EXPAND = 1 starts the expansion of the page. -/
def State.startExpand (s : State) (ctx : BitVec 12) (va : Nat) (p : Piece) : State :=
  let level := match (s.ctx? ctx).map fun c => s.walk c va with
    | some (.leaf l _) => l
    | _ => 0
  let frame := p.pa / pageSize level * pageSize level
  if attrComp p.attr && attrExpand p.attr && !s.expands.any (fun e => e.frame.toNat = frame) then
    { s with expands := s.expands ++ [⟨s.uid, ctx, BitVec.ofNat 54 va, BitVec.ofNat 57 frame, pageSize level⟩], uid := s.uid + 1 }
  else s

/-- The expansions that a write of some pieces from an address up starts. -/
def State.startExpands (ctx : BitVec 12) : List Piece → Nat → State → State
  | [], _, s => s
  | p :: ps, va, s => State.startExpands ctx ps (va + p.len) (s.startExpand ctx va p)

/-- R153: a window whose RUN is 0 walks its base again; an invalid or malformed entry leaves it as it is. -/
def State.reloadWindow (s : State) (v : View) (n : Nat) : State :=
  let w := (s.thrOf v).wins[n]?.getD Window.invalid
  if w.valid && !w.kind && !w.run then
    match s.translate v.w.die v.w.ctx w.base.toNat with
    | (s, .leaf l p) =>
      s.modThr v.iss fun t => { t with wins := t.wins.setIfInBounds n { w with
        run := true, frame := BitVec.ofNat 57 (leafAddr l p w.base.toNat), attr := p.extractLsb' 0 17,
        limit := BitVec.ofNat 31 (min w.limit.toNat (contRun l p w.base.toNat)) } }
    | (s, .fault _) => s
  else s

/-- R153, R189 steps 1 to 5 for one lane: an access of `n` bytes with an alignment at an offset through a window. -/
def State.resolve (s : State) (v : View) (win : Nat) (o : Word) (n align : Nat) (k : Access) : State × Resolved :=
  let w := (s.thrOf v).wins[win]?.getD Window.invalid
  if !w.valid then (s, .trap (failAt .prot (o.setWidth 64)))
  else if w.kind then
    let a := w.base.toNat + o.toNat
    if o.msb || o.toNat + n > w.limit.toNat then (s, .trap (failAt .prot (o.setWidth 64)))
    else if a % align != 0 then (s, .trap (failAt .align (BitVec.ofNat 64 a)))
    else (s, .ok (.scratch a) (BitVec.ofNat 54 a))
  else
    let va : BitVec 64 := w.base.setWidth 64 + o.signExtend 64
    if va.toNat % align != 0 then (s, .trap (failAt .align va))
    else if va.toNat ≥ 2 ^ 54 || (spillBase ≤ va.toNat && va.toNat < apertureBase) then (s, .trap (failAt .prot va))
    else if apertureBase ≤ va.toNat then
      let off := va.toNat - apertureBase
      if off + n > (s.scratchOf v.w).2 then (s, .trap (failAt .prot va)) else (s, .ok (.scratch off) (va.setWidth 54))
    else
      let s := if !o.msb && o.toNat < w.limit.toNat then s.reloadWindow v win else s
      let w := (s.thrOf v).wins[win]?.getD Window.invalid
      if w.run && !o.msb && o.toNat + n ≤ w.limit.toNat then
        (s, s.checkPieces v k va.toNat n [⟨w.frame.toNat + o.toNat, n, w.attr⟩])
      else if va.toNat + n > spillBase then (s, .trap (failAt .prot va))
      else
        match s.piecesAt v va.toNat n with
        | (s, .error (a, m)) => (s, .fault (BitVec.ofNat 54 a) m)
        | (s, .ok ps) => (s, s.checkPieces v k va.toNat n ps)

/-! ## Reads and writes of a target -/

/-- How a read takes its bytes: through the L1, the coherent value, or the read-only path of a wave, which runs on some pipelines (R192). -/
inductive ReadPath where
  | l1 | coherent
  | readOnly (wave : Nat) (pipes : List PipeId)
  deriving DecidableEq, Repr

/-- Several bytes through the L1. -/
def State.l1Bytes (p : PipeId) (attr : BitVec 17) : Nat → Nat → State → State × Option (List Byte)
  | 0, _, s => (s, some [])
  | n + 1, a, s =>
    match s.l1Byte p attr a with
    | (s, none) => (s, none)
    | (s, some b) =>
      match State.l1Bytes p attr n (a + 1) s with
      | (s, some l) => (s, some (b :: l))
      | (s, none) => (s, none)

/-- Several bytes through the read-only path. -/
def State.roBytes (wave : Nat) (ps : List PipeId) (attr : BitVec 17) : Nat → Nat → State → State × Option (List Byte)
  | 0, _, s => (s, some [])
  | n + 1, a, s =>
    match s.roByte wave ps attr a with
    | (s, none) => (s, none)
    | (s, some b) =>
      match State.roBytes wave ps attr n (a + 1) s with
      | (s, some l) => (s, some (b :: l))
      | (s, none) => (s, none)

/-- The physical lines of a range of bytes. -/
def linesOf (a n : Nat) : List Nat := ([a / 128, (a + n - 1) / 128]).dedup

/-- R420: an address homed in a fenced package. -/
def State.isFenced (s : State) (a : Nat) : Bool := s.fenced.contains (pkgOf a)

/-- The bytes of one piece; `none` for an uncorrectable error. An SO page is read at its home and its read acquires (R181). -/
def State.readPiece (s : State) (die : Nat) (p : PipeId) (path : ReadPath) (x : Piece) : State × Option (List Byte) :=
  let a := replicaAddr die x.attr x.pa
  if s.isFenced a then (s, none)
  else if attrSO x.attr then ((s.l1Release [p]).l1Acquire [p], (List.range x.len).mapM fun i => s.pageByte x.attr (a + i))
  else match path with
    | .coherent =>
      let s := (linesOf a x.len).foldl (fun s l => s.l1Drop p l) s
      (s, (List.range x.len).mapM fun i => s.pageByte x.attr (a + i))
    | .readOnly u ps => State.roBytes u ps x.attr x.len a s
    | .l1 => State.l1Bytes p x.attr x.len a s

def State.readPieces (die : Nat) (p : PipeId) (path : ReadPath) : List Piece → State → State × Option (List Byte)
  | [], s => (s, some [])
  | x :: xs, s =>
    match s.readPiece die p path x with
    | (s, none) => (s, none)
    | (s, some b) =>
      match State.readPieces die p path xs s with
      | (s, some l) => (s, some (b ++ l))
      | (s, none) => (s, none)

/-- The physical lines of a piece as a party on a die reads it. -/
def Piece.lines (x : Piece) (die : Nat) : List Nat := linesOf (replicaAddr die x.attr x.pa) x.len

/-- What a wave has read by another way, its read-only path keeps no older value of (R174). -/
def State.roCatchUp (s : State) (v : View) (path : ReadPath) (l : List Piece) : State :=
  match path with
  | .readOnly _ _ => s
  | _ => { s with ro := s.ro.filter fun x => !(x.wave == v.w.uid && (l.flatMap (·.lines v.w.die)).contains x.line) }

/-- The bytes at a lane's target. -/
def State.readTarget (s : State) (v : View) (i : Nat) (path : ReadPath) (n : Nat) : Target → State × Option (List Byte)
  | .scratch a => (s, if s.scratchErred v.w.team a n then none else some (memGets (s.scratchOf v.w).1 a n))
  | .pages l => State.readPieces v.w.die (v.w.pipeOf i) path l (s.roCatchUp v path l)

/-- Bytes written through the L1. -/
def State.l1Puts (p : PipeId) (attr : BitVec 17) : List Byte → Nat → State → State
  | [], _, s => s
  | b :: l, a, s => State.l1Puts p attr l (a + 1) (s.l1Put p attr a b)

/-- A write of one piece: into the L1, or to its home for SO and REPL pages and for synchronising stores. The writer's own cache lets
go of the lines it reads the piece by (R174). -/
def State.writePiece (s : State) (p : PipeId) (home : Bool) (x : Piece) (l : List Byte) : State :=
  if s.isFenced x.pa then s
  else if attrSO x.attr || attrRepl x.attr || home then
    let s := if attrSO x.attr then s.l1Release [p] else s
    ((x.lines p.die).foldl (fun s k => s.l1Drop p k) s).pageWrite none x.attr x.pa l
  else State.l1Puts p x.attr l x.pa s

def State.writePieces (p : PipeId) (home : Bool) : List Piece → List Byte → State → State
  | [], _, s => s
  | x :: xs, l, s => State.writePieces p home xs (l.drop x.len) (s.writePiece p home x (l.take x.len))

/-- Bytes stored at a lane's target. -/
def State.writeTarget (s : State) (v : View) (i : Nat) (home : Bool) (l : List Byte) : Target → State
  | .scratch a => s.scratchPut v.w a l
  | .pages ps => State.writePieces (v.w.pipeOf i) home ps l s

/-- Whether an access to a target orders nothing: every page is UO (R182). -/
def Target.unordered : Target → Bool
  | .scratch _ => false
  | .pages l => l.all fun p => attrUO p.attr

/-- Whether an access to a target synchronises by its page alone: some page is SO (R181). -/
def Target.strong : Target → Bool
  | .scratch _ => false
  | .pages l => l.any fun p => attrSO p.attr

/-- The other packages that an access goes to (13_gateways R419). -/
def Target.packages (own : BitVec 12) : Target → List (BitVec 12)
  | .scratch _ => []
  | .pages l => ((l.map fun p => pkgOf p.pa).filter (· != own)).dedup

/-- R420: an access to a fenced package is reported as a read error. -/
def State.targetFenced (s : State) : Target → Bool
  | .scratch _ => false
  | .pages l => l.any fun p => s.isFenced p.pa

/-! ## One memory slot -/

/-- What a memory instruction does beyond its checks: its size, alignment and kind, whether it synchronises, the check of its
data registers (step 6 of R62), and the access of one lane, which gives the registers written or an uncorrectable error. -/
structure MemOp where
  bytes : Nat
  align : Nat
  kind : Access
  sync : Bool
  /-- Destination registers, pending until the access completes. -/
  dest : List Nat
  check : Lane → Except Fail Unit
  perform : State → View → Nat → Lane → Target → State × Option (List (Nat × Reg))

/-- R190: what later accesses have to wait for: a synchronising read acquires unless all that it reads is UO (R182), and so does every read of
an SO page (R181). -/
def MemOp.opKind (m : MemOp) (rs : List Resolved) : OpKind :=
  if m.kind = .write then .store
  else if rs.any (fun r => match r with | .ok t _ => (m.sync && !t.unordered) || t.strong | _ => false) then .acquire else .load

/-- The accesses of some lanes to other packages: lane, address and package. -/
def remotes (own : BitVec 12) (rs : List (Nat × Resolved)) : List (Nat × BitVec 54 × BitVec 12) :=
  rs.flatMap fun e => match e.2 with
    | .ok t a => (t.packages own).map fun p => (e.1, a, p)
    | _ => []

/-- The lanes a slot performs: those left after a page fault, or every active lane (R165). -/
def View.todo (v : View) : List Nat := if v.thr.replay == 0#32 then v.act else
  match v.lane with
  | some i => [i]
  | none => lanesOf v.thr.replay v.w.width

/-- The mask of lanes as TRAPLANES and the FAULT record show it. -/
def View.mask (v : View) (l : List Nat) : Word := if v.inh then (if l = [] then 0#32 else 1#32) else maskOf l

/-- The resolutions of the lanes of a slot, in ascending order. -/
def resolveLanes (v : View) (f : MFmt) (m : MemOp) : List (Nat × Word) → State → State × List (Nat × Resolved)
  | [], s => (s, [])
  | (i, o) :: l, s =>
    let (s, r) := s.resolve v f.w.toNat o m.bytes m.align m.kind
    let (s, rs) := resolveLanes v f m l s
    (s, (i, r) :: rs)

/-- The accesses of the lanes, in ascending order: registers written, and lanes that met an error with their address. -/
def performLanes (v : View) (m : MemOp) : List (Nat × Target × BitVec 54) → State →
    State × List (Nat × Nat × Reg) × List (Nat × BitVec 54)
  | [], s => (s, [], [])
  | (i, t, a) :: l, s =>
    match (s.wave? v.w.uid).bind (·.lanes[i]?) with
    | none => (s, [], [])
    | some x =>
      let (s, r) := m.perform s v i x t
      let (s, ws, es) := performLanes v m l s
      match r with
      | some w => (s, w.map (fun e => (i, e.1, e.2)) ++ ws, es)
      | none => (s, ws, (i, a) :: es)

/-- R164: the FAULT record of a translation fault. -/
def State.postPageFault (s : State) (v : View) (a : BitVec 54) (malformed : Bool) (kind : Nat) (lanes : List Nat) : State :=
  s.postFault v.w.ctx ((a.extractLsb' 18 36).setWidth 48)
    [a.extractLsb' 0 32, (a.extractLsb' 32 22).setWidth 32,
     BitVec.ofNat 32 (6 + kind * 2 ^ 16 + if malformed then 2 ^ 20 else 0), v.w.ctx.setWidth 32, whereWord s v.w (lanes.headD 0),
     v.mask lanes, v.thr.hdr.extractLsb' 0 32, (v.thr.hdr.extractLsb' 32 22).setWidth 32, 0#32, BitVec.ofNat 32 v.thr.slot, 0#32,
     0#32] (senderWord s v.w (lanes.headD 0)) (some v.iss)

/-- R164: the thread parks as a page fault, replayable for the faulting lanes. -/
def State.pageFault (s : State) (v : View) (sl : Slot) (a : BitVec 54) (malformed : Bool) (kind : Nat) (lanes : List Nat)
    (vals : List (Nat × Word)) : State :=
  let s := s.postPageFault v a malformed kind lanes
  let s := lanes.foldl (fun s i => s.modLane v.w.uid i fun l => { l with traplanes := v.mask lanes }) s
  (s.park v.iss .pageFault sl).modThr v.iss fun t =>
    { t with replay := maskOf lanes, replayVals := vals, faultAddr := a, faultKind := BitVec.ofNat 4 kind }

/-- Registers written in lanes. -/
def State.putRegs (s : State) (u : Nat) (l : List (Nat × Nat × Reg)) : State :=
  l.foldl (fun s e => s.modLane u e.1 fun x => x.setReg e.2.1 e.2.2) s

/-- R59, R190: an operation completes at once, or stands as the token's operation until it completes (log 12). -/
def State.complete (s : State) (v : View) (tk : BitVec 4) (kind : OpKind) (dest : List Nat) (ws : List (Nat × Nat × Reg))
    (errs : List (Nat × BitVec 54)) (remote : List (Nat × BitVec 54 × BitVec 12) := []) : State :=
  if tk == 8#4 then
    let s := s.putRegs v.w.uid ws
    if errs = [] then s else s.modThr v.iss fun t => { t with dataErr := errs }
  else
    let op : PendOp := { k := s.uid, tok := tk, kind := kind, remote := remote, writes := ws, pend := dest, errs := errs, flights := [] }
    { s with uid := s.uid + 1 }.modThr v.iss fun t =>
      { t with ops := t.ops ++ [op], toks := t.toks.setIfInBounds tk.toNat ((t.toks[tk.toNat]?).getD 0 + 1) }

/-- R197: an access that names a window waits at issue for an earlier WIN of it. -/
def Thread.winBusy (t : Thread) (n : Nat) : Bool := t.ops.any fun o => match o.kind with | .win k _ => k == n | _ => false

/-- R190: an acquire or a fence of the thread has not completed; an access issued after it waits at issue (log 77). -/
def Thread.acquiring (t : Thread) : Bool := t.ops.any fun o => match o.kind with
  | .acquire | .fence _ => true
  | _ => false

/-- R196: an earlier access for which a fence waits: a read, and a store too where the fence releases. -/
def PendOp.before (rel : Bool) (o : PendOp) : Bool := o.kind = .load || o.kind = .acquire || (rel && o.kind = .store)

def accessCode : Access → Nat
  | .read => 0 | .write => 1 | .atomic => 2 | .fetch => 3

/-- A memory slot (R189, R227): lanes that trap stop the slot; otherwise the lanes that translate are performed, and the others
park the thread. -/
def memBody (sl : Slot) (f : MFmt) (m : MemOp) (s : State) (v : View) : State :=
  let src (p : Word) (l : Lane) : Except Fail Word :=
    match m.check l with
    | .error e => .error e
    | .ok _ => offsetOf f m.sync l p
  let early (l : List (Nat × Word × Word)) : List (Nat × Fail) := l.filterMap fun e => (v.lane? e.1).bind fun x =>
    match src e.2.1 x with | .error y => some (e.1, y) | .ok _ => none
  let go (s' : State) (l : List (Nat × Word × Word)) : State :=
    match early l with
    | e :: es => s.trapLanes v sl (e :: es)
    | [] =>
      let offs := l.filterMap fun e => (v.lane? e.1).bind fun x =>
        match src e.2.1 x with | .ok o => some (e.1, o) | .error _ => none
      let (s1, rs) := resolveLanes v f m offs s'
      match rs.filterMap fun e => match e.2 with | .trap x => some (e.1, x) | _ => none with
      | e :: es => s.trapLanes v sl (e :: es)
      | [] =>
        let waits := rs.filterMap fun e => match e.2 with | .wait a ps => some (a, ps) | _ => none
        if waits ≠ [] then
          -- the slot waits at issue; a COMP page that it writes begins its expansion
          if m.kind = .read then s
          else waits.foldl (fun s e => State.startExpands v.w.ctx e.2 e.1.toNat s) s
        else
          let (s2, ws, errs) := performLanes v m
            (rs.filterMap fun e => match e.2 with | .ok t a => some (e.1, t, a) | _ => none) s1
          match rs.filterMap fun e => match e.2 with | .fault a b => some (e.1, a, b) | _ => none with
          | (i, a, b) :: fs =>
            let lanes := i :: fs.map (·.1)
            let s3 := s2.complete v 8#4 .load m.dest ws errs
            s3.pageFault v sl a b (accessCode m.kind) lanes ((l.filter fun e => lanes.contains e.1).map fun e => (e.1, e.2.1))
          | [] =>
            let s3 := s2.complete v f.tk (m.opKind (rs.map (·.2))) m.dest ws errs (remotes s.pkgid rs)
            (s3.modThr v.iss fun t => { t with replay := 0#32, replayVals := [] }).advance v.iss (1 + sl.nlits)
  if v.thr.winBusy f.w.toNat || v.thr.acquiring then s
  else if v.thr.replay == 0#32 then withPops sl s v v.act early go
  else go s (v.todo.map fun i => (i, assocGet v.thr.replayVals i 0#32, 0#32))

/-! ## Loads (R191, R192, LDA of R194) -/

/-- The registers a load of some bytes writes under a tag: words from d up. -/
def wordRegs (d : Nat) (t : Tag) (n : Nat) (l : List Byte) : List (Nat × Reg) :=
  (leWords l n).mapIdx fun j w => (d + j, ⟨w, t⟩)

/-- The ordinary path of a load, through the L1. -/
def View.l1Path (_ : View) : ReadPath := .l1

/-- The read-only path of the issuing party's wave (R192). -/
def View.ownPath (v : View) : ReadPath := .readOnly v.w.uid v.w.pipes

/-- A load: `conv` gives the registers from the bytes. -/
def loadOp (n align : Nat) (path : View → ReadPath) (dest : List Nat) (conv : List Byte → List (Nat × Reg)) : MemOp :=
  { bytes := n, align := align, kind := .read, sync := false, dest := dest, check := fun _ => .ok (),
    perform := fun s v i _ t => match s.readTarget v i (path v) n t with
      | (s, some l) => (s, some (conv l))
      | (s, none) => (s, none) }

/-- A load of words from d up; d must be a multiple of their number. -/
def loadWords (op : Nat) (f : MFmt) (t : Tag) (n : Nat) (path : View → ReadPath) (s : State) : Host.Outcome State Fault Refusal :=
  let d := f.d.toNat
  let sl := slotM op f ((List.range n).map (d + ·)) (d % n != 0)
  issue sl (memBody sl f (loadOp (4 * n) 4 path ((List.range n).map (d + ·)) (wordRegs d t n))) s

/-- A load of one register from `n` bytes. -/
def loadOne (op : Nat) (f : MFmt) (n : Nat) (conv : Nat → Reg) (s : State) : Host.Outcome State Fault Refusal :=
  let d := f.d.toNat
  let sl := slotM op f [d] false
  issue sl (memBody sl f (loadOp n n View.l1Path [d] fun l => [(d, conv (leNat l))])) s


def execLdI32 (f : MFmt) (s : State) : Host.Outcome State Fault Refusal := loadWords 0x080 f .i32 1 View.l1Path s
def execLdF32 (f : MFmt) (s : State) : Host.Outcome State Fault Refusal := loadWords 0x081 f .f32 1 View.l1Path s
def execLdBf16x2 (f : MFmt) (s : State) : Host.Outcome State Fault Refusal := loadWords 0x082 f .bf16x2 1 View.l1Path s
def execLdF16x2 (f : MFmt) (s : State) : Host.Outcome State Fault Refusal := loadWords 0x083 f .f16x2 1 View.l1Path s
def execLdE4m3x4 (f : MFmt) (s : State) : Host.Outcome State Fault Refusal := loadWords 0x084 f .e4m3x4 1 View.l1Path s
def execLdE5m2x4 (f : MFmt) (s : State) : Host.Outcome State Fault Refusal := loadWords 0x085 f .e5m2x4 1 View.l1Path s
def execLdI8x4 (f : MFmt) (s : State) : Host.Outcome State Fault Refusal := loadWords 0x086 f .i8x4 1 View.l1Path s
def execLdI16x2 (f : MFmt) (s : State) : Host.Outcome State Fault Refusal := loadWords 0x087 f .i16x2 1 View.l1Path s
def execLdBfp8x4 (f : MFmt) (s : State) : Host.Outcome State Fault Refusal := loadWords 0x088 f .bfp8x4 1 View.l1Path s
def execLdBfp4x8 (f : MFmt) (s : State) : Host.Outcome State Fault Refusal := loadWords 0x089 f .bfp4x8 1 View.l1Path s
def execLdBfp2x16 (f : MFmt) (s : State) : Host.Outcome State Fault Refusal := loadWords 0x08A f .bfp2x16 1 View.l1Path s
def execLdScale (f : MFmt) (s : State) : Host.Outcome State Fault Refusal :=
  loadOne 0x08B f 2 (fun x => ⟨BitVec.ofNat 32 (x % 512), .scale⟩) s
def execLdSb (f : MFmt) (s : State) : Host.Outcome State Fault Refusal := loadOne 0x08D f 1 (fun x => regI32 (BitVec.ofInt 32 (toSigned 8 x))) s
def execLdZb (f : MFmt) (s : State) : Host.Outcome State Fault Refusal := loadOne 0x08E f 1 (fun x => regI32 (BitVec.ofNat 32 x)) s
def execLdSh (f : MFmt) (s : State) : Host.Outcome State Fault Refusal := loadOne 0x08F f 2 (fun x => regI32 (BitVec.ofInt 32 (toSigned 16 x))) s
def execLdZh (f : MFmt) (s : State) : Host.Outcome State Fault Refusal := loadOne 0x090 f 2 (fun x => regI32 (BitVec.ofNat 32 x)) s

/-- LD.ADDR: 8 bytes, 8-byte aligned, into an even pair. -/
def execLdAddr (f : MFmt) (s : State) : Host.Outcome State Fault Refusal :=
  let d := f.d.toNat
  let sl := slotM 0x08C f [d, d + 1] (d % 2 != 0)
  issue sl (memBody sl f (loadOp 8 8 View.l1Path [d, d + 1] (wordRegs d .addr 2))) s

def execLdqI32 (f : MFmt) (s : State) : Host.Outcome State Fault Refusal := loadWords 0x091 f .i32 4 View.l1Path s
def execLdqF32 (f : MFmt) (s : State) : Host.Outcome State Fault Refusal := loadWords 0x092 f .f32 4 View.l1Path s
def execLdwI32 (f : MFmt) (s : State) : Host.Outcome State Fault Refusal := loadWords 0x093 f .i32 8 View.l1Path s
def execLdwF32 (f : MFmt) (s : State) : Host.Outcome State Fault Refusal := loadWords 0x094 f .f32 8 View.l1Path s
def execLdwRoI32 (f : MFmt) (s : State) : Host.Outcome State Fault Refusal := loadWords 0x095 f .i32 8 View.ownPath s
def execLdwRoF32 (f : MFmt) (s : State) : Host.Outcome State Fault Refusal := loadWords 0x096 f .f32 8 View.ownPath s
def execLdwRoI32Edfen1 (f : MFmt) (s : State) : Host.Outcome State Fault Refusal := loadWords 0x0A1 f .i32 8 View.ownPath s
def execLdwRoF32Edfen1 (f : MFmt) (s : State) : Host.Outcome State Fault Refusal := loadWords 0x0B2 f .f32 8 View.ownPath s

/-- LDA: the coherent value, and then the acquire. On a UO page it orders nothing (R182). -/
def execLda (f : MFmt) (s : State) : Host.Outcome State Fault Refusal :=
  let d := f.d.toNat
  let sl := slotM 0x097 f [d] false
  issue sl (memBody sl f { loadOp 4 4 (fun _ => .coherent) [d] (wordRegs d .i32 1) with
    sync := true
    perform := fun s v i _ t => match s.readTarget v i .coherent 4 t with
      | (s, some l) => (if t.unordered then s else s.l1Acquire [v.w.pipeOf i], some (wordRegs d .i32 1 l))
      | (s, none) => (s, none) }) s

/-! ## Stores (R193, STR of R194) -/

/-- The data registers of a store, none tagged NONE unless `any`. -/
def dataCheck (d n : Nat) (any : Bool) (l : Lane) : Except Fail Unit :=
  if !any && (List.range n).any fun j => (l.reg (d + j)).tag = .none then .error failFmt else .ok ()

/-- The low `n` bytes of the words from d up. -/
def dataBytes (l : Lane) (d words n : Nat) : List Byte := (wordBytes ((List.range words).map fun j => (l.reg (d + j)).bits)).take n

/-- A store of `n` bytes; `release` makes it STR. -/
def storeOp (d words n : Nat) (any release : Bool) : MemOp :=
  { bytes := n, align := min n 4, kind := .write, sync := release, dest := [], check := dataCheck d words any,
    perform := fun s v i l t =>
      if s.targetFenced t then (s, none)
      else
        let s := if release && !t.unordered then s.l1Release [v.w.pipeOf i] else s
        (s.writeTarget v i release (dataBytes l d words n) t, some []) }

/-- A store instruction from registers d up; d must be a multiple of their number. -/
def storeIns (op : Nat) (f : MFmt) (words n : Nat) (any release : Bool) (s : State) : Host.Outcome State Fault Refusal :=
  let d := f.d.toNat
  let sl := slotM op f ((List.range words).map (d + ·)) (d % words != 0)
  issue sl (memBody sl f (storeOp d words n any release)) s

def execSt (f : MFmt) (s : State) : Host.Outcome State Fault Refusal := storeIns 0x098 f 1 4 true false s
def execStB8 (f : MFmt) (s : State) : Host.Outcome State Fault Refusal := storeIns 0x099 f 1 1 false false s
def execStB16 (f : MFmt) (s : State) : Host.Outcome State Fault Refusal := storeIns 0x09A f 1 2 false false s
def execStq (f : MFmt) (s : State) : Host.Outcome State Fault Refusal := storeIns 0x09B f 4 16 false false s
def execStw (f : MFmt) (s : State) : Host.Outcome State Fault Refusal := storeIns 0x09C f 8 32 false false s
def execStr (f : MFmt) (s : State) : Host.Outcome State Fault Refusal := storeIns 0x09D f 1 4 false true s

/-! ## Atomics (R195) -/

/-- The lines of a target leave a pipeline's cache, written back. -/
def State.dropTarget (s : State) (p : PipeId) (t : Target) : State :=
  match t with
  | .scratch _ => s
  | .pages ps => ps.foldl (fun s x => (x.lines p.die).foldl (fun s k => s.l1Drop p k) s) s

/-- An atomic read-modify-write of a word by one lane: release, one event at the home, acquire (R188). `g` gives the new value
from the old one, or no store; `tag` gives d's tag from the operand's. -/
def atomicOp (d : Nat) (two : Bool) (vtag : Option Tag) (tag : Tag → Tag) (g : Lane → Word → Option Word) : MemOp :=
  { bytes := 4, align := 4, kind := .atomic, sync := true, dest := [d],
    check := fun l => match vtag with
      | some t => if (l.reg d).tag = t then .ok () else .error failFmt
      | none => dataCheck d (if two then 2 else 1) false l
    perform := fun s v i l t =>
      let s := if t.unordered then s else s.l1Release [v.w.pipeOf i]
      let s := s.dropTarget (v.w.pipeOf i) t
      match s.readTarget v i .coherent 4 t with
      | (s, none) => (s, none)
      | (s, some b) =>
        let old := BitVec.ofNat 32 (leNat b)
        let s := match g l old with
          | some x =>
            (s.writeTarget v i true (leBytes 4 x.toNat) t).dropTarget (v.w.pipeOf i) t
          | none => s
        (if t.unordered then s else s.l1Acquire [v.w.pipeOf i], some [(d, ⟨old, tag (l.reg d).tag⟩)]) }

def atomicIns (op : Nat) (f : MFmt) (two : Bool) (vtag : Option Tag) (tag : Tag → Tag) (g : Lane → Word → Option Word) (s : State) :
    Host.Outcome State Fault Refusal :=
  let d := f.d.toNat
  let sl := slotM op f (if two then [d, d + 1] else [d]) (two && d % 2 != 0)
  issue sl (memBody sl f (atomicOp d two vtag tag g)) s

/-- The operand v of an atomic. -/
def opnd (f : MFmt) (l : Lane) : Word := (l.reg f.d.toNat).bits

/-- The FP32 sum of AADD.F32: to nearest even, subnormals kept, a NaN 0x7FC0_0000 (R195). -/
def aaddF32 (x y : Word) : Word :=
  BitVec.ofNat 32 (rneF32 (exactSum .rne [fp32.decode false x.toNat, fp32.decode false y.toNat])).1

def toI32 (_ : Tag) : Tag := .i32

def execAadd (f : MFmt) (s : State) : Host.Outcome State Fault Refusal :=
  atomicIns 0x09E f false (some .i32) toI32 (fun l old => some (old + opnd f l)) s
def execAaddF32 (f : MFmt) (s : State) : Host.Outcome State Fault Refusal :=
  atomicIns 0x09F f false (some .f32) (fun _ => .f32) (fun l old => some (aaddF32 old (opnd f l))) s
def execAmin (f : MFmt) (s : State) : Host.Outcome State Fault Refusal :=
  atomicIns 0x0A0 f false (some .i32) toI32 (fun l old => some (if (opnd f l).slt old then opnd f l else old)) s
def execAmax (f : MFmt) (s : State) : Host.Outcome State Fault Refusal :=
  atomicIns 0x0A2 f false (some .i32) toI32 (fun l old => some (if old.slt (opnd f l) then opnd f l else old)) s
def execAminu (f : MFmt) (s : State) : Host.Outcome State Fault Refusal :=
  atomicIns 0x0A3 f false (some .i32) toI32 (fun l old => some (if opnd f l < old then opnd f l else old)) s
def execAmaxu (f : MFmt) (s : State) : Host.Outcome State Fault Refusal :=
  atomicIns 0x0A4 f false (some .i32) toI32 (fun l old => some (if old < opnd f l then opnd f l else old)) s
def execAand (f : MFmt) (s : State) : Host.Outcome State Fault Refusal :=
  atomicIns 0x0A5 f false none toI32 (fun l old => some (old &&& opnd f l)) s
def execAor (f : MFmt) (s : State) : Host.Outcome State Fault Refusal :=
  atomicIns 0x0A6 f false none toI32 (fun l old => some (old ||| opnd f l)) s
def execAxor (f : MFmt) (s : State) : Host.Outcome State Fault Refusal :=
  atomicIns 0x0A7 f false none toI32 (fun l old => some (old ^^^ opnd f l)) s
def execAxchg (f : MFmt) (s : State) : Host.Outcome State Fault Refusal :=
  atomicIns 0x0A8 f false none id (fun l _ => some (opnd f l)) s
def execAcas (f : MFmt) (s : State) : Host.Outcome State Fault Refusal :=
  atomicIns 0x0A9 f true none toI32 (fun l old => if old = opnd f l then some (l.reg (f.d.toNat + 1)).bits else none) s

/-! ## Fences (R196) -/

/-- An operation stands until it completes by its event, also one without a token (R59). -/
def State.stand (s : State) (v : View) (tk : BitVec 4) (kind : OpKind) : State :=
  let op : PendOp := { k := s.uid, tok := tk, kind := kind, writes := [], pend := [], errs := [], flights := [] }
  { s with uid := s.uid + 1 }.modThr v.iss fun t =>
    { t with ops := t.ops ++ [op], toks := if tk == 8#4 then t.toks else t.toks.setIfInBounds tk.toNat ((t.toks[tk.toNat]?).getD 0 + 1) }

/-- A fence's effect on the wave's L1: FENCE.REL writes back, FENCE.ACQ invalidates, FENCE.AR does both. It completes once the
earlier reads, and for a release the earlier stores, have (R196); one without a token for which none is outstanding does so at
once. -/
def fenceIns (op : Nat) (f : MFmt) (acq rel : Bool) (s : State) : Host.Outcome State Fault Refusal :=
  let sl := slotM0 op f [] [] false
  issue sl (fun s v =>
    let ps := match v.lane with | some i => [v.w.pipeOf i] | none => v.w.pipes
    let s1 := if acq then s.l1Acquire ps else s.l1Release ps
    (if f.tk == 8#4 && !v.thr.ops.any (PendOp.before rel) then s1 else s1.stand v f.tk (.fence rel)).advance v.iss 1) s

def execFenceAcq (f : MFmt) (s : State) : Host.Outcome State Fault Refusal := fenceIns 0x0AA f true false s
def execFenceRel (f : MFmt) (s : State) : Host.Outcome State Fault Refusal := fenceIns 0x0AB f false true s
def execFenceAr (f : MFmt) (s : State) : Host.Outcome State Fault Refusal := fenceIns 0x0AC f true true s

/-! ## Windows (R197, R198) -/

/-- The base and length WIN reads in the lowest active lane. -/
def winSource (f : MFmt) (p : Word) (l : Lane) : Except Fail (DWord × Nat) :=
  match l.srcAs .i32 p f.a, l.pair f.d.toNat with
  | .ok n, .ok a => .ok (a, if n.toNat = 0 || n.toNat > 2 ^ 31 - 1 then 2 ^ 31 - 1 else n.toNat)
  | .error e, _ | _, .error e => .error e

/-- A window loaded at once, or by the token's operation when it completes. -/
def State.loadWindow (s : State) (v : View) (tk : BitVec 4) (n : Nat) (w : Window) : State :=
  if tk == 8#4 then s.modThr v.iss fun t => { t with wins := t.wins.setIfInBounds n w }
  else s.complete v tk (.win n w) [] [] []

def winBody (f : MFmt) (sl : Slot) (s : State) (v : View) (x : DWord × Nat) (s0 : State) : State :=
  let (a, len) := x
  let n := f.w.toNat
  let prot := s0.trapAll v sl (failAt .prot a)
  if v.thr.winBusy n then s0
  else if a.toNat ≥ 2 ^ 54 || (spillBase ≤ a.toNat && a.toNat < apertureBase) then prot
  else if apertureBase ≤ a.toNat then
    let o := a.toNat - apertureBase
    let size := (s.scratchOf v.w).2
    if o ≥ size then prot
    else (s.loadWindow v f.tk n ⟨true, true, BitVec.ofNat 54 o, BitVec.ofNat 31 (min len (size - o)), false, 0#57, 0#17⟩).advance v.iss
      (1 + sl.nlits)
  else match s.translate v.w.die v.w.ctx a.toNat with
    -- the wave's one action faults, so the record and TRAPLANES name the lowest active lane alone (log 30)
    | (_, .fault m) => (s0.translate v.w.die v.w.ctx a.toNat).1.pageFault v sl (a.setWidth 54) m 4 [v.low] []
    | (s, .leaf l p) =>
      ((s.loadWindow v f.tk n ⟨true, false, a.setWidth 54, BitVec.ofNat 31 (min len (contRun l p a.toNat)), true,
        BitVec.ofNat 57 (leafAddr l p a.toNat), p.extractLsb' 0 17⟩).modThr v.iss fun t => { t with replay := 0#32 }).advance v.iss
        (1 + sl.nlits)

def execWin (f : MFmt) (s : State) : Host.Outcome State Fault Refusal :=
  let sl := slotM0 0x0AD f [f.a] [f.d.toNat, f.d.toNat + 1] (f.w.toNat = 7 || f.d.toNat % 2 = 1)
  issue sl.once (waveOp sl (fun pa _ l => winSource f pa l) (winBody f sl)) s

/-- WINQ writes LIMIT, or 0 for a window that is not valid. -/
def execWinq (f : MFmt) (s : State) : Host.Outcome State Fault Refusal :=
  let sl := slotM0 0x0AE f [] [f.d.toNat] false
  issue sl (fun s v =>
    if v.thr.winBusy f.w.toNat then s
    else
      let w := v.thr.wins[f.w.toNat]?.getD Window.invalid
      let r := regI32 (if w.valid then w.limit.setWidth 32 else 0#32)
      (s.complete v f.tk .load [f.d.toNat] (v.act.map fun i => (i, f.d.toNat, r)) []).advance v.iss 1) s

/-! ## Prefetch and cache maintenance (R199, R200) -/

/-- A line operation: `g` acts on the piece of each lane whose address translates; other lanes do nothing, and none traps. -/
def lineIns (op : Nat) (f : MFmt) (check : Bool) (g : State → PipeId → Piece → State) (s : State) : Host.Outcome State Fault Refusal :=
  let sl := slotM op f [] false
  issue sl (fun s v =>
    let early (l : List (Nat × Word × Word)) : List (Nat × Fail) := l.filterMap fun e => (v.lane? e.1).bind fun x =>
      match offsetOf f false x e.2.1 with | .error y => some (e.1, y) | .ok _ => none
    if v.thr.winBusy f.w.toNat then s
    else withPops sl s v v.act early fun s' l =>
      match early l with
      | e :: es => s.trapLanes v sl (e :: es)
      | [] =>
        let s1 := l.foldl (fun s e =>
          match (v.lane? e.1).map fun x => offsetOf f false x e.2.1 with
          | some (.ok o) =>
            let w := (s.thrOf v).wins[f.w.toNat]?.getD Window.invalid
            let va : BitVec 64 := w.base.setWidth 64 + o.signExtend 64
            if !w.valid || w.kind || va.toNat ≥ spillBase then s
            else if w.run && !o.msb && o.toNat < w.limit.toNat && !check then
              g s (v.w.pipeOf e.1) ⟨w.frame.toNat + o.toNat, 1, w.attr⟩
            else match s.pieceAt v va.toNat 1 with
              | (s, .error _) => s
              | (s, .ok p) =>
                if check && (match s.checkPieces v .read va.toNat 1 [p] with | .ok _ _ => attrSO p.attr | _ => true) then s
                else g s (v.w.pipeOf e.1) p
          | _ => s) s'
        (s1.complete v f.tk .cache [] [] []).advance v.iss (1 + sl.nlits)) s

/-- R199: a lane whose line could not be read without DATA does nothing. -/
def State.lineReads (s : State) (attr : BitVec 17) (line : Nat) : Bool :=
  !s.isFenced (128 * line) && (List.range 128).all fun i => (s.pageByte attr (128 * line + i)).isSome

def execPfetch (f : MFmt) (s : State) : Host.Outcome State Fault Refusal :=
  lineIns 0x0AF f true (fun s p x =>
    let k := replicaAddr p.die x.attr x.pa / 128
    if s.lineReads x.attr k then s.l1Fill p x.attr k else s) s

def execClean (f : MFmt) (s : State) : Host.Outcome State Fault Refusal :=
  lineIns 0x0B0 f false (fun s p x =>
    let a := replicaAddr p.die x.attr x.pa
    match s.l1Find p (a / 128) with
    | none => s
    | some l => { s.writeBack l with l1 := s.l1.map fun y => if y.pipe = l.pipe && y.line == l.line then { y with dirty := 0#128 } else y }) s

def execInval (f : MFmt) (s : State) : Host.Outcome State Fault Refusal :=
  lineIns 0x0B1 f false (fun s p x => s.l1Drop p (replicaAddr p.die x.attr x.pa / 128)) s

/-! ## Completion (R190) -/

/-- R59: a clause that has ended gives its pipelines up once nothing untokened of it is outstanding. -/
def Thread.endIfDone (t : Thread) : Thread :=
  if t.ending && !t.untokened then { t with ending := false, st := if t.st = .owning then .ready else t.st } else t

/-- The operation `k` of a thread completes: its token falls and its registers are written; an error of a lane that the thread runs is
kept for the next slot not yet issued (R172, 06_group R227). -/
def Thread.finishOp (t : Thread) (k : Nat) (mine : Nat → Bool) : Thread :=
  match t.ops.find? (·.k == k) with
  | none => t
  | some o => Thread.endIfDone
    { t with
      ops := t.ops.filter fun x => x.k != k
      toks := if o.tok == 8#4 then t.toks else t.toks.setIfInBounds o.tok.toNat ((t.toks[o.tok.toNat]?).getD 0 - 1)
      wins := match o.kind with | .win n w => t.wins.setIfInBounds n w | _ => t.wins
      dataErr := t.dataErr ++ o.errs.filter fun e => mine e.1 }

/-- R223: an operation issued before a split completes in every thread of the wave that holds it. -/
def State.finishOp (s : State) (u k : Nat) : State :=
  match s.wave? u with
  | none => s
  | some w =>
    let ws := ((w.thr.ops ++ w.lanes.flatMap fun l => (l.own.map (·.ops)).getD []).find? (·.k == k)).map (·.writes)
    let s := (s.putRegs u (ws.getD [])).modWave u fun w =>
      { w with thr := w.thr.finishOp k fun _ => !w.detach,
               lanes := w.lanes.mapIdx fun i l => { l with own := l.own.map fun t => t.finishOp k (· == i) } }
    (List.range w.width).foldl (fun s l => s.parkAtJoin ⟨u, some l⟩) s

/-- MEMORY_ACCESS_COMPLETE of operation `k` of an issuer's wave; pushes complete by their own events, and a fence after the accesses
before it (R196, log 77). -/
def execMemoryAccessComplete (i : Issuer) (k : Nat) (s : State) : Host.Outcome State Fault Refusal :=
  match s.view i with
  | none => .next s
  | some v =>
    match v.thr.ops.find? (·.k == k) with
    | none => .next s
    | some o =>
      let waits : Bool := match o.kind with
        | .push => true
        | .fence rel => (v.thr.ops.takeWhile (·.k != k)).any (PendOp.before rel)
        | _ => false
      .next (if waits then s else s.finishOp i.wave k)

end Sys2Proof.Machine
end

