-- ==== Sys2Proof/Machine/Keyring.lean ====
section
/-! DEFINITION. The keyring instructions (spec/07_keyring R265 to R272) and the events of keyrings (R242, R249, R251, R263). -/

namespace Sys2Proof.Machine

/-! ## Outstanding pushes -/

/-- The words of a record block in a lane, as bits (R20, R58). -/
def Lane.block (l : Lane) (f : EFmt) : List Word := (List.range f.count.toNat).map fun i => (l.reg (f.first.toNat + i)).bits

/-- R59, R60: an E-format instruction stands outstanding until the pushes named have their statuses. With `always`, d is pending
without a token too (11_schedulers R385). -/
def State.awaitPush (s : State) (v : View) (tk : BitVec 4) (d : Nat) (always : Bool) (fl : List Nat) : State :=
  if fl = [] then s
  else
    let op : PendOp := { k := s.uid, tok := tk, kind := .push, writes := [], pend := if tk == 8#4 && !always then [] else [d],
                         errs := [], flights := fl }
    { s with uid := s.uid + 1 }.modThr v.iss fun t =>
      { t with ops := t.ops ++ [op], toks := if tk == 8#4 then t.toks else t.toks.setIfInBounds tk.toNat ((t.toks[tk.toNat]?).getD 0 + 1) }

/-- A status of flight `k` is no longer awaited by a thread. -/
def Thread.dropFlight (t : Thread) (k : Nat) : Thread :=
  { t with ops := t.ops.map fun o => { o with flights := o.flights.filter (· != k) } }

/-- The push operations of a wave that await nothing any more. -/
def Wave.spentOps (w : Wave) : List Nat :=
  ((w.thr.ops ++ w.lanes.flatMap fun l => (l.own.map (·.ops)).getD []).filter fun o => o.kind = .push && o.flights = []).map (·.k)

/-- R113: the registers that a wave holds. -/
def Wave.heldRegs (w : Wave) : List Nat := List.range w.bregs ++ (List.range w.xregs).map (32 + ·)

/-- R113: the first packing that fits a register over the lanes. A register tagged NONE in every lane keeps its bits (log 87). -/
def packReg (l : List Reg) : Spill :=
  match l with
  | [] => .full []
  | r :: _ =>
    let step := ((l[1]?).getD r).bits - r.bits
    let tag := l.all (·.tag = r.tag)
    if l.all (· = r) then .unif r
    else if tag && (l.mapIdx fun i x => x.bits == r.bits + BitVec.ofNat 32 i * step).all id then .affine r.bits step r.tag
    else if tag && l.all (fun x => (x.bits.extractLsb' 0 16).signExtend 32 == x.bits) then .narrow (l.map fun x => x.bits.extractLsb' 0 16) r.tag
    else .full l

/-- The 2-bit spill tag of a packing. -/
def Spill.tag : Spill → BitVec 2
  | .unif _ => 1#2
  | .affine _ _ _ => 2#2
  | .narrow _ _ => 3#2
  | .full _ => 0#2

/-- What lane `i` gets back. -/
def Spill.lane (i : Nat) : Spill → Reg
  | .unif r => r
  | .affine v0 step t => ⟨v0 + BitVec.ofNat 32 i * step, t⟩
  | .narrow l t => ⟨((l[i]?).getD 0#16).signExtend 32, t⟩
  | .full l => (l[i]?).getD Reg.empty

/-- A wave as the spill engine saves it. -/
def Wave.pack (w : Wave) : Wave :=
  { w with packed := w.heldRegs.map fun r => (r, packReg (w.lanes.map (·.reg r))),
           lanes := w.lanes.map fun l => { l with regs := Vector.replicate 64 Reg.empty } }

/-- A saved wave with every bit and tag of its registers back. -/
def Wave.unpack (w : Wave) : Wave :=
  { w with packed := [], lanes := w.lanes.mapIdx fun i l => w.packed.foldl (fun l e => l.setReg e.1 (e.2.lane i)) l }

/-- A change made to a wave wherever it is: resident, or swapped out. -/
def State.onWave (s : State) (u : Nat) (f : State → State) : State :=
  if (s.wave? u).isSome then f s
  else match (s.saved.flatMap (·.waves)).find? (·.uid == u) with
    | none => s
    | some w =>
      let s1 := f { s with waves := s.waves ++ [w.unpack] }
      let back (x : Wave) : Wave := if x.uid == u then ((s1.wave? u).map Wave.pack).getD x else x
      { s1 with waves := s1.waves.filter (·.uid != u), saved := s1.saved.map fun v => { v with waves := v.waves.map back } }

/-- A status reaches the pushing party, which may be swapped out: d is written and the operation completes; an SVC resumes when it was
the last. -/
def State.answer (s : State) (f : Flight) (st : Status) : State :=
  match f.src with
  | none => s
  | some (i, lanes) => s.onWave i.wave fun s =>
      let s := s.writeLanes i.wave lanes (f.d.getD 0) (f.d.isNone || f.nw) f.hd st.reg
      let s := s.modWave i.wave fun w =>
        { w with thr := w.thr.dropFlight f.k, lanes := w.lanes.map fun l => { l with own := l.own.map fun t => t.dropFlight f.k } }
      let s := (((s.wave? i.wave).map Wave.spentOps).getD []).dedup.foldl (fun s k => s.finishOp i.wave k) s
      if f.svc && !s.flights.any (fun x => x.k != f.k && x.svc && x.src.any fun y => y.1 = i) then s.resumeAfter i else s

def State.dropFlight (s : State) (k : Nat) : State := { s with flights := s.flights.filter (·.k != k) }

/-- A status is final: it reaches the pushing party and the flight ends. -/
def State.settleFlight (s : State) (f : Flight) (st : Status) : State := (s.answer f st).dropFlight f.k

/-! ## Descriptors (R265) -/

/-- The three descriptors of a push. -/
structure Desc where
  key : BitVec 48
  cls : BitVec 4
  op : BitVec 4
  prio : BitVec 2
  car : Bool
  lvl : Bool
  target : BitVec 24
  sel : Nat
  deriving DecidableEq, Repr

def descOf (d0 d1 d2 : Word) : Desc :=
  { key := d1.extractLsb' 0 16 ++ d0, cls := d1.extractLsb' 16 4, op := d1.extractLsb' 20 4, prio := d1.extractLsb' 24 2,
    car := d1.getLsbD 26, lvl := d1.getLsbD 27, target := d2.extractLsb' 0 24, sel := (d2.extractLsb' 24 8).toNat }

/-- R265: whether the descriptors are in order; `classes` are those the instruction admits. -/
def descOk (classes : List (BitVec 4)) (d1 : Word) (d : Desc) : Bool :=
  d1.extractLsb' 28 4 == 0#4 && classes.contains d.cls && d.op.toNat < 14 && (d.op == 13#4) == (d.cls == clsCount) &&
  (!d.car || d.cls == clsCount) &&
  (if d.cls == clsMsg then d.target.extractLsb' 8 15 == 0#15 else d.target == 0#24)

/-- dest0: package, die, level and cluster, with the zero bits checked (R265). -/
def destOk (w : Word) : Bool :=
  w.extractLsb' 10 6 == 0#6 && w.extractLsb' 28 4 == 0#4 && (!w.getLsbD 6 || w.extractLsb' 0 6 == 0#6)

def destPkg (w : Word) : BitVec 12 := w.extractLsb' 16 12

def destRing (w : Word) : KrId :=
  let die := (w.extractLsb' 7 3).toNat
  if w.getLsbD 6 then .die die else .cluster die (w.extractLsb' 0 6).toNat

/-- The grid of a wave's team. -/
def Wave.gridOf (w : Wave) (s : State) : Option Nat := (s.team? w.team).bind (·.grid)

/-- The push of a wave's lane (R239, R29). -/
def wavePush (s : State) (w : Wave) (lane : Nat) (d : Desc) (ctx : BitVec 12) (words : List Word) : Push :=
  { key := d.key, cls := d.cls, op := d.op, prio := d.prio, car := d.car, stream := streamOf w d.sel, target := d.target, words := words,
    ctx := ctx, ident := if durable d.cls then some (w.ident, w.seq) else none, attempt := w.attempt, sender := senderWord s w lane,
    origin := none, parent := w.gridOf s, counts := false, job := none, spawn := none }

/-- What a lane's push instruction does: a status at once, or a push in flight. -/
inductive Sent where
  | status (st : Status)
  | push (kr : KrId) (p : Push) (remote : Option (BitVec 12))
  deriving DecidableEq, Repr

/-- Performs the pushes of the active lanes in ascending order: each lane's `g` gives its push from the state so far. -/
def pushLanes (f : EFmt) (v : View) (ret : Returns) (g : State → Wave → Nat → Lane → Sent) : List Nat → State → State × List Nat
  | [], s => (s, [])
  | i :: l, s =>
    match s.wave? v.w.uid with
    | none => (s, [])
    | some w =>
      match w.lanes[i]? with
      | none => pushLanes f v ret g l s
      | some x =>
        match g s w i x with
        | .status st => pushLanes f v ret g l (s.writeLanes w.uid [i] f.d.toNat false false st.reg)
        | .push kr p remote =>
          let s1 := s.launchFlight { plainFlight 0 kr p with
            src := some (v.iss, [i]), pipe := some (w.pipeOf i), d := some f.d.toNat, returns := ret, remote := remote } [w.pipeOf i]
          let s2 := if p.ident.isSome then s1.modWave w.uid fun w => { w with seq := w.seq + 1 } else s1
          let (s3, ks) := pushLanes f v ret g l s2
          (s3, s.uid :: ks)

/-- A push instruction of every active lane: lanes whose block fails trap ILLFLD. -/
def pushIns (sl : Slot) (f : EFmt) (ret : Returns) (ok : List Word → Bool) (g : State → Wave → Nat → Lane → Sent) (s : State) (v : View) :
    State :=
  match v.act.filter fun i => !(v.lane? i).any fun l => ok (l.block f) with
  | i :: is => s.trapLanes v sl ((i :: is).map fun i => (i, failFld7))
  | [] =>
    let (s1, ks) := pushLanes f v ret g v.act s
    (s1.awaitPush v f.tk f.d.toNat false ks).advance v.iss 1

/-! ## KPUSH, MSEND and KDEC (R266 to R268) -/

def kpushOk (b : List Word) : Bool :=
  descOk [clsMsg, clsCount, clsRed] (b.getD 1 0#32) (descOf (b.getD 0 0#32) (b.getD 1 0#32) (b.getD 2 0#32))

/-- KPUSH of one lane: to the own cluster or die keyring. -/
def kpushLane (f : EFmt) (s : State) (w : Wave) (i : Nat) (l : Lane) : Sent :=
  let b := l.block f
  let d := descOf (b.getD 0 0#32) (b.getD 1 0#32) (b.getD 2 0#32)
  if w.gw && !d.lvl then .status .refused
  else .push (if d.lvl then .die w.die else .cluster w.die w.clu) (wavePush s w i d w.ctx (b.drop 3)) none

def slotPush (op : Nat) (f : EFmt) (lo hi : Nat) : Slot := slotE op f f.count.toNat (f.count.toNat < lo || hi < f.count.toNat)

def execKpush (f : EFmt) (s : State) : Host.Outcome State Fault Refusal :=
  let sl := slotPush 0x0E0 f 3 15
  issue sl (pushIns sl f .arrival kpushOk (kpushLane f)) s

def execKpushAck (f : EFmt) (s : State) : Host.Outcome State Fault Refusal :=
  let sl := slotPush 0x0E1 f 3 15
  issue sl (pushIns sl f .acceptance kpushOk (kpushLane f)) s

/-- Whether a package is this one or another of the domain. -/
def State.inDomain (s : State) (p : BitVec 12) : Bool := p == s.pkgid || s.domain.contains p

/-- 13_gateways R421: the package that a push to a package is delivered to. -/
def State.standbyOf (s : State) (p : BitVec 12) : BitVec 12 :=
  if s.fenced.contains p then ((s.standby.find? fun e => e.1 == p).map (·.2)).getD p else p

/-- R267: a push to a keyring of the domain, or the status that turns it away. -/
def State.sendTo (s : State) (dest : Word) (p : Push) : Sent :=
  let pkg := s.standbyOf (destPkg dest)
  if !s.inDomain pkg then .status .nopeer
  else if s.fenced.contains pkg then .status .linkdown
  else .push (destRing dest) p (if pkg == s.pkgid then none else some pkg)

def msendOk (b : List Word) : Bool :=
  let d := descOf (b.getD 2 0#32) (b.getD 3 0#32) (b.getD 4 0#32)
  destOk (b.getD 0 0#32) && (b.getD 1 0#32).extractLsb' 13 19 == 0#19 &&
  ((b.getD 1 0#32).getLsbD 12 || (b.getD 1 0#32).extractLsb' 0 12 == 0#12) && descOk [clsMsg, clsRed] (b.getD 3 0#32) d && !d.lvl

def msendLane (f : EFmt) (s : State) (w : Wave) (i : Nat) (l : Lane) : Sent :=
  let b := l.block f
  let d := descOf (b.getD 2 0#32) (b.getD 3 0#32) (b.getD 4 0#32)
  let ctx := if (b.getD 1 0#32).getLsbD 12 then (b.getD 1 0#32).extractLsb' 0 12 else w.ctx
  s.sendTo (b.getD 0 0#32) (wavePush s w i d ctx (b.drop 5))

def execMsend (f : EFmt) (s : State) : Host.Outcome State Fault Refusal :=
  let sl := slotPush 0x0E7 f 5 17
  issue sl (pushIns sl f .acceptance msendOk (msendLane f)) s

def execMsendEdfen2 (f : EFmt) (s : State) : Host.Outcome State Fault Refusal :=
  let sl := slotPush 0x0E9 f 5 17
  issue sl (pushIns sl f .acceptance msendOk (msendLane f)) s

/-- R268: the amount of a KDEC: 1, or word 3. -/
def kdecAmount (b : List Word) : Word := if b.length = 3 then 1#32 else b.getD 3 0#32

def kdecOk (b : List Word) : Bool :=
  destOk (b.getD 0 0#32) && (b.getD 2 0#32).extractLsb' 16 16 == 0#16 && kdecAmount b != 0#32 && !(kdecAmount b).msb

def kdecLane (f : EFmt) (s : State) (w : Wave) (i : Nat) (l : Lane) : Sent :=
  let b := l.block f
  let d : Desc := { key := (b.getD 2 0#32).extractLsb' 0 16 ++ b.getD 1 0#32, cls := clsCount, op := 13#4, prio := 0#2, car := false,
                    lvl := false, target := 0#24, sel := 0 }
  s.sendTo (b.getD 0 0#32) (wavePush s w i d w.ctx [0#32 - kdecAmount b])

def execKdec (f : EFmt) (s : State) : Host.Outcome State Fault Refusal :=
  let sl := slotPush 0x0E8 f 3 4
  issue sl (pushIns sl f .acceptance kdecOk (kdecLane f)) s

def execKdecEdfen2 (f : EFmt) (s : State) : Host.Outcome State Fault Refusal :=
  let sl := slotPush 0x0EA f 3 4
  issue sl (pushIns sl f .acceptance kdecOk (kdecLane f)) s

/-! ## KBIND and KUNBIND (R269, R270) -/

/-- The port number in a source. -/
def portNo (p : Word) (x : Src) (l : Lane) : Except Fail Nat :=
  match l.srcAs .i32 p x with
  | .error e => .error e
  | .ok w => .ok w.toNat

/-- KBIND in a lane. -/
def kbindLane (w : Wave) (f : RFmt) (a : Nat) (pb : Word) (l : Lane) : Except Fail Lane :=
  if (List.range 4).any fun k => (l.reg (a + k)).tag = .none then .error failFmt
  else match portNo pb f.b l with
    | .error e => .error e
    | .ok q =>
      let r (k : Nat) : Word := (l.reg (a + k)).bits
      let cls := (r 1).extractLsb' 16 4
      let lvl := (r 1).getLsbD 24
      if (r 1).extractLsb' 20 4 != 0#4 || (r 1).extractLsb' 25 7 != 0#7 || (r 3).extractLsb' 16 16 != 0#16 || 9 < cls.toNat || 7 < q then
        .error failFld7
      else if (l.port q).bound || !([clsMsg, clsCount, clsRed].contains cls) || (w.gw && !lvl) then
        .ok (l.write f.d.toNat f.nw f.hd Status.refused.reg)
      else
        .ok ((l.setPort q { bound := true, lvl := lvl, cls := cls, mtch := (r 1).extractLsb' 0 16 ++ r 0,
                            mask := (r 3).extractLsb' 0 16 ++ r 2, buf := [], ridx := 0 }).write f.d.toNat f.nw f.hd Status.ok.reg)

/-- Field a of KBIND names a register that is a multiple of 4. -/
def quadReg (x : Src) : Option Nat :=
  match x with
  | .reg r => if r.toNat % 4 = 0 then some r.toNat else none
  | _ => none

def execKbind (f : RFmt) (s : State) : Host.Outcome State Fault Refusal :=
  let a := (quadReg f.a).getD 0
  let sl := slotR 0x0E4 f [a + 1, a + 2, a + 3] (quadReg f.a).isNone
  issue sl (fun s v => laneOp sl (fun _ _ pb l => kbindLane v.w f a pb l) s v) s

def execKunbind (f : RFmt) (s : State) : Host.Outcome State Fault Refusal :=
  let sl := slotR 0x0E5 f
  issue sl (laneOp sl fun _ pa _ l =>
    match portNo pa f.a l with
    | .error e => .error e
    | .ok q => if 7 < q then .error failFld7 else .ok (l.setPort q Port.reset)) s

/-! ## KPOP and KQRY (R271, R272) -/

/-- An image written to d to d+15 as I32. -/
def Lane.takeImage (l : Lane) (d : Nat) (img : List Word) : Lane :=
  (List.range 16).foldl (fun l k => l.setReg (d + k) (regI32 (img.getD k 0#32))) l

/-- KPOP's port of a lane: bound, 0 to 7. -/
def popPort (f : RFmt) (p : Word) (l : Lane) : Except Fail Nat :=
  match portNo p f.a l with
  | .error e => .error e
  | .ok q => if 7 < q || !(l.port q).bound then .error failFld7 else .ok q

/-- The pops of KPOP.NB, lane by lane: a lane that finds no record receives zeros. -/
def popNb (w : Wave) (d : Nat) : List (Nat × Nat) → State → State
  | [], s => s
  | (i, q) :: l, s =>
    let s := s.modLane w.uid i fun y => y.setPort q { y.port q with buf := [], ridx := 0 }
    match State.popRecs w [(i, q)] s with
    | some (s1, img :: _) => popNb w d l (s1.modLane w.uid i fun y => y.takeImage d img)
    | _ => popNb w d l (s.modLane w.uid i fun y => y.takeImage d [])

def slotPop (op : Nat) (f : RFmt) : Slot := slotR op f ((List.range 16).map (f.d.toNat + ·)) (f.d.toNat % 16 != 0)

def kpopBody (f : RFmt) (sl : Slot) (nb : Bool) (s : State) (v : View) : State :=
  let ports (w : Wave) (l : List (Nat × Word × Word)) : List (Nat × Except Fail Nat) :=
    l.filterMap fun e => (w.lanes[e.1]?).map fun x => (e.1, popPort f e.2.1 x)
  let fails (w : Wave) (l : List (Nat × Word × Word)) : List (Nat × Fail) :=
    (ports w l).filterMap fun e => match e.2 with | .error x => some (e.1, x) | .ok _ => none
  withPops sl s v v.act (fails v.w) fun s' l =>
    match s'.wave? v.w.uid with
    | none => s'
    | some w =>
      match fails w l with
      | e :: es => s.trapLanes v sl (e :: es)
      | [] =>
        let ps := (ports w l).filterMap fun e => match e.2 with | .ok q => some (e.1, q) | .error _ => none
        if nb then (popNb w f.d.toNat ps s').advance v.iss (1 + sl.nlits)
        else match State.popRecs w ps s' with
          | none => s.park v.iss (.records ps) sl
          | some (s1, imgs) =>
            ((ps.zip imgs).foldl (fun s e => s.modLane w.uid e.1.1 fun y => y.takeImage f.d.toNat e.2) s1).advance v.iss (1 + sl.nlits)

def execKpop (f : RFmt) (s : State) : Host.Outcome State Fault Refusal :=
  let sl := slotPop 0x0E2 f
  issue sl (kpopBody f sl false) s

def execKpopNb (f : RFmt) (s : State) : Host.Outcome State Fault Refusal :=
  let sl := slotPop 0x0E3 f
  issue sl (kpopBody f sl true) s

/-- Undispatched records of a context at a keyring, resident or spilled. -/
def Keyring.countOf (k : Keyring) (ctx : BitVec 12) (spilled : Bool) : Nat :=
  (k.recs.filter fun r => !r.dispatched && r.ctx == ctx && r.spilled == spilled).length

/-- Free resident records of a keyring. -/
def State.freeRecs (s : State) (k : KrId) : Nat := krCapacity k - s.residents k

/-- A count as I32, saturating at 0xFFFF_FFFF. -/
def saturate32 (n : Nat) : Word := BitVec.ofNat 32 (min n 0xFFFFFFFF)

/-- R272: KQRY's value. A gateway core has no cluster keyring, and the spec states no value there (log 23). -/
def kqryLane (s : State) (w : Wave) (l : Lane) (a b : Word) : Except Fail Word :=
  if a.extractLsb' 3 29 != 0#29 then .error failFld7
  else if a.extractLsb' 0 2 == 0#2 then
    if 7 < b.toNat || !(l.port b.toNat).bound then .error failFld7 else .ok (saturate32 (s.available w (l.port b.toNat)).length)
  else if b != 0#32 then .error failFld7
  else if w.gw && !a.getLsbD 2 then .ok (Config.freeQuery s.freeCtr)
  else
    let k : KrId := if a.getLsbD 2 then .die w.die else .cluster w.die w.clu
    .ok (saturate32 (if a.extractLsb' 0 2 == 1#2 then (s.ring k).countOf w.ctx false
      else if a.extractLsb' 0 2 == 2#2 then (s.ring k).countOf w.ctx true else s.freeRecs k))

def execKqry (f : RFmt) (s : State) : Host.Outcome State Fault Refusal :=
  let sl := slotR 0x0E6 f
  issue sl (fun s v => laneOpPost sl (fun s _ pa pb l =>
    match l.srcAs .i32 pa f.a, l.srcAs .i32 pb f.b with
    | .ok a, .ok b => match kqryLane s v.w l a b with
      | .error e => .error e
      | .ok x => .ok (l.write f.d.toNat f.nw f.hd (regI32 x))
    | .error e, _ | _, .error e => .error e) (fun s _ => { s with freeCtr := s.freeCtr + 1 }) s v) s

/-! ## Arrival (R242) -/

/-- Two pushes of one instruction of a fused wave. -/
def State.sameSlot (s : State) (f x : Flight) : Bool :=
  f.src.any fun e => (f.svc && x.svc && x.src.any fun y => y.1 = e.1) ||
    (s.view e.1).any fun v => v.thr.ops.any fun o => o.flights.contains f.k && o.flights.contains x.k

/-- R245: an earlier push from the same pipeline, or host port (01_ties R23), to the same keyring has not arrived, or one of a lower lane
by the same instruction. -/
def State.flightBehind (s : State) (f : Flight) : Bool :=
  (s.flights.takeWhile (·.k != f.k)).any fun x =>
    ((f.pipe.isSome && (x.pipe == f.pipe || s.sameSlot f x)) || (f.push.origin.isSome && x.push.origin == f.push.origin)) &&
    x.kr = f.kr && x.arrived.isNone && x.remote == f.remote

/-- R29: a push of an attempt after one that the keyring has accepted. A retried team's launches and spawns may reach another keyring by
their bearings and are known there too (11_schedulers R372, R375). -/
def State.duplicate (s : State) (f : Flight) : Bool :=
  match f.push.ident with
  | none => false
  | some (i, n) => s.journal.any fun j =>
    j.ident = i && j.seq == n && j.attempt < f.push.attempt && j.fired == f.carrier.isSome &&
    (f.push.cls == clsLaunch || f.push.cls == clsSpawn || j.kr = f.kr || (j.moved && (krDie? f.kr).any fun d => j.kr = .die d))

/-- The push of an earlier attempt has arrived and is not accepted yet: it will be known by its acceptance. -/
def State.twinPending (s : State) (f : Flight) : Bool :=
  f.push.ident.isSome && s.flights.any fun x => x.k != f.k && x.arrived.isSome && x.push.ident = f.push.ident &&
    x.push.attempt < f.push.attempt && x.carrier.isSome == f.carrier.isSome

/-- R264: the pusher's write key set holds the target context's message lock, or it is the pusher's own context. -/
def State.messageAllowed (s : State) (f : Flight) : Bool :=
  match f.srcCtx with
  | none => true
  | some c =>
    c == f.push.ctx ||
    match s.ctx? c, s.ctx? f.push.ctx with
    | some a, some b => a.wkey.getLsbD b.mlock.toNat
    | _, _ => false

/-- Whether the cores behind a keyring run. -/
def State.ringUp (s : State) (k : KrId) : Bool :=
  match krDie? k with
  | some n => s.running.contains n
  | none => s.hubUp

/-- R16: a context that takes no more work. -/
def State.ctxDead (s : State) (c : BitVec 12) : Bool :=
  match s.ctx? c with
  | none => true
  | some x => x.st = .teardown || x.st = .free

/-- A push that must be held in the end is not refused: it stays in flight (R252, 11_schedulers R372, R375). -/
def Flight.waits (f : Flight) : Bool := f.push.cls == clsFault || f.queue.isSome || f.carrier.isSome

/-- R258: where a push goes that arrives at a keyring its port's wave has left: to the keyring of the same level where the wave is, or was when
it was swapped out again. -/
def State.forwarded (s : State) (k : KrId) (p : Push) : KrId :=
  let r := p.newRec 0 0 p.words false
  let to1 (w : Wave) : Option KrId := (w.lanes.flatMap fun l => l.ports.toList).findSome? fun q =>
    if !(q.bound && q.takes w.ctx r) || w.portRing q = k then none
    else match k with
      | .cluster d c => if !q.lvl && w.former.contains (d, c) then some (w.portRing q) else none
      | .die d => if q.lvl && w.former.any (fun x => x.1 == d) then some (w.portRing q) else none
      | .hub => none
  ((s.waves ++ s.saved.flatMap (·.waves)).findSome? to1).getD k

/-- The control word of a block: bearing, PRIO, stream selector. -/
def ctlBearing (w : Word) : Nat := fld w 0 4
def ctlPrio (w : Word) : BitVec 2 := w.extractLsb' 8 2
def ctlSel (w : Word) : Nat := fld w 16 8
/-- A thread's memory slot is done: nothing of it is left to replay. -/
def State.clearReplay (s : State) (i : Issuer) : State := s.modThr i fun t => { t with replay := 0#32, replayVals := [] }

/-- An entry of a wave's pending-launch queue is taken: words 0 to 3 are built by R357. -/
def State.queueLaunch (s : State) (v : View) (b : List Word) : State :=
  let st := streamOf v.w (ctlSel (b.getD 0 0#32))
  let p : Push :=
    { key := 0#48, cls := clsLaunch, op := 0#4, prio := ctlPrio (b.getD 0 0#32), car := false, stream := st,
      target := BitVec.ofNat 24 (ctlBearing (b.getD 0 0#32) + 16 * (v.w.depth.toNat + 1)), words := b.drop 1, ctx := v.w.ctx,
      ident := some (v.w.ident, v.w.seq), attempt := v.w.attempt, sender := senderWord s v.w v.low, origin := none,
      parent := v.w.gridOf s, counts := true, job := none, spawn := none }
  let s := s.l1Release v.w.pipes
  let s := s.modTeam v.w.team fun t => { t with launchq := t.launchq ++ [⟨s.uid, .die v.w.die, p, false, false, none⟩] }
  { s with uid := s.uid + 1 }.modWave v.w.uid fun w => { w with seq := w.seq + 1 }

/-- A LAUNCH of a team that is parked on the full queue, with its block and d. -/
def State.parkedLaunch (s : State) (team : Nat) : Option (View × List Word × Nat) :=
  (s.teamWaves team).findSome? fun w => (w.issuers.filterMap s.view).findSome? fun v =>
    match v.thr.wait with
    | .launchQueue b d => if v.thr.st = .parked then some (v, b, d) else none
    | _ => none

/-- R372: a parked LAUNCH takes the entry that has freed, in the same event. -/
def State.giveEntry (s : State) (team : Nat) : State :=
  match s.parkedLaunch team with
  | some (v, b, d) =>
    if (s.team? team).any fun t => t.launchq.length < 4 then
      ((s.queueLaunch v b).writeLanes v.w.uid v.act d false false Status.ok.reg).resumeAfter v.iss
    else s
  | none => s

/-- What waits for a push's acceptance: the entry of a pending-launch queue is freed (11_schedulers R372), a carrier completes
(R375). -/
def State.released (s : State) (f : Flight) : State :=
  let s : State := match f.queue with
    | some t => (s.modTeam t fun x => { x with launchq := x.launchq.filter fun e => !(e.sent && e.push.ident = f.push.ident) }).giveEntry t
    | none => s
  match f.carrier with
  | some (k, u) => s.modRing k fun ring => ring.drop u
  | none => s

/-- The flight's record after its arrival. -/
def State.arriveFlight (s : State) (f : Flight) : State :=
  let kr := s.forwarded f.kr f.push
  let at0 := s.ring kr
  match s.arrive kr f.push with
  | (s, none) => if f.waits then s else s.settleFlight f .refused
  | (s0, some r) =>
    let (s, now) : State × Nat := ({ s0 with uid := s0.uid + 1 }, s0.uid)
    let s : State := match f.queue with
      | none => s
      | some q => s.modTeam q fun t =>
          { t with launchq := t.launchq.map fun (e : QEntry) => if e.sent && e.push.ident = f.push.ident then { e with arrived := true } else e }
    if !durable f.push.cls then s.settleFlight f .ok
    else
      let s := if f.returns = .arrival then s.answer f .ok else s
      { s with flights := s.flights.map fun x =>
          if x.k == f.k then { x with arrived := some r, kr := kr, pushedTo := f.kr, apos := now, undo := at0.recs.find? (·.uid == r),
                                      src := if f.returns = .arrival then none else x.src } else x }

/-- KEYRING_PUSH_ARRIVAL of a push. -/
def execKeyringPushArrival (k : Nat) (s : State) : Host.Outcome State Fault Refusal :=
  match s.flights.find? (·.k == k) with
  | none => .next s
  | some f =>
    if f.arrived.isSome || f.remote.isSome || s.flightBehind f then .next s
    else if s.ctxDead f.push.ctx then .next ((s.settleFlight f .torn).released f)
    else if !krHolds f.kr f.push.cls then .next (s.settleFlight f .refused)
    else if !s.ringUp f.kr then .next (if f.waits then s else s.settleFlight f .broken)
    else if !s.messageAllowed f then .next (s.settleFlight f .refused)
    else if s.duplicate f then .next ((s.settleFlight f .ok).released f)
    else if s.twinPending f then .next s
    else .next (s.arriveFlight f)

/-! ## Promotion, spill and handler messages -/

/-- R249: promotion of a record that 2^16 dispatch selections have passed, and its count restarts there. -/
def execKeyringPromote (kr : KrId) (k : Nat) (s : State) : Host.Outcome State Fault Refusal :=
  .next (s.modRing kr fun ring => ring.modRec k fun r =>
    if !r.dispatched && 2 ^ 16 ≤ r.age && r.prio != 3#2 then { r with prio := r.prio + 1#2, age := r.age - 2 ^ 16 } else r)

/-- R251: the earliest spilled record returns to a free resident slot. -/
def execSpillRecordReturn (kr : KrId) (s : State) : Host.Outcome State Fault Refusal :=
  match (s.ring kr).recs.filter fun r => r.spilled && !r.dispatched && (s.ctx? r.ctx).any fun c => c.st = .live with
  | [] => .next s
  | r :: rs =>
    if s.freeRecs kr = 0 then .next s
    else
      let first := rs.foldl (fun a x => if x.pos < a.pos then x else a) r
      .next (s.modRing kr fun ring => ring.modRec first.uid fun x => { x with spilled := false })

/-- Slots of a pipeline that resident waves hold (R99). -/
def State.usedSlots (s : State) (p : PipeId) : List (BitVec 3) :=
  (s.waves.filter fun w => w.die == p.die && w.gw == p.gw && w.clu == p.clu && w.base ≤ p.pipe && p.pipe < w.base + w.width).filterMap
    fun w => (w.lanes[p.pipe - w.base]?).map (·.slotNo)

/-- The lowest EMPTY slot of a pipeline. -/
def State.freeSlot (s : State) (p : PipeId) : Option (BitVec 3) :=
  ((List.range 8).map (BitVec.ofNat 3)).find? fun k => !(s.usedSlots p).contains k

/-- R145: the pipeline that would take a message handler on a cluster. -/
def State.handlerPipe (s : State) (die clu : Nat) : Option Nat :=
  (List.range 32).find? fun p => (s.freeSlot ⟨die, false, clu, p⟩).isSome && 16 ≤ s.poolFree ⟨die, false, clu, p⟩

/-- R146: a cluster of a context's handler set that holds its named regions. -/
def State.handlerCluster (s : State) (c : Ctx) (die clu : Nat) : Bool :=
  (c.hset.getD die 0#64).getLsbD clu &&
  (c.nrg.sum = 0 || s.resvs.any fun r => r.ctx == c.id && r.die == die && r.clu == clu)

/-- R145, R263: a record that a cluster could start a handler for. -/
def State.handlerRec (s : State) (die clu : Nat) (r : Rec) : Bool :=
  r.cls == clsMsg && r.target.getLsbD 23 && (s.ctx? r.ctx).any fun c => c.st = .live && s.handlerCluster c die clu

/-- A wave just created, with everything that R101 gives it. -/
def Wave.fresh (uid : Nat) (ctx : BitVec 12) (team die clu base bregs : Nat) (gw : Bool) (lanes : List Lane) (thr : Thread) (stream : BitVec 15)
    (ident : Ident) : Wave :=
  let full := BitVec.ofNat 32 (2 ^ lanes.length - 1)
  { uid := uid, ctx := ctx, team := team, die := die, gw := gw, clu := clu, base := base, bregs := bregs, xregs := 0, lanes := lanes,
    thr := thr, live := full, memb := full, dstk := [], detach := false, jpoint := 0#54, jslot := 0, jmask := 0#32, age := 0, passed := 0,
    resv := false, stream := stream, ident := ident, seq := 0, attempt := 0, handler := false, creator := 0, notifyAt := none,
    teamIndex := 0#32, gridx := 0#32, gridy := 0#32, gridz := 0#32, depth := 0#4, former := [], packed := [] }

/-- A lane as R101 creates it: the context's trap vector, and every register NONE. -/
def Lane.fresh (uid : Nat) (tvec : BitVec 54) (waveid : BitVec 5) (slot : BitVec 3) : Lane :=
  { regs := Vector.replicate 64 Reg.empty, l0 := none, l1 := none, l2 := none, frm := 0#32, flags := 0#32, qsc := 0#32, ftz := 0#32,
    trapvec := tvec.extractLsb' 0 32, trapvecHi := tvec.extractLsb' 32 22, trapcause := 0#32, trapaddr := 0#32, traplanes := 0#32,
    epc := 0#32, epcHi := 0#22, sh0 := none, sh1 := none, sh2 := none, divthr := 8#32, regxwait := 0x100000#32, msgsrc := 0#32, waveid := waveid,
    slotNo := slot, uid := uid, ports := Vector.replicate 8 Port.reset, own := none, priv := [], held := [] }

/-- The windows of a new wave: w7 spans its scratchpad (R101; 05_memory R152). -/
def freshWins (size : Nat) : Vector Window 8 :=
  (Vector.replicate 8 Window.invalid).setIfInBounds 7
    { valid := true, kind := true, base := 0#54, limit := BitVec.ofNat 31 size, run := false, frame := 0#57, attr := 0#17 }

/-- A team with nothing used yet. -/
def Team.fresh (uid : Nat) (ctx : BitVec 12) (die clu : Nat) : Team :=
  { uid := uid, ctx := ctx, die := die, clu := clu, grid := none, lead := 0, width := 1, bregs := 16, waves := 1, tiles := 0, stKiB := 0,
    energy := 0, scrBase := 0, stBase := 0, placedAt := 0, ent := none, nrg := false, scratchSize := 0, scratch := [],
    barriers := Vector.replicate 16 Barrier.reset, rendezvous := [], region := none, rsv := 0, acc := [], ssm := [],
    rings := Vector.replicate 8 Ring.reset, live := none, mjobs := JobTab.empty, sjobs := JobTab.empty, cjobs := JobTab.empty,
    kjobs := JobTab.empty, ssthr := 0, cc := Vector.replicate 8 0#32, ccWrote := [], ccQ := [], launchq := [], gone := false }

/-- The entry header of a handler of a context (R263): bits 53:0 of its entry of the table; bits 63:54 are ignored (log 89). -/
def State.handlerEntry (s : State) (c : Ctx) (h : Nat) : BitVec 54 := BitVec.ofNat 54 (s.physNat (c.htab.toNat + 8 * h) 8)

/-- R145: a message handler starts for a record on a pipeline. -/
def State.startHandler (s : State) (die clu p : Nat) (slot : BitVec 3) (c : Ctx) (r : Rec) : State :=
  let s := s.dispatch (.cluster die clu) r.uid (.handler (s.uid + 1))
  let size := 4096 * c.nrg.sum
  let (s, t) := s.fresh
  let (s, u) := s.fresh
  let (s, st) := s.newStream c.id die
  let (s, lu) := s.fresh
  let l := Lane.fresh lu c.tvec 0#5 slot
  let l := (List.range 12).foldl (fun l k => l.setReg k (regI32 (r.deliver.payload.getD k 0#32))) l
  let w := Wave.fresh u c.id t die clu p 16 false [{ l with msgsrc := r.sender }]
    (Thread.start (s.handlerEntry c (r.target.extractLsb' 0 8).toNat) (freshWins size)) st ⟨r.uid, 0, 0⟩
  let team := { Team.fresh t c.id die clu with nrg := true, scratchSize := size, lead := lu }
  let s0 := { s with teams := s.teams ++ [team] }
  ({ s0 with waves := s0.waves ++ [{ w with attempt := r.attempt, handler := true, creator := r.uid, depth := 10#4,
                                            age := s0.youngest }] }).l1Acquire [⟨die, false, clu, p⟩]

/-- MESSAGE_HANDLER_START on a cluster. -/
def execMessageHandlerStart (die clu : Nat) (s : State) : Host.Outcome State Fault Refusal :=
  if !s.running.contains die then .next s
  else match s.handlerPipe die clu, (s.ring (.cluster die clu)).select (s.handlerRec die clu) with
    | some p, some r =>
      match s.ctx? r.ctx, s.freeSlot ⟨die, false, clu, p⟩ with
      | some c, some slot => .next (s.startHandler die clu p slot c r)
      | _, _ => .next s
    | _, _ => .next s

/-- HANDLER_MSG_MOVE (R263): the die keyring's next handler record moves to the lowest cluster that can take it. -/
def execHandlerMsgMove (die clu : Nat) (s : State) : Host.Outcome State Fault Refusal :=
  let can (r : Rec) (c : Nat) : Bool := s.handlerRec die c r && (s.handlerPipe die c).isSome && (s.room (.cluster die c) r.ctx).isSome
  let ring := s.ring (.die die)
  match ring.select fun r => r.cls == clsMsg && r.target.getLsbD 23 && (List.range Config.clusters).any (can r) with
  | none => .next s
  | some r =>
    if !s.running.contains die || (List.range Config.clusters).find? (can r) ≠ some clu then .next s
    else
      let s := s.setRing (.die die) { recs := (ring.drop r.uid).recs.map fun x => if x.dispatched then x else { x with age := x.age + 1 },
                                      next := ring.next + 1 }
      .next ((s.insertRec (.cluster die clu) { r.deliver.aged with latched := true, age := 0 }).followRec r.uid (.cluster die clu))

end Sys2Proof.Machine
end

