-- ==== Sys2Proof/Machine/Engine.lean ====
section
/-! DEFINITION. What the matrix engine, the state-space control block, the copy unit and the stack engines share: job tables and
completion words, pushing and dispatching job records, a job's accesses to memory and scratchpad, its faults, and the update of
R98 (spec/08_matrix, 09_statespace, 10_copy, 12_stack; 03_numbers R98). -/

namespace Sys2Proof.Machine

/-! ## Job tables -/

/-- The identifier a table gives next (08_matrix R288). -/
def JobTab.nextId (t : JobTab) : Nat := t.issued % 65535 + 1

/-- The entry of the most recent job that bore an identifier, while the table has it: identifiers come again after 65,535 jobs. -/
def JobTab.find (t : JobTab) (id : Nat) : Option JobEnt := t.ents.reverse.find? fun e => e.id == id && t.issued < e.serial + 65535

def JobTab.outstanding (t : JobTab) : Nat := (t.ents.filter fun e => e.st = .pending).length

/-- The ended entry that ended longest ago, by its position. -/
def oldestEnded : List JobEnt → Nat → Option (Nat × Nat)
  | [], _ => none
  | e :: l, i =>
    match oldestEnded l (i + 1) with
    | none => if e.st = .pending then none else some (i, e.ended)
    | some (j, x) => if e.st = .pending || x < e.ended then some (j, x) else some (i, e.ended)

/-- A new pending entry; the job that ended longest ago gives way in a full table. -/
def JobTab.issue (t : JobTab) (cap : Nat) : JobTab :=
  let ents := if t.ents.length < cap then t.ents
    else match oldestEnded t.ents 0 with | some (i, _) => t.ents.eraseIdx i | none => t.ents
  { t with issued := t.issued + 1
           ents := ents ++ [⟨t.issued + 1, t.nextId, .pending, false, 0, 0#32, 0, 0, false, 0, 0, []⟩] }

/-- The pending entry of a job changed. -/
def JobTab.upd (t : JobTab) (serial : Nat) (f : JobEnt → JobEnt) : JobTab :=
  { t with ents := t.ents.map fun e => if e.serial == serial && e.st = .pending then f e else e }

/-- A job ends. -/
def JobTab.finish (t : JobTab) (serial : Nat) (f : JobEnt → JobEnt) : JobTab :=
  { t with clock := t.clock + 1 }.upd serial fun e => { f e with ended := t.clock + 1 }

def JobState.code : JobState → Nat
  | .done => 0 | .pending => 1 | .cancelled => 2 | .fault => 3

/-- INV, OVF, UNF, INX and SAT from bit 16 of a completion word. -/
def flagBits (f : Word) : Nat :=
  (if f.getLsbD 0 then 2 ^ 16 else 0) + (if f.getLsbD 2 then 2 ^ 17 else 0) + (if f.getLsbD 3 then 2 ^ 18 else 0) +
  (if f.getLsbD 4 then 2 ^ 19 else 0) + (if f.getLsbD 5 then 2 ^ 20 else 0)

/-- The completion word of an entry (08_matrix R290, 09_statespace R322, 10_copy R343, 12_stack R396). -/
def JobEnt.word (e : JobEnt) (eng : Engine) : Word :=
  let low := e.st.code + (if e.rd then 4 else 0) + (if e.st = .fault then e.cause * 256 else 0)
  BitVec.ofNat 32 (match eng with
    | .matrix => low + flagBits e.flags + (if e.st = .fault then e.prog * 2 ^ 24 else 0)
    | .sspace => low + flagBits e.flags + (if e.tailrec then 2 ^ 21 else 0)
    | .copy => low + (if e.oor = 0 then 0 else 32) + min e.oor 0xFFFF * 2 ^ 16
    | .stack => low + flagBits e.flags + (if e.oor = 0 then 0 else 32) + min e.oor 0x7FF * 2 ^ 21)

/-- What a wait or a query finds for an identifier. -/
def JobTab.word (t : JobTab) (eng : Engine) (id : Nat) : Word :=
  match t.find id with
  | some e => e.word eng
  | none => if 1 ≤ id && id ≤ t.issued then 8#32 else 16#32

def Team.tab (t : Team) (e : Engine) : JobTab :=
  match e with
  | .matrix => t.mjobs
  | .sspace => t.sjobs
  | .copy => t.cjobs
  | .stack => t.kjobs

def Team.setTab (t : Team) (e : Engine) (x : JobTab) : Team :=
  match e with
  | .matrix => { t with mjobs := x }
  | .sspace => { t with sjobs := x }
  | .copy => { t with cjobs := x }
  | .stack => { t with kjobs := x }

/-- Entries of a table: 256 for matrix and copy jobs, 64 for state-space and stack jobs. -/
def jobCap (e : Engine) : Nat := match e with | .matrix | .copy => 256 | .sspace | .stack => 64

def State.tab (s : State) (team : Nat) (e : Engine) : JobTab := ((s.team? team).map (·.tab e)).getD JobTab.empty

/-- A team's table changed wherever the team is: resident, or swapped out while a record that its identifier was folded into is not. -/
def State.modTab (s : State) (team : Nat) (e : Engine) (f : JobTab → JobTab) : State :=
  let g (t : Team) : Team := t.setTab e (f (t.tab e))
  { s.modTeam team g with saved := s.saved.map fun v => if v.team.uid == team then { v with team := g v.team } else v }

/-! ## Instructions that act once for the wave on a record block -/

/-- The descriptor words of the lowest active lane. -/
def View.block (v : View) (f : EFmt) : List Word := ((v.lane? v.low).map (·.block f)).getD []

/-- A job-pushing instruction: the checks at step 7 in their order, the waits at issue, and the push. Its failures are those of
the lowest active lane; a gateway core without the engine traps ILLFLD. -/
def jobIns (sl : Slot) (f : EFmt) (gwOk : Bool) (check : State → View → List Word → Option Fail) (busy : State → View → List Word → Bool)
    (push : State → View → List Word → State) (s : State) (v : View) : State :=
  if v.w.gw && !gwOk then s.trapAll v sl failFld7
  else match check s v (v.block f) with
    | some e => s.trapAll v sl e
    | none => if busy s v (v.block f) then s else push s v (v.block f)

/-- R245: an earlier push of the wave's pipeline to its cluster keyring has not arrived. -/
def State.ringBusy (s : State) (v : View) : Bool :=
  s.flights.any fun f => f.kr = .cluster v.w.die v.w.clu && f.arrived.isNone && f.pipe == some (v.w.pipeOf v.low)

/-- A job record arrives at the cluster keyring and d takes its identifier (08_matrix R301); a record that cannot be held makes the
instruction wait at issue (R252). -/
def State.pushJob (s0 : State) (v : View) (f : EFmt) (cls : BitVec 4) (op : BitVec 4) (key : Nat → BitVec 48) (j : JobDesc) : State :=
  let id := (s0.tab v.w.team j.eng).nextId
  let s := s0.l1Release v.w.pipes
  let s := s.modTab v.w.team j.eng fun t => t.issue (jobCap j.eng)
  let p : Push := { key := key id, cls := cls, op := op, prio := 0#2, car := false, stream := 0#15, target := BitVec.ofNat 24 id,
                    words := j.desc.take 12, ctx := v.w.ctx, ident := none, attempt := v.w.attempt, sender := senderWord s v.w v.low,
                    origin := none, parent := none, counts := false,
                    job := some { j with id := id, serial := (s0.tab v.w.team j.eng).issued + 1 }, spawn := none }
  match s.arrive (.cluster v.w.die v.w.clu) p with
  | (_, none) => s0
  | (s, some _) => (s.writeLanes v.w.uid v.act f.d.toNat false false (regI32 (BitVec.ofNat 32 id))).advance v.iss 1

/-- The descriptor a wave's job captures: `place` is the wave's slot at the push (log 93). -/
def View.desc (v : View) (s : State) (e : Engine) (op : Nat) (b : List Word) (wins : List Window) (n : Nat) : JobDesc :=
  { eng := e, op := op, ctx := v.w.ctx, team := v.w.team, id := 0, serial := 0, desc := b, place := whereWord s v.w v.low, wins := wins, n := n,
    region := (s.team? v.w.team).bind (·.region) }

/-! ## Ranges checked at issue -/

/-- An address of two descriptor words. -/
def addr2 (lo hi : Word) : Nat := lo.toNat + 2 ^ 32 * hi.toNat

/-- An address outside the 54-bit space or in the spill range; the scratchpad aperture is a range of its own (05_memory R149). -/
def addrBad (a : Int) : Bool := a < 0 || (2 ^ 54 : Int) ≤ a || ((spillBase : Int) ≤ a && a < (apertureBase : Int))

/-- A range whose first or last byte lies there. -/
def rangeBad (first last : Int) : Bool := addrBad first || addrBad last

/-- PROT with a memory address. -/
def failRange (first last : Int) : Option Fail :=
  if !rangeBad first last then none
  else
    -- the end that lies outside is the one reported
    let bad := if addrBad first then first else last
    some ⟨.prot, some (BitVec.ofInt 64 bad), true⟩

/-- PROT with a scratchpad offset. -/
def failScratch (off : Word) : Fail := ⟨.prot, some (off.setWidth 64), true⟩

/-- ALIGN with an address or offset. -/
def failAlign (a : Nat) : Fail := ⟨.align, some (BitVec.ofNat 64 a), true⟩

/-- The first failure of a list of checks in order. -/
def firstFail : List (Option Fail) → Option Fail
  | [] => none
  | some f :: _ => some f
  | none :: l => firstFail l

def failIf (c : Bool) (f : Fail) : Option Fail := if c then some f else none

/-! ## Dispatch -/

/-- Dispatched jobs of an engine of a cluster that have not ended. -/
def State.jobsOf (s : State) (e : Engine) (die clu : Nat) : List Job := s.jobs.filter fun j => j.d.eng = e && j.die == die && j.clu == clu

def jobCls (e : Engine) : BitVec 4 := match e with | .matrix => clsMjob | .sspace => clsSjob | .copy => clsCjob | .stack => clsMjob

/-- A selection by an engine of its next record, with the acquire of the push (R248, R287, R319, R345). The records of a team that
is not resident are withheld. -/
def State.dispatchJob (s : State) (e : Engine) (die clu cap : Nat) : State :=
  let k := KrId.cluster die clu
  if !s.running.contains die || cap ≤ (s.jobsOf e die clu).length then s
  else match (s.ring k).select fun r => r.cls == jobCls e && r.job.any (fun j => (s.team? j.team).isSome) &&
      (s.ctx? r.ctx).any fun c => c.st = .live with
    | none => s
    | some r =>
      match r.job with
      | none => s
      | some d =>
        let s := (s.dispatch k r.uid .engine).taken k r.uid
        { s with
          jobs := s.jobs ++ [{ k := s.uid, d := d, ids := r.jobIds, die := die, clu := clu, done := 0, rd := false, suspended := false,
                               stalled := false, faultVa := 0, unresolved := false, data := [], fault := none, flags := 0#32, oor := 0,
                               row := 0, units := [] }]
          uid := s.uid + 1 }

def State.job? (s : State) (k : Nat) : Option Job := s.jobs.find? (·.k == k)
def State.modJob (s : State) (k : Nat) (f : Job → Job) : State := { s with jobs := s.jobs.map fun j => if j.k == k then f j else j }

/-- Bytes that a job names: a space, whose it is, first and one past last, and whether it writes them. Spaces: 0 memory by a context's
virtual address, 1 a team's scratchpad, 2 tiles, 3 state memory, 4 weight slots, 5 rings, 6 memory by physical address, 7 named regions. -/
structure Area where
  space : Nat
  own : Nat
  lo : Int
  hi : Int
  wr : Bool
  deriving DecidableEq, Repr

def Area.clash (a b : Area) : Bool := a.space == b.space && a.own == b.own && a.lo < b.hi && b.lo < a.hi && (a.wr || b.wr)

/-- Two jobs conflict when one writes what the other reads or writes (08_matrix R289). -/
def areasClash (a b : List Area) : Bool := a.any fun x => b.any x.clash

/-- A range cut at 256 KiB boundaries, as (address, length). -/
def cutPages : Nat → Nat → Nat → List (Nat × Nat)
  | 0, _, _ => []
  | fuel + 1, a, n =>
    if n = 0 then []
    else
      let k := min n (2 ^ 18 - a % 2 ^ 18)
      (a, k) :: cutPages fuel (a + k) (n - k)

/-- What a named range stands for: memory by its physical address where it translates, a handler's scratchpad as the named regions of its
context, and the weight slots that an array job reads as its image's. -/
def State.physArea (s : State) (a : Area) : List Area :=
  match a.space with
  | 0 => (cutPages ((a.hi - a.lo).toNat / 2 ^ 18 + 2) a.lo.toNat (a.hi - a.lo).toNat).map fun e =>
    match (s.ctx? (BitVec.ofNat 12 a.own)).map fun c => s.walk c e.1 with
    | some (.leaf l p) => { a with space := 6, own := 0, lo := leafAddr l p e.1, hi := leafAddr l p e.1 + e.2 }
    | _ => { a with lo := e.1, hi := e.1 + e.2 }
  | 1 => match s.team? a.own with
    | some t => if t.nrg then [{ a with space := 7, own := t.scratchErr.2 }] else [a]
    | none => [a]
  | 4 =>
    if a.wr then [a]
    else
      let im := ((s.clusters.find? fun c => c.1.1 * 64 + c.1.2 == a.own).map (·.2)).bind fun c => c.images.find? fun w => (w.slot : Int) == a.lo
      [{ a with hi := a.lo + ((im.map (·.len)).getD 1 : Nat) }]
  | _ => [a]

/-- The areas that a job names: a memory range in the scratchpad aperture is its team's scratchpad (05_memory R149, log 88). -/
def State.jobAreas (s : State) (areas : Job → List Area) (j : Job) : List Area :=
  (areas j).flatMap fun a =>
    s.physArea (if a.space = 0 && (apertureBase : Int) ≤ a.lo then { a with space := 1, own := j.d.team, lo := a.lo - apertureBase, hi := a.hi - apertureBase }
      else a)

/-- The most dispatched jobs that an engine of a cluster holds (R287, R319, R345). -/
def engineCap (e : Engine) : Nat := match e with | .matrix => 8 | .sspace => 4 | .copy => 16 | .stack => 64

/-- R289, R321, R345: the engine holds the job, and every job dispatched earlier from the same keyring that conflicts with it has ended. -/
def State.jobFree (s : State) (areas : Job → List Area) (j : Job) : Bool :=
  let before := (s.jobsOf j.d.eng j.die j.clu).takeWhile (·.k != j.k)
  before.length < engineCap j.d.eng && !before.any fun i => areasClash (s.jobAreas areas i) (s.jobAreas areas j)

/-! ## Accesses of a job -/

/-- Why a job's access does not go on: a translation that is invalid or malformed, a fault with its cause, or a page whose
accesses stall. -/
inductive JobStop where
  | miss (va : Nat) (malformed : Bool)
  | fault (cause : Nat)
  | wait
  deriving DecidableEq, Repr

/-- How a job reads and writes a COMP page: as stored bytes, or expanded. -/
inductive CompMode where
  | stored | expanded
  deriving DecidableEq, Repr

/-- Translation and the checks of R158 for one piece of a job's access. -/
def State.jobPiece (s : State) (j : Job) (c : CompMode) (k : Access) (va n : Nat) : State × Except JobStop Piece :=
  if j.unresolved && va ≤ j.faultVa && j.faultVa < va + n then (s, .error (.fault 6))
  else match s.translate j.die j.d.ctx va with
  | (s, .fault m) => (s, .error (.miss va m))
  | (s, .leaf l p) =>
    let attr := p.extractLsb' 0 17
    let pa := leafAddr l p va
    let ok := (s.ctx? j.d.ctx).any fun x => permits x k attr
    let declared := match s.team? j.d.team with
      | some t => t.region
      | none => j.d.region
    let region := match declared with
      | some (lo, hi) => lo ≤ va && va + n ≤ hi
      | none => true
    if !ok || (k = .write && (!region || (attrComp attr && !attrExpand attr && c = .expanded))) then (s, .error (.fault 7))
    else if s.isFenced pa then (s, .error (.fault 11))
    else if s.frozenIn pa n then (s, .error .wait)
    else if k = .write && attrComp attr && c = .expanded then (s.startExpand j.d.ctx va ⟨pa, n, attr⟩, .error .wait)
    else (s, .ok ⟨pa, n, attr⟩)

/-- The pieces of a range. -/
def State.jobPieces (j : Job) (c : CompMode) (k : Access) : List (Nat × Nat) → State → State × Except JobStop (List Piece)
  | [], s => (s, .ok [])
  | (a, n) :: l, s =>
    match s.jobPiece j c k a n with
    | (s, .error e) => (s, .error e)
    | (s, .ok p) =>
      match State.jobPieces j c k l s with
      | (s, .error e) => (s, .error e)
      | (s, .ok ps) => (s, .ok (p :: ps))

/-- A byte of a page as an engine reads it; none for an uncorrectable error or a malformed COMP unit. -/
def State.engineByte (s : State) (die : Nat) (c : CompMode) (attr : BitVec 17) (a : Nat) : Option Byte :=
  let a := replicaAddr die attr a
  if c = .stored then (if s.bad.contains a then none else some (memGet s.mem a)) else s.pageByte attr a

/-- All of a list of optional values, or none. -/
def allSome {α : Type} : List (Option α) → Option (List α)
  | [] => some []
  | none :: _ => none
  | some x :: l => (allSome l).map (x :: ·)

/-- The scratchpad of a team: its own, or a handler's named regions (R146). -/
def State.teamScratch (s : State) (team : Nat) : List Host.Cell :=
  match s.team? team with
  | none => []
  | some t => if t.nrg then assocGet s.nrgs (t.ctx.toNat, t.die, t.clu) [] else t.scratch

def State.teamScratchPut (s : State) (team a : Nat) (l : List Byte) : State :=
  match s.team? team with
  | none => s
  | some t =>
    if t.nrg then { s with nrgs := assocSet s.nrgs (t.ctx.toNat, t.die, t.clu) (memPuts (s.teamScratch team) a l) }
    else s.modTeam team fun t => { t with scratch := memPuts t.scratch a l }

/-- Where a job's access of `n` bytes at a virtual address goes: to the pages, or in the scratchpad aperture to its team's scratchpad
(05_memory R149, R150; log 88). -/
def State.jobTarget (s : State) (j : Job) (c : CompMode) (k : Access) (va n : Nat) : State × Except JobStop Target :=
  if apertureBase ≤ va then
    (s, if (s.team? j.d.team).any fun t => va - apertureBase + n ≤ t.scratchSize then .ok (.scratch (va - apertureBase)) else .error (.fault 7))
  else match State.jobPieces j c k (cutPages (n / 2 ^ 18 + 2) va n) s with
    | (s, .error e) => (s, .error e)
    | (s, .ok ps) => (s, .ok (.pages ps))

/-- The `n` bytes at a job's target; none for an uncorrectable error. -/
def State.targetBytes (s : State) (j : Job) (c : CompMode) (n : Nat) : Target → Option (List Byte)
  | .scratch o => if s.scratchErred j.d.team o n then none else some (memGets (s.teamScratch j.d.team) o n)
  | .pages ps => allSome (ps.flatMap fun p => (List.range p.len).map fun i => s.engineByte j.die c p.attr (p.pa + i))

/-- A job's read of `n` bytes at a virtual address. -/
def State.jobRead (s : State) (j : Job) (c : CompMode) (va n : Nat) : State × Except JobStop (List Byte) :=
  match s.jobTarget j c .read va n with
  | (s, .error e) => (s, .error e)
  | (s, .ok t) =>
    match s.targetBytes j c n t with
    | some l => (s, .ok l)
    | none => (s, .error (.fault 11))

/-- Bytes written to the pieces of a range, through a die's L2 or at their homes. -/
def State.putPieces (die : Option Nat) : List Piece → List Byte → State → State
  | [], _, s => s
  | p :: ps, l, s => State.putPieces die ps (l.drop p.len) (s.pageWrite die p.attr p.pa (l.take p.len))

/-- The 128-byte lines of some pieces, in every replica of a page that has them (05_memory R159). -/
def pieceLines (ps : List Piece) : List Nat :=
  ps.flatMap fun p => (if attrRepl p.attr then List.range 8 else [0]).flatMap fun k => spanLines (p.pa + k * 2 ^ 37) p.len

/-- A job's bytes written at a target, and the 128-byte lines of memory they lie in. -/
def State.putTarget (s : State) (j : Job) (die : Option Nat) (l : List Byte) : Target → State
  | .scratch o => s.teamScratchPut j.d.team o l
  | .pages ps => State.putPieces die ps l s

def Target.jobLines : Target → List Nat
  | .scratch _ => []
  | .pages ps => pieceLines ps

/-- A job's write of bytes at a virtual address, with the physical lines it touched. -/
def State.jobWrite (s : State) (j : Job) (c : CompMode) (va : Nat) (l : List Byte) : State × Except JobStop (List Nat) :=
  match s.jobTarget j c .write va l.length with
  | (s, .error e) => (s, .error e)
  | (s, .ok t) => (s.putTarget j (some j.die) l t, .ok t.jobLines)

/-- A job's read on one of its sides: memory at a virtual address, or the team's scratchpad at an offset. -/
def State.sideRead (s : State) (j : Job) (mem : Bool) (c : CompMode) (a n : Nat) : State × Except JobStop (List Byte) :=
  if mem then s.jobRead j c a n
  else (s, if s.scratchErred j.d.team a n then .error (.fault 11) else .ok (memGets (s.teamScratch j.d.team) a n))

def State.sideWrite (s : State) (j : Job) (mem : Bool) (c : CompMode) (a : Nat) (l : List Byte) : State × Except JobStop (List Nat) :=
  if mem then s.jobWrite j c a l else (s.teamScratchPut j.d.team a l, .ok [])

/-! ## Stalls and ends -/

/-- The tag of an engine's FAULT records in word 10 (R296, R325, R348, R407). -/
def faultTag (e : Engine) : Word :=
  match e with
  | .matrix => 0x80000000#32
  | .sspace => 0x40000000#32
  | .copy => 0x20000000#32
  | .stack => 0x10000000#32

/-- A job stalls on a translation fault and a FAULT record is posted (R296), with no slot in its word 9 (log 92). It is lost with its cluster
or die, a stack engine's with neither: those belong to the memory domain (01_ties R28, R31). -/
def State.jobStall (s : State) (j : Job) (va : Nat) (malformed : Bool) (wr : Bool) : State :=
  let s := s.modJob j.k fun x => { x with stalled := true, faultVa := va, unresolved := false }
  s.postFaultAt (if j.d.eng = .stack then none else some (j.die, some j.clu)) j.d.ctx (BitVec.ofNat 48 (va % 2 ^ 54 / 2 ^ 18))
    [BitVec.ofNat 32 va, BitVec.ofNat 32 (va % 2 ^ 54 / 2 ^ 32), BitVec.ofNat 32 (6 + (if wr then 2 ^ 16 else 0) + (if malformed then 2 ^ 20 else 0)),
     j.d.ctx.setWidth 32, j.d.place, 0#32, 0#32, 0#32, 0#32, 0#32, faultTag j.d.eng ||| BitVec.ofNat 32 j.d.id, 0#32] j.d.place

/-- A stop of a job's access: a stall, a wait at a frozen page, or what a fault does. -/
def State.jobStop (s : State) (j : Job) (wr : Bool) (e : JobStop) (onFault : Nat → State) : State :=
  match e with
  | .miss va m => s.jobStall j va m wr
  | .wait => s
  | .fault c => onFault c

/-- Every job that a dispatched job stands for, changed in its team's table. -/
def State.modIds (s : State) (j : Job) (f : JobTab → Nat → JobTab) : State :=
  j.ids.foldl (fun s i => s.modTab i.1 j.d.eng fun t => f t i.2) s

/-- A wait or a query acquires a job's writes: the lines it wrote leave the caller's L1 (R293) and its read-only path (05_memory R192). -/
def State.acquireLines (s : State) (v : View) (l : List Nat) : State :=
  let s := v.w.pipes.foldl (fun s p => l.foldl (fun s x => s.l1Drop p x) s) s
  { s with ro := s.ro.filter fun x => !(x.wave == v.w.uid && l.contains x.line) }

/-- A job wait's condition: ended, or in mode READ past READ-DONE, or nothing to wait for. -/
def State.jobReady (s : State) (team : Nat) (e : Engine) (id : Nat) (readOnly : Bool) : Bool :=
  match (s.tab team e).find id with
  | none => true
  | some x => x.st ≠ .pending || (readOnly && x.rd)

/-- The lines to acquire for a job that has ended. -/
def State.jobLines (s : State) (team : Nat) (e : Engine) (id : Nat) : List Nat :=
  match (s.tab team e).find id with
  | some x => if x.st = .pending then [] else x.wrote
  | none => []

/-- A party parked in a wait on a job takes its completion word once the wait's condition holds. -/
def State.wakeJob (s : State) (i : Issuer) : State :=
  match s.view i with
  | none => s
  | some v =>
    match v.thr.wait with
    | .job e id ro d hd =>
      if v.thr.st = .parked && s.jobReady v.w.team e id.toNat ro then
        let r := regI32 ((s.tab v.w.team e).word e id.toNat)
        ((if ro then s else s.acquireLines v (s.jobLines v.w.team e id.toNat)).deliver v d hd r).resumeAfter i
      else s
    | _ => s

/-- The waits of a team on its jobs. -/
def State.wakeJobs (s : State) (team : Nat) : State :=
  (s.teamWaves team).foldl (fun s w => w.issuers.foldl (fun s i => s.wakeJob i) s) s

/-- A change of the tables that a wait can be waiting for. -/
def State.tellIds (s : State) (j : Job) (f : JobTab → Nat → JobTab) : State :=
  (j.ids.map (·.1)).dedup.foldl (fun s t => s.wakeJobs t) (s.modIds j f)

/-- R292: a job has passed READ-DONE; it has read every index (12_stack R396). -/
def State.readDone (s : State) (j : Job) : State :=
  (s.tellIds j fun t id => t.upd id fun e => { e with rd := true, oor := max e.oor j.oor }).modJob j.k fun x => { x with rd := true }

/-- A job ends: its identifiers take its completion, and it leaves the engine. -/
def State.endJob (s : State) (j : Job) (f : JobEnt → JobEnt) : State :=
  let s := s.tellIds j fun t id => t.finish id f
  { s with jobs := s.jobs.filter (·.k != j.k) }

/-- Lines a job has written. -/
def State.noteLines (s : State) (j : Job) (l : List Nat) : State :=
  s.modIds j fun t id => t.upd id fun e => { e with wrote := (e.wrote ++ l).dedup }

/-- A job ends in FAULT with a cause and PROG. -/
def State.faultJob (s : State) (j : Job) (cause prog : Nat) : State :=
  s.endJob j fun e => { e with st := .fault, cause := cause, prog := prog, flags := e.flags ||| j.flags, oor := j.oor }

/-- A job ends DONE. -/
def State.doneJob (s : State) (j : Job) : State :=
  s.endJob j fun e => { e with st := .done, rd := true, flags := e.flags ||| j.flags, oor := j.oor }

/-! ## Waits and queries -/

/-- An identifier in a source, as the waits check it. -/
def idSource (f : RFmt) (pa pb : Word) (l : Lane) : Except Fail (Word × Word) :=
  match l.srcAs .i32 pa f.a, l.srcAs .i32 pb f.b with
  | .ok a, .ok b => .ok (a, b)
  | .error e, _ | _, .error e => .error e

/-- MWAIT, SSWAIT and SWAIT (R302, R332, R406). -/
def jobWait (eng : Engine) (f : RFmt) (sl : Slot) (gwOk : Bool) (s : State) (v : View) (x : Word × Word) (s0 : State) : State :=
  if (v.w.gw && !gwOk) || x.1.extractLsb' 16 16 != 0#16 || 1 < x.2.toNat then s0.trapAll v sl failFld7
  else
    let id := x.1.toNat
    if s.jobReady v.w.team eng id (x.2 == 0#32) then
      let r := regI32 ((s.tab v.w.team eng).word eng id)
      (if x.2 == 1#32 then s.acquireLines v (s.jobLines v.w.team eng id) else s).finishWith v sl f r
    else s0.park v.iss (.job eng x.1 (x.2 == 0#32) (if f.nw then none else some f.d.toNat) f.hd) sl

/-! ## R98 -/

/-- R98's update of an accumulator by the exact sum of some terms. -/
def accUpdate (acc : Word) (l : List Val) : Word × Flags :=
  let a := fp32.decode false acc.toNat
  let sum := exactSum .rne l
  if a = .nan || sum = .nan then (BitVec.ofNat 32 fp32.nan, 0#6)
  else match sum with
    | .zero _ => (acc, 0#6)
    | _ =>
      let r := rneF32 (exactSum .rne (a :: l))
      (BitVec.ofNat 32 r.1, r.2)

/-- A list cut into groups of `n`. -/
def groupsOf {α : Type} (n : Nat) : Nat → List α → List (List α)
  | 0, _ => []
  | _, [] => []
  | fuel + 1, l => l.take n :: groupsOf n fuel (l.drop n)

end Sys2Proof.Machine
end

