-- ==== Sys2Proof/Machine/Matrix.lean ====
section
/-! DEFINITION. The matrix engine (spec/08_matrix): weight images, tiles and rings, the MJOB instructions, MWAIT, MQRY, MCANCEL,
LIVE, RING.PUB and RING.WT, and the engine's events. -/

namespace Sys2Proof.Machine

/-! ## Formats and layouts (R275 to R278) -/

/-- Whether a format code is BFPn. -/
def codeBfp (c : Nat) : Bool := c ≤ 6

/-- Bits per element of a format code. -/
def codeBits (c : Nat) : Nat := if c ≤ 6 then c + 2 else if c ≤ 8 then 8 else if c ≤ 10 then 16 else 32

/-- The floating-point format of a code from 7 to 11. -/
def codeFmt (c : Nat) : FFmt :=
  if c = 7 then e4m3 else if c = 8 then e5m2 else if c = 9 then bf16 else if c = 10 then fp16 else fp32

/-- N of a sparsity code: 48 for dense. -/
def sparseN (c : Nat) : Nat := [48, 8, 12, 16, 24, 32].getD c 48

def ceil32 (n : Nat) : Nat := (n + 31) / 32 * 32

/-- V: the bytes of a column stream (R277). -/
def imageV (fmt nc k : Nat) : Nat := if nc = 0 then ceil32 (k * codeBits fmt / 8) else ceil32 (k * sparseN nc * codeBits fmt / 384)

/-- Offset of the map section. -/
def imageMaps (fmt nc k : Nat) : Nat := 128 * imageV fmt nc k + (if codeBfp fmt then 8 * k else 0)

/-- Z: the bytes of a weight image. -/
def imageZ (fmt nc k : Nat) : Nat := imageMaps fmt nc k + (if nc = 0 then 0 else 128 * (k / 48) * 8)

/-- PSIZE (R276). -/
def panelSize (fmt : Nat) : Nat := if codeBfp fmt then 512 * codeBits fmt + 256 else if codeBits fmt = 8 then 4096 else 8192

/-- A number of `n` bits from bit `i` of a little-endian bit string of bytes. -/
def byteBits (get : Nat → Byte) (i n : Nat) : Nat :=
  (List.range n).foldl (fun a k => a + (if (get ((i + k) / 8)).getLsbD ((i + k) % 8) then 2 ^ k else 0)) 0

/-- Element `e` of a BFP-P block of width `n` at an address (R90). -/
def planeElem (get : Nat → Byte) (a n e : Nat) : Int :=
  toSigned n ((List.range n).foldl (fun x j => x + (if (get (a + 4 * j + e / 8)).getLsbD (e % 8) then 2 ^ j else 0)) 0)

/-- A scale halfword's E (R92). -/
def scaleAt (get : Nat → Byte) (a : Nat) : Nat := (get a).toNat + 256 * ((get (a + 1)).toNat % 2)

/-- A number of `n` bytes at an address. -/
def bytesAt (get : Nat → Byte) (a n : Nat) : Nat := leNat ((List.range n).map fun i => get (a + i))

/-- R276: A's element of row i at k within its panel. -/
def panelVal (get : Nat → Byte) (fmt i k : Nat) : Val :=
  if codeBfp fmt then
    let n := fmt + 2
    blockVal n (scaleAt get (512 * n + 2 * i)) (planeElem get (4 * n * i) n k)
  else
    let b := codeBits fmt / 8
    (codeFmt fmt).decode false (bytesAt get (32 * b * i + b * k) b)

/-- R277, R278: B's element at row k of column j of an image, absent weights being zero. -/
def imageVal (get : Nat → Byte) (fmt nc kk j k : Nat) : Val :=
  let v := imageV fmt nc kk
  let n := codeBits fmt
  let scale := scaleAt get (128 * v + 2 * (j * (kk / 32) + k / 32))
  if nc = 0 then
    if codeBfp fmt then blockVal n scale (planeElem get (j * v + 4 * n * (k / 32)) n (k % 32))
    else (codeFmt fmt).decode false (bytesAt get (j * v + k * n / 8) (n / 8))
  else
    let g := k / 48
    let map := bytesAt get (imageMaps fmt nc kk + 8 * (j * (kk / 48) + g)) 8
    let stored := map.testBit (k % 48)
    let t := ((List.range (k % 48)).filter fun x => map.testBit x).length
    let bit (i : Nat) : Nat := if (get (j * v + i / 8)).getLsbD (i % 8) then 1 else 0
    let nn := sparseN nc
    if codeBfp fmt then
      blockVal n scale (if stored then toSigned n ((List.range n).foldl (fun a x => a + 2 ^ x * bit (g * nn * n + x * nn + t)) 0) else 0)
    else
      (codeFmt fmt).decode false (if stored then byteBits (fun i => get (j * v + i)) ((g * nn + t) * n) n else 0)

/-! ## Tiles, rings and the weight buffer -/

def tileAddr (t i j : Nat) : Nat := 65536 * t + 4 * (128 * i + j)

def Team.accWord (t : Team) (tile i j : Nat) : Word := BitVec.ofNat 32 (leNat (memGets t.acc (tileAddr tile i j) 4))

/-- Writes the words of one tile, row by row. -/
def Team.putTile (t : Team) (tile : Nat) (ws : List Word) : Team := { t with acc := memPuts t.acc (65536 * tile) (wordBytes ws) }

def State.cluster (s : State) (die clu : Nat) : Cluster := assocGet s.clusters (die, clu) Cluster.reset
def State.modCluster (s : State) (die clu : Nat) (f : Cluster → Cluster) : State :=
  { s with clusters := assocSet s.clusters (die, clu) (f (s.cluster die clu)) }

/-- R280: every image that overlaps some slots loses FIRST. -/
def Cluster.clear (c : Cluster) (lo n : Nat) : Cluster :=
  { c with images := c.images.filter fun w => w.slot + w.len ≤ lo || lo + n ≤ w.slot }

def Team.ring (t : Team) (r : Nat) : Ring := t.rings[r]?.getD Ring.reset
def Team.setRing (t : Team) (r : Nat) (x : Ring) : Team := { t with rings := t.rings.setIfInBounds r x }

/-- R282: entries published and not consumed. -/
def Ring.held (r : Ring) : Nat := (r.pub - r.con).toNat

/-- R282: the offset of the entry CON names. -/
def Ring.entry (r : Ring) : Nat := 64 * (r.base.toNat + (r.con.toNat % (r.count.toNat + 1)) * (r.esize.toNat + 1))

/-! ## Descriptors (R300) -/

def dw (b : List Word) (i : Nat) : Word := b.getD i 0#32

/-- K of an MMA, MMZ or WLD descriptor. -/
def descK (b : List Word) : Nat := 32 * (fld (dw b 0) 16 7 + 1)

/-- Some bit of a word outside a mask. -/
def extraBits (w mask : Word) : Bool := w &&& ~~~mask != 0#32

/-- The row size of R285. -/
def rowBytes (fmt : Nat) : Nat := if codeBfp fmt then 16 * (fmt + 2) else 128 * (codeBits fmt / 8)

def checkMma (s : State) (v : View) (b : List Word) : Option Fail :=
  let w0 := dw b 0
  let t := (s.team? v.w.team).getD (Team.fresh 0 0#12 0 0)
  let flat := !w0.getLsbD 8
  let off := (dw b 1).toNat
  firstFail [
    failIf (extraBits w0 0x007F0FFF#32 || extraBits (dw b 1) (if flat then 0x1FFFFF#32 else 0#32) || extraBits (dw b 2) 0x3F#32) failFld7,
    failIf (10 < fld w0 4 4 || t.tiles ≤ fld w0 0 4) failFld7,
    failIf (flat && off % 64 != 0) failFld7,
    failIf (flat && t.scratchSize < off + descK b / 32 * panelSize (fld w0 4 4)) (failScratch (dw b 1))]

def checkWld (_ : State) (_ : View) (b : List Word) : Option Fail :=
  let w0 := dw b 0
  let fmt := fld w0 8 4
  let nc := fld w0 12 3
  let conv := w0.getLsbD 15
  let k := descK b
  let stride := (dw b 3).toNat
  let src := addr2 (dw b 1) (dw b 2)
  let last : Int := if conv then src + (k - 1) * stride + 511 else src + imageZ fmt nc k - 1
  firstFail [
    failIf (extraBits w0 0x007FFF3F#32 || extraBits (dw b 2) 0x3FFFFF#32 || (!conv && stride != 0)) failFld7,
    failIf (10 < fmt || 5 < nc) failFld7,
    failIf (nc != 0 && k % 96 != 0) failFld7,
    failIf (conv && nc != 0) failFld7,
    failIf (64 < fld w0 0 6 + (imageZ fmt nc k + 8191) / 8192) failFld7,
    failIf (conv && (stride % 4 != 0 || stride < 512)) failFld7,
    failRange src last,
    failIf (src % 64 != 0) (failAlign src)]

/-- ACO and ACI: format, destination extent and stride. -/
def checkTile (aco : Bool) (s : State) (v : View) (b : List Word) : Option Fail :=
  let w0 := dw b 0
  let fmt := fld w0 4 4
  let t := (s.team? v.w.team).getD (Team.fresh 0 0#12 0 0)
  let stride := (dw b 3).toNat
  let d := addr2 (dw b 1) (dw b 2)
  let last : Int := if codeBfp fmt then max (d + 128 * stride + 1023) (d + 127 * stride + rowBytes fmt - 1) else d + 127 * stride + rowBytes fmt - 1
  firstFail [
    failIf (extraBits w0 (if aco then 0x00FF01FF#32 else 0xFF#32) || extraBits (dw b 2) 0x3FFFFF#32) failFld7,
    failIf (11 < fmt || (!aco && fmt < 9) || t.tiles ≤ fld w0 0 4) failFld7,
    failIf (stride % 4 != 0 || stride < rowBytes fmt) failFld7,
    failRange d last,
    failIf (d % 4 != 0) (failAlign d)]

def checkZero (s : State) (v : View) (b : List Word) : Option Fail :=
  let t := (s.team? v.w.team).getD (Team.fresh 0 0#12 0 0)
  failIf (extraBits (dw b 0) 0xF#32 || t.tiles ≤ fld (dw b 0) 0 4) failFld7

/-- An MJOB instruction: opcode, count, its checks. -/
def mjob (op count : Nat) (f : EFmt) (check : State → View → List Word → Option Fail) (wld : Bool) (s : State) :
    Host.Outcome State Fault Refusal :=
  let sl := slotE op f f.count.toNat (f.count.toNat != count)
  issue sl (jobIns sl f false check (fun s v _ => 256 ≤ (s.tab v.w.team .matrix).outstanding || s.ringBusy v) fun s v b =>
    let key (id : Nat) : BitVec 48 :=
      if wld then BitVec.ofNat 6 (fld (dw b 0) 0 6) ++ BitVec.ofNat 42 (addr2 (dw b 1) (dw b 2) / 64) else BitVec.ofNat 48 id
    s.pushJob v f clsMjob (if wld then 10#4 else 0#4) key (v.desc s .matrix op b [] 0)) s

def execMjobMma (f : EFmt) (s : State) : Host.Outcome State Fault Refusal := mjob 0x0F0 3 f checkMma false s
def execMjobMmz (f : EFmt) (s : State) : Host.Outcome State Fault Refusal := mjob 0x0F1 3 f checkMma false s
def execMjobWld (f : EFmt) (s : State) : Host.Outcome State Fault Refusal := mjob 0x0F2 4 f checkWld true s
def execMjobAco (f : EFmt) (s : State) : Host.Outcome State Fault Refusal := mjob 0x0F3 4 f (checkTile true) false s
def execMjobAci (f : EFmt) (s : State) : Host.Outcome State Fault Refusal := mjob 0x0F4 4 f (checkTile false) false s
def execMjobZero (f : EFmt) (s : State) : Host.Outcome State Fault Refusal := mjob 0x0F5 1 f checkZero false s

/-! ## MWAIT, MQRY, MCANCEL (R302 to R304) -/

def execMwait (f : RFmt) (s : State) : Host.Outcome State Fault Refusal :=
  let sl := slotR 0x0F6 f
  issue sl.once (waveOp sl (idSource f) (jobWait .matrix f sl false)) s

/-- One I32 source. -/
def oneI32 (f : RFmt) (pa _pb : Word) (l : Lane) : Except Fail Word := l.srcAs .i32 pa f.a

def execMqry (f : RFmt) (s : State) : Host.Outcome State Fault Refusal :=
  let sl := slotR 0x0F7 f
  issue sl.once (waveOp sl (oneI32 f) fun s v a s0 =>
    if v.w.gw || a.extractLsb' 16 16 != 0#16 then s0.trapAll v sl failFld7
    else (s.acquireLines v (s.jobLines v.w.team .matrix a.toNat)).finishWith v sl f
      (regI32 ((s.tab v.w.team .matrix).word .matrix a.toNat))) s

/-- The undispatched record of a job, in whichever cluster keyring it stands: an identifier folded into another team's record stays where that
record is. -/
def State.jobRec (s : State) (e : Engine) (team serial : Nat) : Option (KrId × Rec) :=
  s.keyrings.findSome? fun k => match k.1 with
    | .cluster _ _ => (k.2.recs.find? fun r => r.cls == jobCls e && !r.dispatched && r.jobIds.contains (team, serial)).map fun r => (k.1, r)
    | _ => none

/-- R304, R356: the undispatched record of a job is withdrawn: every identifier it holds ends CANCELLED. -/
def State.cancelJob (s : State) (v : View) (e : Engine) (id : Nat) : State × Status :=
  match (s.tab v.w.team e).find id with
  | none => (s, .nopeer)
  | some x =>
    match s.jobRec e v.w.team x.serial with
    | none => (s, .refused)
    | some (k, r) =>
      let s := s.modRing k fun ring => ring.drop r.uid
      let s := r.jobIds.foldl (fun s i => s.modTab i.1 e fun t => t.finish i.2 fun x => { x with st := .cancelled, rd := false }) s
      ((r.jobIds.map (·.1)).dedup.foldl (fun s t => s.wakeJobs t) s, .ok)

def execMcancel (f : RFmt) (s : State) : Host.Outcome State Fault Refusal :=
  let sl := slotR 0x0F8 f
  issue sl.once (waveOp sl (oneI32 f) fun s v a s0 =>
    if v.w.gw || a.extractLsb' 16 16 != 0#16 then s0.trapAll v sl failFld7
    else if s.ringBusy v then s0
    else
      let (s1, st) := s.cancelJob v .matrix a.toNat
      s1.finishWith v sl f st.reg) s

/-! ## LIVE and rings (R305 to R307) -/

def execLive (f : RFmt) (s : State) : Host.Outcome State Fault Refusal :=
  let sl := slotR 0x0F9 f
  issue sl.once (waveOp sl (oneI32 f) fun s v a s0 =>
    let tiles := ((s.team? v.w.team).map (·.tiles)).getD 0
    let mask := a.extractLsb' 0 16
    if v.w.gw || extraBits a 0x1FFFF#32 || 2 ^ tiles ≤ mask.toNat || (a.getLsbD 16 && mask != 0#16) then s0.trapAll v sl failFld7
    else if s.ringBusy v then s0
    else (s.modTeam v.w.team fun t => { t with live := if a.getLsbD 16 then none else some mask }).advance v.iss (1 + sl.nlits)) s

/-- A job of the team that names a ring is outstanding (R306). -/
def State.ringNamed (s : State) (v : View) (r : Nat) : Bool :=
  let names (j : JobDesc) : Bool := j.team == v.w.team && (j.op == 0x0F0 || j.op == 0x0F1) && (dw j.desc 0).getLsbD 8 && fld (dw j.desc 0) 9 3 == r
  s.jobs.any (fun j => names j.d) || (s.ring (.cluster v.w.die v.w.clu)).recs.any fun x => !x.dispatched && x.job.any names

/-- RING.PUB's effect. -/
def ringPub (s : State) (v : View) (t : Team) (a b : Word) : Team × Status :=
  let i := fld a 0 3
  let r := t.ring i
  if a.getLsbD 8 then
    let r' : Ring := ⟨true, b.extractLsb' 0 15, b.extractLsb' 15 8, b.extractLsb' 23 8, 0#32, 0#32⟩
    if s.ringNamed v i then (t, .refused)
    else if 64 * (r'.base.toNat + (r'.count.toNat + 1) * (r'.esize.toNat + 1)) > t.scratchSize then (t, .toobig)
    else (t.setRing i r', .ok)
  else if !r.cfg then (t, .refused)
  else if b.toInt < 1 || r.count.toNat + 1 < b.toNat then (t, .toobig)
  else if r.held + b.toNat > r.count.toNat + 1 then (t, .full)
  else (t.setRing i { r with pub := r.pub + b }, .ok)

def execRingPub (f : RFmt) (s : State) : Host.Outcome State Fault Refusal :=
  let sl := slotR 0x0FA f
  issue sl.once (waveOp sl (idSource f) fun s v x s0 =>
    if v.w.gw || extraBits x.1 0x107#32 || (x.1.getLsbD 8 && x.2.msb) then s0.trapAll v sl failFld7
    else match s.team? v.w.team with
      | none => s
      | some t =>
        let (t', st) := ringPub s v t x.1 x.2
        let s := if st = .ok && !x.1.getLsbD 8 then s.l1Release v.w.pipes else s
        (s.modTeam v.w.team fun _ => t').finishWith v sl f st.reg) s

/-- RING.WT: a status at once, or a park. -/
def ringWait (t : Team) (a n : Word) : Option Status :=
  let r := t.ring (fld a 0 3)
  if !r.cfg then some .refused
  else if n.toInt ≤ 0 then some .ok
  else if r.count.toNat + 1 < n.toNat then some .toobig
  else if n.toNat ≤ r.count.toNat + 1 - r.held then some .ok
  else none

def execRingWt (f : RFmt) (s : State) : Host.Outcome State Fault Refusal :=
  let sl := slotR 0x0FB f
  issue sl.once (waveOp sl (idSource f) fun s v x s0 =>
    if v.w.gw || extraBits x.1 7#32 then s0.trapAll v sl failFld7
    else match s.team? v.w.team with
      | none => s
      | some t =>
        match ringWait t x.1 x.2 with
        | some st => s.finishWith v sl f st.reg
        | none => s0.park v.iss (.ring (fld x.1 0 3) x.2.toNat) sl) s

/-! ## The engine's events -/

/-- MATRIX_JOB_DISPATCH (R287). -/
def execMatrixJobDispatch (die clu : Nat) (s : State) : Host.Outcome State Fault Refusal := .next (s.dispatchJob .matrix die clu 8)

/-- What a matrix job names (R289). -/
def matrixAreas (j : Job) : List Area :=
  let b := j.d.desc
  let w0 := dw b 0
  let tile (wr : Bool) : Area := ⟨2, j.d.team, fld w0 0 4, fld w0 0 4 + 1, wr⟩
  let mem (lo n : Nat) (wr : Bool) : Area := ⟨0, j.d.ctx.toNat, lo, lo + n, wr⟩
  let a := addr2 (dw b 1) (dw b 2)
  let stride := (dw b 3).toNat
  let rows (k n : Nat) (wr : Bool) : List Area := (List.range k).map fun i => mem (a + i * stride) n wr
  let slots (lo : Nat) (hi : Nat) (wr : Bool) : Area := ⟨4, j.die * 64 + j.clu, lo, hi, wr⟩
  if j.d.op = 0x0F0 || j.d.op = 0x0F1 then
    [tile true, slots (fld (dw b 2) 0 6) 64 false,
     if w0.getLsbD 8 then ⟨5, j.d.team, fld w0 9 3, fld w0 9 3 + 1, true⟩
     else ⟨1, j.d.team, (dw b 1).toNat, (dw b 1).toNat + descK b / 32 * panelSize (fld w0 4 4), false⟩]
  else if j.d.op = 0x0F2 then
    let z := imageZ (fld w0 8 4) (fld w0 12 3) (descK b)
    slots (fld w0 0 6) (fld w0 0 6 + (z + 8191) / 8192) true ::
      if w0.getLsbD 15 then rows (descK b) 512 false else [mem a z false]
  else if j.d.op = 0x0F3 then
    tile false :: rows 128 (rowBytes (fld w0 4 4)) true ++ (if codeBfp (fld w0 4 4) then [mem (a + 128 * stride) 1024 true] else [])
  else if j.d.op = 0x0F4 then tile true :: rows 128 (rowBytes (fld w0 4 4)) false
  else [tile true]

/-- An MMA or MMZ, which uses the array. -/
def Job.array (j : Job) : Bool := j.d.op = 0x0F0 || j.d.op = 0x0F1

/-- R273, R283: the array is free for a job: no other array job that is not suspended has begun, or could have begun before it. -/
def State.arrayFree (s : State) (j : Job) : Bool :=
  let others := (s.jobsOf .matrix j.die j.clu).filter fun i => i.array && i.k != j.k && !i.suspended
  !j.array || !others.any fun i => i.done != 0 || i.rd || (i.k < j.k && s.jobFree matrixAreas i)

/-- The image at a slot. -/
def Cluster.image (c : Cluster) (slot : Nat) : Option WSlot := c.images.find? (·.slot == slot)

/-- R295: what stops an MMA or MMZ before it starts. -/
def State.mmaFault (s : State) (j : Job) (t : Team) : Option Nat :=
  let b := j.d.desc
  let w0 := dw b 0
  match (s.cluster j.die j.clu).image (fld (dw b 2) 0 6) with
  | none => some 2
  | some im =>
    if im.kb != fld w0 16 7 then some 2
    else if im.ctx != j.d.ctx then some 7
    else if w0.getLsbD 8 && (!(t.ring (fld w0 9 3)).cfg || ((t.ring (fld w0 9 3)).esize.toNat + 1) * 64 < panelSize (fld w0 4 4)) then some 2
    else none

/-- Panels read from a ring while it holds entries, and whether one met an error; `fuel` bounds them by the job's panels. -/
def readRing (scr : List Host.Cell) (bad : Nat → Bool) (psize : Nat) : Nat → Ring → List (List Byte) → Ring × List (List Byte) × Bool
  | 0, r, l => (r, l, false)
  | n + 1, r, l =>
    if r.held = 0 then (r, l, false)
    else if bad r.entry then (r, l, true)
    else readRing scr bad psize n { r with con := r.con + 1#32 } (l ++ [memGets scr r.entry psize])

/-- The reads of an MMA or MMZ (R283, R292, R295). `done` counts the panels read, of which `data` holds those not yet applied. -/
def State.readMma (s : State) (j : Job) (t : Team) : State :=
  let b := j.d.desc
  let w0 := dw b 0
  let np := descK b / 32
  let psize := panelSize (fld w0 4 4)
  let scr := s.teamScratch j.d.team
  let bad (o : Nat) : Bool := s.scratchErred j.d.team o psize
  let stop (s : State) (c p : Nat) : State := s.modJob j.k fun x => { x with fault := some (c, p) }
  -- a job that goes on after a suspension is checked again: its team may have come back on another cluster
  match if j.done = 0 || j.suspended then s.mmaFault j t else none with
  | some c => stop s c j.done
  | none =>
    if w0.getLsbD 8 then
      if (t.ring (fld w0 9 3)).held = 0 then s
      else
        let (r, l, e) := readRing scr bad psize (np - j.done) (t.ring (fld w0 9 3)) []
        let n := j.done + l.length
        let s := s.modTeam j.d.team fun t => t.setRing (fld w0 9 3) r
        let s := s.modJob j.k fun x => { x with data := j.data ++ l, done := n, suspended := false }
        if e then stop s 11 n else if n < np then s else s.readDone j
    else
      let offs := (List.range np).map fun p => (dw b 1).toNat + p * psize
      let ok := offs.takeWhile fun o => !bad o
      let s := s.modJob j.k fun x => { x with data := ok.map fun o => memGets scr o psize, done := ok.length }
      if ok.length < np then stop s 11 ok.length else s.readDone j

/-- A list of reads of a job in order: the bytes read, and the first stop with its index. -/
def State.readList (j : Job) (c : CompMode) : List (Nat × Nat) → Nat → State → State × List (List Byte) × Option (Nat × JobStop)
  | [], _, s => (s, [], none)
  | (a, n) :: l, i, s =>
    match s.jobRead j c a n with
    | (s, .error e) => (s, [], some (i, e))
    | (s, .ok x) =>
      let (s, xs, e) := State.readList j c l (i + 1) s
      (s, x :: xs, e)

/-- R280: the pieces of a WLD's source: a column each, and the scales and maps behind them. -/
def wldReads (b : List Word) : List (Nat × Nat) :=
  let w0 := dw b 0
  let src := addr2 (dw b 1) (dw b 2)
  let k := descK b
  if w0.getLsbD 15 then (List.range 128).flatMap fun j => (List.range k).map fun r => (src + r * (dw b 3).toNat + 4 * j, 4)
  else
    let v := imageV (fld w0 8 4) (fld w0 12 3) k
    (List.range 128).map (fun j => (src + j * v, v)) ++ [(src + 128 * v, imageZ (fld w0 8 4) (fld w0 12 3) k - 128 * v)]

/-- The reads of a WLD. -/
def State.readWld (s : State) (j : Job) : State :=
  let b := j.d.desc
  let w0 := dw b 0
  let z := imageZ (fld w0 8 4) (fld w0 12 3) (descK b)
  let s := s.modCluster j.die j.clu fun c => c.clear (fld w0 0 6) ((z + 8191) / 8192)
  match State.readList j .expanded (wldReads b) 0 s with
  | (s, l, none) => (s.modJob j.k fun x => { x with data := l }).readDone j
  | (s, _, some (i, e)) =>
    s.jobStop j false e fun c => s.modJob j.k fun x => { x with fault := some (c, if w0.getLsbD 15 then i / descK b else i) }

/-- R285: one element of a row as a floating-point format. -/
def acoElem (fmt : FFmt) (sat : Bool) : Val → Nat × Flags
  | .inf s => if sat then (fmt.signBit s + fmt.maxFin, flagSat) else toFloat fmt .rne false false (.inf s)
  | v => toFloat fmt .rne false sat v

/-- R285: one block of a row: its planes, its scale and flags. -/
def acoBlock (n : Nat) (sat : Bool) (l : List Val) : List Byte × Nat × Flags :=
  let hasNan := l.any (· = .nan)
  let hasInf := l.any fun v => match v with | .inf _ => true | _ => false
  let (e, f) := if sat && hasInf && !hasNan then (510, flagSat ||| flagInx) else agreedE n sat l
  let q := l.map (quantise n e)
  (wordBytes (planesOf n ⟨e, q.map (·.1)⟩), e, q.foldl (fun a x => a ||| x.2) f)

/-- A value scaled by a power of two. -/
def Val.scale (k : Int) : Val → Val
  | .fin s n e => .fin s n (e + k)
  | v => v

/-- R285: a row's bytes, its scale bytes and flags. -/
def acoRow (fmt : Nat) (sat : Bool) (sh : Int) (ws : List Word) : List Byte × List Byte × Flags :=
  let vs := ws.map fun w => (fp32.decode false w.toNat).scale sh
  if codeBfp fmt then
    let bs := (groupsOf 32 4 vs).map (acoBlock (fmt + 2) sat)
    (bs.flatMap (·.1), bs.flatMap fun x => leBytes 2 x.2.1, bs.foldl (fun a x => a ||| x.2.2) 0#6)
  else
    let es := vs.map (acoElem (codeFmt fmt) sat)
    (es.flatMap fun x => leBytes (codeBits fmt / 8) x.1, [], es.foldl (fun a x => a ||| x.2) 0#6)

/-- The words of a tile's row. -/
def Team.tileRow (t : Team) (tile i : Nat) : List Word := (List.range 128).map fun j => t.accWord tile i j

/-- The read of an ACO: the tile, row by row, as the bytes its rows will hold, up to a row that meets an error. -/
def State.readAco (s : State) (j : Job) (t : Team) : State :=
  let w0 := dw j.d.desc 0
  let ok := (List.range 128).takeWhile fun i => !s.erred .tile j.d.team (tileAddr (fld w0 0 4) i 0) 512
  let rows := ok.map fun i => acoRow (fld w0 4 4) (w0.getLsbD 8) (toSigned 8 (fld w0 16 8)) (t.tileRow (fld w0 0 4) i)
  let s := s.modJob j.k fun x => { x with data := rows.flatMap fun r => [r.1, r.2.1],
                                          flags := rows.foldl (fun a r => a ||| r.2.2.setWidth 32) 0#32 }
  if ok.length < 128 then s.modJob j.k fun x => { x with fault := some (11, ok.length) } else s.readDone j

/-- The reads of an ACI, row by row. -/
def State.readAci (s : State) (j : Job) : State :=
  let b := j.d.desc
  let d := addr2 (dw b 1) (dw b 2)
  let n := rowBytes (fld (dw b 0) 4 4)
  match State.readList j .expanded ((List.range 128).map fun i => (d + i * (dw b 3).toNat, n)) 0 s with
  | (s, l, none) => (s.modJob j.k fun x => { x with data := l }).readDone j
  | (s, l, some (i, e)) => s.jobStop j false e fun c => s.modJob j.k fun x => { x with data := l, fault := some (c, i) }

/-- MATRIX_READ_DONE: the job performs the reads it can; a ring job that has read every entry published waits for more. -/
def execMatrixReadDone (die clu k : Nat) (s : State) : Host.Outcome State Fault Refusal :=
  match s.job? k with
  | none => .next s
  | some j =>
    match s.team? j.d.team with
    | none => .next s
    | some t =>
      if j.d.eng ≠ .matrix || j.die != die || j.clu != clu || j.rd || j.stalled || j.fault.isSome || !s.running.contains die ||
          !s.jobFree matrixAreas j || !s.arrayFree j then .next s
      else if j.array then .next (s.readMma j t)
      else if j.d.op = 0x0F2 then .next (s.readWld j)
      else if j.d.op = 0x0F3 then .next (s.readAco j t)
      else if j.d.op = 0x0F4 then .next (s.readAci j)
      else .next s

/-- A job of a kind that may end: past its reads or faulted. -/
def State.endable (s : State) (die clu k : Nat) (ops : List Nat) (areas : Job → List Area) : Option Job :=
  match s.job? k with
  | none => none
  | some j =>
    if ops.contains j.d.op && j.die == die && j.clu == clu && (j.rd || j.fault.isSome) && !j.stalled && s.running.contains die &&
      s.jobFree areas j then some j else none

/-- R291: one element of a tile after a job, with INV and OVF. -/
def mmaElem (start : Word) (groups : List (List Val)) : Word × Flags :=
  groups.foldl (fun (x : Word × Flags) g =>
    let y := (accUpdate x.1 g).1
    let a := fp32.decode false start.toNat
    let b := fp32.decode false y.toNat
    let inv := b = .nan && a ≠ .nan
    let ovf := (match b with | .inf _ => true | _ => false) && (match a with | .fin _ _ _ => true | _ => false)
    (y, x.2 ||| flagIf inv flagInv ||| flagIf ovf flagOvf)) (start, 0#6)

/-- R291: the tile after the panels of an MMA or MMZ that `data` holds. -/
def mmaTile (j : Job) (t : Team) (im : WSlot) (data : List Host.Cell) : List (Word × Flags) :=
  let b := j.d.desc
  let w0 := dw b 0
  let fmt := fld w0 4 4
  let p0 := j.done - j.data.length
  let k := 32 * j.data.length
  let get (i : Nat) : Byte := memGet data (8192 * im.slot + i)
  let g := if codeBits fmt = 16 || codeBits im.fmt = 16 then 4 else 32
  (List.range 128).flatMap fun i =>
    let row := j.data.flatMap fun p => (List.range 32).map fun x => panelVal (fun n => p.getD n 0#8) fmt i x
    (List.range 128).map fun c =>
      let col := (List.range k).map fun x => imageVal get im.fmt im.ncode (descK b) c (32 * p0 + x)
      mmaElem (if j.d.op = 0x0F1 && p0 = 0 then 0#32 else t.accWord (fld w0 0 4) i c)
        (groupsOf g k ((row.zip col).map fun e => e.1.mul e.2))

/-- The panels read are applied to the tile; what stops that is a cause (R295): no image, or an error in the tile or in the image, which
loses FIRST. -/
def State.applyPanels (s : State) (j : Job) : State × Except Nat Job :=
  let w0 := dw j.d.desc 0
  let slot := fld (dw j.d.desc 2) 0 6
  let first := j.d.op = 0x0F1 && j.done = j.data.length
  if j.data = [] then (s, .ok j)
  else match s.team? j.d.team, (s.cluster j.die j.clu).image slot with
  | some t, some im =>
    if s.erred .weight (j.die * 64 + j.clu) (8192 * im.slot) (8192 * im.len) then
      (s.modCluster j.die j.clu fun c => { c with images := c.images.filter fun w => w.slot != im.slot }, .error 11)
    else if !first && s.erred .tile j.d.team (65536 * fld w0 0 4) 65536 then (s, .error 11)
    else
      let r := mmaTile j t im (s.cluster j.die j.clu).data
      let fl := r.foldl (fun a x => a ||| x.2.setWidth 32) 0#32
      (s.modTeam j.d.team fun t => t.putTile (fld w0 0 4) (r.map (·.1)), .ok { j with data := [], flags := j.flags ||| fl })
  | _, _ => (s, .error 2)

/-- A faulted MMA or MMZ ends: its tile holds the result after its panels, which for an MMZ of none is +0 (R295). -/
def State.faultMma (s : State) (j : Job) (c panels : Nat) : State :=
  (if panels = 0 && j.d.op = 0x0F1 then s.modTeam j.d.team fun t => t.putTile (fld (dw j.d.desc 0) 0 4) (List.replicate 16384 0#32) else s).faultJob
    j c panels

/-- MMA_JOB_END: the panels read are applied, and the job ends; a fault leaves the panels before it (R295). -/
def execMmaJobEnd (die clu k : Nat) (s : State) : Host.Outcome State Fault Refusal :=
  match s.endable die clu k [0x0F0, 0x0F1] matrixAreas with
  | none => .next s
  | some j =>
    match s.applyPanels j, j.fault with
    | (s1, .error c), _ => .next (s1.faultMma j c (j.done - j.data.length))
    | (s1, .ok j), some (c, n) => .next (s1.faultMma j c n)
    | (s1, .ok j), none => .next (s1.doneJob j)

/-- A ring job whose ring holds no entry. -/
def State.ringDry (s : State) (j : Job) : Bool :=
  let w0 := dw j.d.desc 0
  w0.getLsbD 8 && ((s.team? j.d.team).map fun t => (t.ring (fld w0 9 3)).held == 0).getD false

/-- R283: a dispatched array job waits for the array alone: it goes on where it is, and is no suspended job without an entry. -/
def State.wantsArray (s : State) (j : Job) : Bool :=
  j.array && !j.rd && !j.stalled && j.fault.isNone && s.jobFree matrixAreas j && !(j.suspended && s.ringDry j)

/-- MATRIX_JOB_SUSPEND (R283): an MMA or MMZ waiting for an entry at a panel boundary gives the array to
another dispatched job that does not conflict. The panels read are in its tile. -/
def execMatrixJobSuspend (die clu k : Nat) (s : State) : Host.Outcome State Fault Refusal :=
  match s.job? k with
  | none => .next s
  | some j =>
    let w0 := dw j.d.desc 0
    let other := (s.jobsOf .matrix die clu).any fun i => i.k != k && s.wantsArray i &&
      !areasClash (s.jobAreas matrixAreas i) (s.jobAreas matrixAreas j)
    if j.die == die && j.clu == clu && j.array && !j.rd && j.fault.isNone && s.ringDry j && other && !j.suspended &&
        s.jobFree matrixAreas j && s.arrayFree j then
      match s.applyPanels j with
      | (s1, .ok j) => .next (s1.modJob k fun _ => { j with suspended := true })
      | (s1, .error c) => .next (s1.modJob k fun x => { x with data := [], fault := some (c, j.done - j.data.length) })
    else .next s

/-- R280: the column of the first malformed map doubleword of an image. -/
def badMap (b : List Word) (img : List Host.Cell) : Option Nat :=
  let w0 := dw b 0
  let nc := fld w0 12 3
  let k := descK b
  if nc = 0 then none
  else (List.range 128).find? fun j => (List.range (k / 48)).any fun g =>
    let m := leNat (memGets img (imageMaps (fld w0 8 4) nc k + 8 * (j * (k / 48) + g)) 8)
    m / 2 ^ 48 != 0 || ((List.range 48).filter fun x => m.testBit x).length != sparseN nc

/-- R280: a converted image: column streams, then scales, with flags. -/
def convImage (b : List Word) (data : List (List Byte)) : List Byte × Flags :=
  let fmt := fld (dw b 0) 8 4
  let k := descK b
  let v := imageV fmt 0 k
  let cols := (groupsOf k 128 data).map fun c => c.map fun x => fp32.decode false (leNat x)
  if codeBfp fmt then
    let blocks := cols.map fun c => (groupsOf 32 (k / 32) c).map (acoBlock (fmt + 2) false)
    (blocks.flatMap (fun c => let x := c.flatMap (·.1); x ++ List.replicate (v - x.length) 0#8) ++
      blocks.flatMap (fun c => c.flatMap fun x => leBytes 2 x.2.1),
     blocks.foldl (fun a c => c.foldl (fun a x => a ||| x.2.2) a) 0#6)
  else
    let es := cols.map fun c => c.map fun x => toFloat (codeFmt fmt) .rne false false x
    (es.flatMap fun c => let x := c.flatMap fun e => leBytes (codeBits fmt / 8) e.1; x ++ List.replicate (v - x.length) 0#8,
     es.foldl (fun a c => c.foldl (fun a x => a ||| x.2) a) 0#6)

/-- WLD_JOB_END (R280). -/
def execWldJobEnd (die clu k : Nat) (s : State) : Host.Outcome State Fault Refusal :=
  match s.endable die clu k [0x0F2] matrixAreas with
  | none => .next s
  | some j =>
    match j.fault with
    | some (c, n) => .next (s.faultJob j c n)
    | none =>
      let b := j.d.desc
      let w0 := dw b 0
      let slot := fld w0 0 6
      let fmt := fld w0 8 4
      let nc := fld w0 12 3
      let (img, fl) := if w0.getLsbD 15 then convImage b j.data else (j.data.flatten, 0#6)
      let len := (imageZ fmt nc (descK b) + 8191) / 8192
      let s := s.modCluster die clu fun c => { c.clear slot len with data := memPuts c.data (8192 * slot) img }
      match badMap b (memPuts [] 0 img) with
      | some col => .next (s.faultJob j 2 col)
      | none =>
        .next ((s.modCluster die clu fun c => { c with images := c.images ++ [⟨slot, fmt, nc, fld w0 16 7, len, j.d.ctx⟩] }).doneJob
          { j with flags := fl.setWidth 32 })

/-- ACO's rows written in order; a row whose bytes or scales cannot be written is not written. -/
def State.writeRows (j : Job) (d stride : Nat) : List (List Byte) → Nat → State → State × List Nat × Option (Nat × JobStop)
  | row :: sc :: l, i, s =>
    match s.jobTarget j .expanded .write (d + 128 * stride + 8 * i) sc.length with
    | (s, .error e) => (s, [], some (i, e))
    | (s, .ok t) =>
      match s.jobWrite j .expanded (d + i * stride) row with
      | (s, .error e) => (s, [], some (i, e))
      | (s, .ok ls) =>
        let (s, xs, e) := State.writeRows j d stride l (i + 1) (s.putTarget j (some j.die) sc t)
        (s, ls ++ t.jobLines ++ xs, e)
  | _, _, s => (s, [], none)

/-- ACO_JOB_END (R285): the rows are written; a fault leaves those before it. -/
def execAcoJobEnd (die clu k : Nat) (s : State) : Host.Outcome State Fault Refusal :=
  match s.endable die clu k [0x0F3] matrixAreas with
  | none => .next s
  | some j =>
    let b := j.d.desc
    match State.writeRows j (addr2 (dw b 1) (dw b 2)) (dw b 3).toNat (j.data.drop (2 * j.row)) j.row s with
    | (s1, ls, none) =>
      match j.fault with
      | some (c, n) => .next ((s1.noteLines j ls).faultJob j c n)
      | none => .next ((s1.noteLines j ls).doneJob j)
    | (s1, ls, some (i, e)) =>
      let s1 := (s1.noteLines j ls).modJob k fun x => { x with row := i }
      .next (s1.jobStop j true e fun c => s1.faultJob j c i)

/-- R286: the words of a row that ACI loads. -/
def aciRow (fmt : Nat) (row : List Byte) : List (Word × Flags) :=
  let n := codeBits fmt / 8
  (List.range 128).map fun c =>
    let x := leNat ((row.drop (n * c)).take n)
    if fmt = 11 then (BitVec.ofNat 32 x, 0#6)
    else
      let r := toFloat fp32 .rne false false ((codeFmt fmt).decode false x)
      (BitVec.ofNat 32 r.1, r.2)

/-- ACI_JOB_END (R286): the rows read are loaded. -/
def execAciJobEnd (die clu k : Nat) (s : State) : Host.Outcome State Fault Refusal :=
  match s.endable die clu k [0x0F4] matrixAreas with
  | none => .next s
  | some j =>
    let w0 := dw j.d.desc 0
    let rows := j.data.map (aciRow (fld w0 4 4))
    let s := s.modTeam j.d.team fun t => t.putTile (fld w0 0 4) (rows.flatMap fun r => r.map (·.1))
    let j := { j with flags := rows.foldl (fun (a : Word) (r : List (Word × Flags)) => r.foldl (fun (a : Word) (x : Word × Flags) => a ||| x.2.setWidth 32) a) 0#32 }
    match j.fault with
    | some (c, n) => .next (s.faultJob j c n)
    | none => .next (s.doneJob j)

/-- ZERO_JOB_END (R286). -/
def execZeroJobEnd (die clu k : Nat) (s : State) : Host.Outcome State Fault Refusal :=
  match s.job? k with
  | none => .next s
  | some j =>
    if j.d.op = 0x0F5 && j.die == die && j.clu == clu && s.running.contains die && s.jobFree matrixAreas j then
      .next ((s.modTeam j.d.team fun t => t.putTile (fld (dw j.d.desc 0) 0 4) (List.replicate 16384 0#32)).doneJob j)
    else .next s

end Sys2Proof.Machine
end

