-- ==== Sys2Proof/Machine/StateSpace.lean ====
section
/-! DEFINITION. The state-space control block: its instructions and the events of its jobs (spec/09_statespace). -/

namespace Sys2Proof.Machine

/-! ## Descriptors (R329, R331) -/

/-- N, Q and L of an SSCAN descriptor. -/
def ssN (b : List Word) : Nat := 16 * 2 ^ fld (dw b 0) 0 2
def ssQ (b : List Word) : Nat := 4 * 2 ^ fld (dw b 0) 2 3
def ssL (b : List Word) : Nat := fld (dw b 0) 16 16 + 1

/-- Bytes of one decay. -/
def ssA (b : List Word) : Nat := if (dw b 0).getLsbD 5 then 4 else 2

/-- The operand base: memory, or scratchpad offset 0. -/
def ssBase (b : List Word) : Nat := if (dw b 0).getLsbD 6 then addr2 (dw b 2) (dw b 3) else 0

/-- Offset and extent of x, a, B with C, and y. -/
def ssRanges (b : List Word) : List (Word × Nat) :=
  [(dw b 4, 128 * ssL b), (dw b 5, ssA b * ssL b), (dw b 6, 4 * ssN b * ssL b), (dw b 7, 128 * ssL b)]

/-- Where the state of an SSCAN lies in the team's region, and its size. -/
def ssState (b : List Word) : Nat × Nat := (4096 * fld (dw b 1) 0 6, 256 * ssN b)

/-- R329: the checks of an SSCAN: what TRAPADDR holds where several fail is the model's order (log 49, log 97). -/
def checkSscan (s : State) (v : View) (b : List Word) : Option Fail :=
  let w0 := dw b 0
  let t := (s.team? v.w.team).getD (Team.fresh 0 0#12 0 0)
  let sp := w0.getLsbD 6
  let base := ssBase b
  firstFail ([
    failIf (w0.getLsbD 15 || extraBits (dw b 1) 0x3F#32 || extraBits (dw b 3) 0x3FFFFF#32 || 4 < fld w0 2 3 || 64 < fld w0 8 7) failFld7,
    failIf (!sp && (dw b 2 != 0#32 || dw b 3 != 0#32)) failFld7,
    failIf (1024 * t.stKiB < (ssState b).1 + (ssState b).2) failFld7] ++
    (ssRanges b).map (fun r => failIf (r.1.toNat % 4 != 0) (failAlign (base + r.1.toNat))) ++
    [failIf (base % 64 != 0) (failAlign base)] ++
    (ssRanges b).map fun r =>
      if sp then failRange (base + r.1.toNat) (base + r.1.toNat + r.2 - 1)
      else failIf (t.scratchSize < r.1.toNat + r.2) (failScratch r.1))

/-- SSLD and SSST: state offset, length in bytes, memory side, address. -/
def ssCopy (b : List Word) : Nat × Nat × Bool × Nat :=
  (4096 * fld (dw b 0) 0 6, 4096 * fld (dw b 0) 8 7, (dw b 0).getLsbD 16, addr2 (dw b 1) (dw b 2))

def checkSsCopy (s : State) (v : View) (b : List Word) : Option Fail :=
  let t := (s.team? v.w.team).getD (Team.fresh 0 0#12 0 0)
  let (off, len, sp, a) := ssCopy b
  firstFail [
    failIf (extraBits (dw b 0) 0x17F3F#32 || extraBits (dw b 2) 0x3FFFFF#32 || (!sp && dw b 2 != 0#32)) failFld7,
    failIf (len = 0 || 64 * 4096 < len || 1024 * t.stKiB < off + len) failFld7,
    failIf (a % 64 != 0) (failAlign a),
    if sp then failRange a (a + len - 1) else failIf (t.scratchSize < a + len) (failScratch (dw b 1))]

/-! ## The instructions -/

/-- A push of class SJOB: R311 resolves T at its arrival. -/
def sjob (op count : Nat) (f : EFmt) (check : State → View → List Word → Option Fail) (s : State) : Host.Outcome State Fault Refusal :=
  let sl := slotE op f f.count.toNat (f.count.toNat != count)
  issue sl (jobIns sl f false check (fun s v _ => 64 ≤ (s.tab v.w.team .sspace).outstanding || s.ringBusy v) fun s v b =>
    let thr := ((s.team? v.w.team).map (·.ssthr)).getD 0
    let t := if fld (dw b 0) 8 7 != 0 then fld (dw b 0) 8 7 else if thr != 0 then thr else ssQ b / 2
    s.pushJob v f clsSjob 0#4 (BitVec.ofNat 48) (v.desc s .sspace op b [] t)) s

def execSscan (f : EFmt) (s : State) : Host.Outcome State Fault Refusal := sjob 0x100 8 f checkSscan s
def execSsld (f : EFmt) (s : State) : Host.Outcome State Fault Refusal := sjob 0x101 3 f checkSsCopy s
def execSsst (f : EFmt) (s : State) : Host.Outcome State Fault Refusal := sjob 0x102 3 f checkSsCopy s

def execSswait (f : RFmt) (s : State) : Host.Outcome State Fault Refusal :=
  let sl := slotR 0x103 f
  issue sl.once (waveOp sl (idSource f) (jobWait .sspace f sl false)) s

/-- SSQRY (R333). -/
def ssqry (f : RFmt) (sl : Slot) (s : State) (v : View) (x : Word × Word) (s0 : State) : State :=
  let a := x.1.toNat
  let tab := s.tab v.w.team .sspace
  let thr := ((s.team? v.w.team).map (·.ssthr)).getD 0
  if v.w.gw then s0.trapAll v sl failFld7
  else match x.2.toNat with
    | 0 =>
      if 65536 ≤ a then s0.trapAll v sl failFld7
      else (s.acquireLines v (s.jobLines v.w.team .sspace a)).finishWith v sl f (regI32 (tab.word .sspace a))
    | 1 =>
      if 65536 ≤ a then s0.trapAll v sl failFld7
      else (s.acquireLines v (s.jobLines v.w.team .sspace a)).finishWith v sl f
        (regI32 (BitVec.ofNat 32 (((tab.find a).map (·.count)).getD 0)))
    | 2 => if a != 0 then s0.trapAll v sl failFld7 else s.finishWith v sl f (regI32 (BitVec.ofNat 32 thr))
    | 3 =>
      if 64 < a then s0.trapAll v sl failFld7
      else if s.ringBusy v then s0
      else (s.modTeam v.w.team fun t => { t with ssthr := a }).finishWith v sl f (regI32 (BitVec.ofNat 32 thr))
    | _ => s0.trapAll v sl failFld7

def execSsqry (f : RFmt) (s : State) : Host.Outcome State Fault Refusal :=
  let sl := slotR 0x104 f
  issue sl.once (waveOp sl (idSource f) (ssqry f sl)) s

/-! ## Arithmetic (R313 to R317) -/

/-- OVF and INX, which the completion word shows beside INV (R322). -/
def ssFlags (f : Flags) : Flags := f &&& (flagOvf ||| flagInx)

/-- A rounding to FP32, and one to BF16. -/
def ss32 (x : Exact) : Val × Flags := let r := rneF32 x; (fp32.decode false r.1, ssFlags r.2)
def ss16 (x : Exact) : Nat × Flags := let r := bf16.deliver .rne false x; (r.1, ssFlags r.2)

/-- Successive updates of R98 from an accumulator by groups of four terms. -/
def accSums (acc : Word) (l : List Val) : Word × Flags :=
  (groupsOf 4 l.length l).foldl (fun (a : Word × Flags) g => let r := accUpdate a.1 g; (r.1, a.2 ||| ssFlags r.2)) (acc, 0#6)

def val32 (w : Word) : Val := fp32.decode false w.toNat

def Val.isNan : Val → Bool
  | .nan => true
  | _ => false

/-- INV where an element became a NaN and none of its operands is one (R322). -/
def ssInv (r : Val) (ops : List Val) : Flags := flagIf (r.isNan && !ops.any (·.isNan)) flagInv

/-- The inputs of a part, step by step. -/
structure SsIn where
  x : List (List Val)
  a : List Val
  b : List (List Val)
  c : List (List Val)
  deriving DecidableEq, Repr

/-- The flags of a list of results. -/
def orFlags {α : Type} (l : List (α × Flags)) : Flags := l.foldl (fun a x => a ||| x.2) 0#6

/-- One FP32 state element of R313. -/
def recElem (a x : Val) (h : Word) (b : Val) : Word × Flags :=
  let r := rneF32 (exactSum .rne [a.mul (val32 h), x.mul b])
  let w := BitVec.ofNat 32 r.1
  (w, ssFlags r.2 ||| ssInv (val32 w) [a, val32 h, x, b])

/-- One output element of R313. -/
def recOut (row : List Word) (c : List Val) : Nat × Flags :=
  let hs := row.map val32
  let z := accSums 0#32 (List.zipWith Val.mul hs c)
  let y := ss16 (val32 z.1).exact
  (y.1, z.2 ||| y.2 ||| ssInv (bf16.decode false y.1) (hs ++ c))

/-- One step of the recurrent form over the state's rows. -/
def recStep (h : List (List Word)) (x : List Val) (a : Val) (b c : List Val) : List (List Word) × List Nat × Flags :=
  let rows := List.zipWith (fun row xp => List.zipWith (recElem a xp) row b) h x
  let h' := rows.map fun r => r.map (·.1)
  let ys := h'.map fun r => recOut r c
  (h', ys.map (·.1), orFlags rows.flatten ||| orFlags ys)

/-- The recurrent form of a part (R313). -/
def recPart : List (List Val) → List Val → List (List Val) → List (List Val) → List (List Word) → List (List Word) × List (List Nat) × Flags
  | x :: xs, a :: as, b :: bs, c :: cs, h =>
    let (h1, y, f) := recStep h x a b c
    let (h2, ys, g) := recPart xs as bs cs h1
    (h2, y :: ys, f ||| g)
  | _, _, _, _, h => (h, [], 0#6)

/-- R314: D[i][j] as the chain of the decays of steps j + 1 to i. -/
def decayChain : List Val → Val × Flags
  | [] => (.fin false 1 0, 0#6)
  | a :: l => l.foldl (fun (v : Val × Flags) k => let r := ss32 (v.1.mul k).exact; (r.1, v.2 ||| r.2)) (a, 0#6)

def SsIn.decay (p : SsIn) (i j : Nat) : Val × Flags := decayChain ((p.a.take i).drop j)

/-- Mt[i][j] of R315 for j from 1 to i. -/
def SsIn.mt (p : SsIn) (i j : Nat) : Val × Flags :=
  let g := accSums 0#32 (List.zipWith Val.mul (p.c.getD (i - 1) []) (p.b.getD (j - 1) []))
  let d := p.decay i j
  let m := ss16 ((val32 g.1).mul d.1).exact
  (bf16.decode false m.1, g.2 ||| d.2 ||| m.2)

/-- The inputs x_1[p] to x_i[p]. -/
def SsIn.col (p : SsIn) (i ch : Nat) : List Val := (p.x.take i).map fun r => r.getD ch (.fin false 0 0)

/-- One output element of R315, from Mt[i][1..i]. -/
def SsIn.out (p : SsIn) (h : List Word) (i ch : Nat) (mts : List Val) : Nat × Flags :=
  let xs := p.col i ch
  let hs := h.map val32
  let c := p.c.getD (i - 1) []
  let y := accSums 0#32 (List.zipWith Val.mul mts xs)
  let z := accSums 0#32 (List.zipWith Val.mul hs c)
  let ci := p.decay i 0
  let w := ss32 (ci.1.mul (val32 z.1)).exact
  let r := ss16 (exactSum .rne [val32 y.1, w.1])
  (r.1, y.2 ||| z.2 ||| ci.2 ||| w.2 ||| r.2 |||
    ssInv (bf16.decode false r.1) (xs ++ hs ++ c ++ p.a.take i ++ (p.b.take i).flatten))

/-- The decayed inputs of R316 for one channel: RNE(D[m][j] x_j[p]) for j from 1 to m. -/
def SsIn.decayed (p : SsIn) (ch : Nat) : List (Val × Flags) :=
  (p.col p.a.length ch).mapIdx fun j x =>
    let d := p.decay p.a.length (j + 1)
    let r := ss16 (d.1.mul x).exact
    (bf16.decode false r.1, d.2 ||| r.2)

/-- One state element of R316. -/
def SsIn.next (p : SsIn) (h : Word) (ch n : Nat) (dx : List Val) : Word × Flags :=
  let cm := p.decay p.a.length 0
  let bs := p.b.map fun r => r.getD n (.fin false 0 0)
  let start := rneF32 (cm.1.mul (val32 h)).exact
  let r := accSums (BitVec.ofNat 32 start.1) (List.zipWith Val.mul dx bs)
  (r.1, ssFlags start.2 ||| cm.2 ||| r.2 ||| ssInv (val32 r.1) (p.a ++ val32 h :: bs ++ p.col p.a.length ch))

/-- The matrix form of a part (R314 to R316). -/
def matPart (p : SsIn) (h : List (List Word)) : List (List Word) × List (List Nat) × Flags :=
  let ys := (List.range p.a.length).map fun k =>
    let mts := (List.range (k + 1)).map fun j => p.mt (k + 1) (j + 1)
    (h.mapIdx fun ch row => p.out row (k + 1) ch (mts.map (·.1)), orFlags mts)
  let hs := h.mapIdx fun ch row =>
    let dx := p.decayed ch
    (row.mapIdx fun n x => p.next x ch n (dx.map (·.1)), orFlags dx)
  (hs.map fun r => r.1.map (·.1), ys.map fun r => r.1.map (·.1),
   orFlags ys ||| orFlags hs ||| orFlags (ys.flatMap (·.1)) ||| orFlags (hs.flatMap (·.1)))

/-! ## Parts (R311, R318, R326) -/

/-- The part at step `done`: its length and whether it runs in the matrix form. -/
def ssPart (j : Job) : Nat × Bool :=
  let b := j.d.desc
  if j.done + ssQ b ≤ ssL b then (ssQ b, true) else (ssL b - j.done, j.d.n ≤ ssL b - j.done)

def ssLast (j : Job) : Bool := j.done + (ssPart j).1 = ssL j.d.desc

/-- Values of `w`-byte elements of a byte string. -/
def ssVals (f : FFmt) (w n : Nat) (l : List Byte) : List Val :=
  (groupsOf w n l).map fun e => f.decode false (leNat e)

/-- The inputs of a part from its three byte strings. -/
def ssInputs (b : List Word) (m : Nat) (l : List (List Byte)) : SsIn :=
  let n := ssN b
  let bc := groupsOf (4 * n) m (l.getD 2 [])
  { x := (groupsOf 128 m (l.getD 0 [])).map (ssVals bf16 2 64)
    a := ssVals (if ssA b = 4 then fp32 else bf16) (ssA b) m (l.getD 1 [])
    b := bc.map fun r => ssVals bf16 2 n (r.take (2 * n))
    c := bc.map fun r => ssVals bf16 2 n (r.drop (2 * n)) }

/-- The state of a job, row by row. -/
def State.ssH (s : State) (j : Job) : List (List Word) :=
  let (off, n) := ssState j.d.desc
  groupsOf (ssN j.d.desc) 64 (leWords (memGets (((s.team? j.d.team).map (·.ssm)).getD []) off n) (n / 4))

/-- R325: the state of a job cannot be read. -/
def State.ssErred (s : State) (j : Job) : Bool := s.erred .sstate j.d.team (ssState j.d.desc).1 (ssState j.d.desc).2

def State.ssPut (s : State) (j : Job) (h : List (List Word)) : State :=
  s.modTeam j.d.team fun t => { t with ssm := memPuts t.ssm (ssState j.d.desc).1 (wordBytes h.flatten) }

/-- R330: INIT clears the state before the first part. -/
def State.ssInit (s : State) (j : Job) : State :=
  if (dw j.d.desc 0).getLsbD 7 && j.done = 0 && j.data = [] then s.ssPut j [List.replicate (64 * ssN j.d.desc) 0#32] else s

/-- Reads of a list of pieces of one side, up to the first that stops, with its index. -/
def State.readSide (j : Job) (mem : Bool) : List (Nat × Nat) → Nat → State → State × List (List Byte) × Option (Nat × JobStop)
  | [], _, s => (s, [], none)
  | (a, n) :: l, i, s =>
    match s.sideRead j mem .expanded a n with
    | (s, .error e) => (s, [], some (i, e))
    | (s, .ok x) =>
      let (s, xs, e) := State.readSide j mem l (i + 1) s
      (s, x :: xs, e)

/-- The input ranges of the current part: x, a, B with C. -/
def ssReads (j : Job) : List (Nat × Nat) :=
  let b := j.d.desc
  let m := (ssPart j).1
  let at' (k w : Nat) : Nat × Nat := (ssBase b + (dw b k).toNat + w * j.done, w * m)
  [at' 4 128, at' 5 (ssA b), at' 6 (4 * ssN b)]

/-- The inputs of the current part are read; `rd` at the last. TAILREC shows a recurrent part from its start. -/
def State.ssRead (s : State) (j : Job) : State :=
  let s := if (ssPart j).2 then s else s.modIds j fun t id => t.upd id fun e => { e with tailrec := true }
  let s := s.ssInit j
  match State.readSide j ((dw j.d.desc 0).getLsbD 6) (ssReads j) 0 s with
  | (s, l, none) =>
    let s := s.modJob j.k fun x => { x with data := l }
    if ssLast j then s.readDone j else s
  | (s, _, some (_, e)) => s.jobStop j false e fun c => s.modJob j.k fun x => { x with fault := some (c, 0) }

/-- The rows of a part from the first not yet written (R326), as many as can be written. -/
def State.ssRows (j : Job) : List (List Nat) → Nat → State → State × Nat × List Nat × Option JobStop
  | [], i, s => (s, i, [], none)
  | y :: ys, i, s =>
    let b := j.d.desc
    match s.sideWrite j ((dw b 0).getLsbD 6) .expanded (ssBase b + (dw b 7).toNat + 128 * (j.done + i)) (y.flatMap (leBytes 2)) with
    | (s, .error e) => (s, i, [], some e)
    | (s, .ok ls) =>
      let (s, k, l, e) := State.ssRows j ys (i + 1) s
      (s, k, ls ++ l, e)

/-- A part whose inputs are read runs: its rows are written, then its state, and its steps count as done. `row` holds the rows
already written when a write had to wait. -/
def State.ssRun (s : State) (j : Job) : State :=
  if s.ssErred j then s.modJob j.k fun x => { x with fault := some (11, 0) }
  else
  let (m, mat) := ssPart j
  let p := ssInputs j.d.desc m j.data
  let (h, ys, f) := if mat then matPart p (s.ssH j) else recPart p.x p.a p.b p.c (s.ssH j)
  let s := s.modJob j.k fun x => { x with flags := x.flags ||| f.setWidth 32 }
  match State.ssRows j (ys.drop j.row) j.row s with
  | (s, _, ls, none) =>
    let s := ((s.noteLines j ls).ssPut j h).modIds j fun t id => t.upd id fun e =>
      { e with count := j.done + m, flags := e.flags ||| f.setWidth 32 }
    s.modJob j.k fun x => { x with done := j.done + m, data := [], row := 0 }
  | (s, k, ls, some e) =>
    let s := (s.noteLines j ls).modJob j.k fun x => { x with row := k }
    s.jobStop j true e fun c => s.modJob j.k fun x => { x with fault := some (c, 0) }

/-! ## The block's events -/

/-- What a state-space job names (R321). -/
def sspaceAreas (j : Job) : List Area :=
  let b := j.d.desc
  let side (mem : Bool) (lo n : Nat) (wr : Bool) : Area := ⟨if mem then 0 else 1, if mem then j.d.ctx.toNat else j.d.team, lo, lo + n, wr⟩
  if j.d.op = 0x100 then
    let st := ssState b
    ⟨3, j.d.team, st.1, st.1 + st.2, true⟩ ::
      (ssRanges b).mapIdx fun i r => side ((dw b 0).getLsbD 6) (ssBase b + r.1.toNat) r.2 (i = 3)
  else
    let (off, len, sp, a) := ssCopy b
    [⟨3, j.d.team, off, off + len, j.d.op = 0x101⟩, side sp a len (j.d.op = 0x102)]

/-- SS_JOB_DISPATCH (R319). -/
def execSsJobDispatch (die clu : Nat) (s : State) : Host.Outcome State Fault Refusal := .next (s.dispatchJob .sspace die clu 4)

/-- A job of the block that is not stopped and that may go on. -/
def State.ssGoing (s : State) (die clu k : Nat) : Option Job :=
  match s.job? k with
  | none => none
  | some j =>
    if j.d.eng = .sspace && j.die == die && j.clu == clu && !j.stalled && j.fault.isNone && s.running.contains die &&
      (s.team? j.d.team).isSome && s.jobFree sspaceAreas j then some j else none

/-- SS_READ_DONE (R323): the last input of the last part, or the source of an SSLD or SSST, has been read. -/
def execSsReadDone (die clu k : Nat) (s : State) : Host.Outcome State Fault Refusal :=
  match s.ssGoing die clu k with
  | none => .next s
  | some j =>
    if j.rd then .next s
    else if j.d.op = 0x100 then .next (if ssLast j && j.data = [] then s.ssRead j else s)
    else
      let (off, len, sp, a) := ssCopy j.d.desc
      if j.d.op = 0x101 then
        match State.readSide j sp ((List.range (len / 4096)).map fun i => (a + 4096 * i, 4096)) 0 s with
        | (s, l, none) => .next ((s.modJob k fun x => { x with data := l }).readDone j)
        | (s, l, some (_, e)) => .next (s.jobStop j false e fun c => s.modJob k fun x => { x with data := l, fault := some (c, 0) })
      else
        let m := ((s.team? j.d.team).map (·.ssm)).getD []
        let ok := (List.range (len / 4096)).takeWhile fun i => !s.erred .sstate j.d.team (off + 4096 * i) 4096
        if ok.length < len / 4096 then
          .next (s.modJob k fun x => { x with data := groupsOf 4096 64 (memGets m off (4096 * ok.length)), fault := some (11, 0) })
        else .next ((s.modJob k fun x => { x with data := groupsOf 4096 64 (memGets m off len) }).readDone j)

/-- SSCAN_PART_COMPLETE (R330): the current part runs to its end; one that is not the last reads its inputs here. -/
def execSscanPartComplete (die clu k : Nat) (s : State) : Host.Outcome State Fault Refusal :=
  match s.ssGoing die clu k with
  | none => .next s
  | some j =>
    if j.d.op != 0x100 || ssL j.d.desc ≤ j.done then .next s
    else if ssLast j then .next (if j.rd then s.ssRun j else s)
    else
      let s := if j.data = [] then s.ssRead j else s
      match s.job? k with
      | none => .next s
      | some j => .next (if j.stalled || j.fault.isSome || j.data = [] then s else s.ssRun j)

/-- A job of the block ends, DONE or FAULT. -/
def State.ssEnd (s : State) (j : Job) : State :=
  match j.fault with
  | some (c, _) => s.faultJob j c 0
  | none => s.doneJob j

/-- SSCAN_JOB_END. -/
def execSscanJobEnd (die clu k : Nat) (s : State) : Host.Outcome State Fault Refusal :=
  match s.endable die clu k [0x100] sspaceAreas with
  | none => .next s
  | some j => .next (if j.fault.isSome || j.done = ssL j.d.desc then s.ssEnd j else s)

/-- SSLD_JOB_END (R331): the units read are copied into the region. -/
def execSsldJobEnd (die clu k : Nat) (s : State) : Host.Outcome State Fault Refusal :=
  match s.endable die clu k [0x101] sspaceAreas with
  | none => .next s
  | some j =>
    let s := s.modTeam j.d.team fun t => { t with ssm := memPuts t.ssm (ssCopy j.d.desc).1 j.data.flatten }
    .next ((s.modIds j fun t id => t.upd id fun e => { e with count := j.data.length }).ssEnd j)

/-- Units written from the first not yet written. -/
def State.ssUnits (j : Job) (mem : Bool) (a : Nat) : List (List Byte) → Nat → State → State × Nat × List Nat × Option JobStop
  | [], i, s => (s, i, [], none)
  | u :: us, i, s =>
    match s.sideWrite j mem .expanded (a + 4096 * i) u with
    | (s, .error e) => (s, i, [], some e)
    | (s, .ok ls) =>
      let (s, k, l, e) := State.ssUnits j mem a us (i + 1) s
      (s, k, ls ++ l, e)

/-- SSST_JOB_END (R331): the units are stored; a fault leaves those before it. -/
def execSsstJobEnd (die clu k : Nat) (s : State) : Host.Outcome State Fault Refusal :=
  match s.endable die clu k [0x102] sspaceAreas with
  | none => .next s
  | some j =>
    let (_, _, sp, a) := ssCopy j.d.desc
    let (s1, n, ls, e) := State.ssUnits j sp a (j.data.drop j.done) j.done s
    let s1 := ((s1.noteLines j ls).modIds j fun t id => t.upd id fun e => { e with count := n }).modJob k fun x => { x with done := n }
    match e with
    | none => .next (s1.ssEnd { j with done := n })
    | some e => .next (s1.jobStop j true e fun c => s1.ssEnd { j with fault := some (c, 0) })

end Sys2Proof.Machine
end

