-- ==== Sys2Proof/Machine/Copy.lean ====
section
/-! DEFINITION. The copy unit: its instructions and the events of its jobs (spec/10_copy). -/

namespace Sys2Proof.Machine

/-! ## Descriptors (R336 to R340, R352, R353) -/

/-- One side of a copy: its window's number, its offset word, and its dimensions as sizes and strides. -/
structure CopySide where
  win : Nat
  off : Word
  dims : List (Nat × Int)
  deriving DecidableEq, Repr

/-- A prefetch. -/
def copyPf (op : Nat) (b : List Word) : Bool := op = 0x110 && (dw b 0).getLsbD 16

/-- The words of one field of every outer dimension of a CPY. -/
def cpyWords (b : List Word) (k : Nat) : List Word := (List.range (fld (dw b 0) 6 3)).map fun d => dw b (4 + 3 * d + k)

/-- The outer dimensions of one side of a CPY. -/
def cpyDims (b : List Word) (k : Nat) : List (Nat × Int) :=
  List.zipWith (fun n s => (fld n 0 17, s.toInt)) (cpyWords b 0) (cpyWords b k)

/-- The table side and the packed side of CPYG and CPYS. -/
def tableSide (win : Nat) (b : List Word) : CopySide := ⟨win, dw b 1, [((dw b 3).toNat, (dw b 2).toInt)]⟩
def packedSide (win : Nat) (b : List Word) : CopySide := ⟨win, dw b 4, [(fld (dw b 8) 0 17, (dw b 5).toInt)]⟩

/-- Source and destination. -/
def copySrc (op : Nat) (b : List Word) : CopySide :=
  let sw := fld (dw b 0) 0 3
  if op = 0x110 then ⟨sw, dw b 1, cpyDims b 1⟩ else if op = 0x111 then tableSide sw b else packedSide sw b
def copyDst (op : Nat) (b : List Word) : CopySide :=
  let w := fld (dw b 0) 3 3
  if op = 0x110 then ⟨w, dw b 2, cpyDims b 2⟩ else if op = 0x111 then packedSide w b else tableSide w b

/-- The sides a job has. -/
def copySides (op : Nat) (b : List Word) : List CopySide := if copyPf op b then [copySrc op b] else [copySrc op b, copyDst op b]

def copyMask (b : List Word) : Nat := fld (dw b 0) 12 4
def copyRl (op : Nat) (b : List Word) : Nat := fld (dw b (if op = 0x110 then 3 else 6)) 0 17
def copyRows (op : Nat) (b : List Word) : Nat := if op = 0x110 then ((cpyWords b 0).map fun w => fld w 0 17).foldl (· * ·) 1 else fld (dw b 8) 0 17

/-- The extent of a side (R352). -/
def CopySide.extent (c : CopySide) (rl : Nat) : Int × Int :=
  (c.off.toInt + (c.dims.map fun d => min 0 (((d.1 : Int) - 1) * d.2)).sum,
   c.off.toInt + (c.dims.map fun d => max 0 (((d.1 : Int) - 1) * d.2)).sum + rl - 1)

/-- R353: a table of no rows has no extent to check. -/
def CopySide.empty (c : CopySide) : Bool := c.dims.any fun d => d.1 = 0

/-- The index list in scratchpad. -/
def copyList (op : Nat) (b : List Word) : Bool := op != 0x110 && !(dw b 0).getLsbD 6

/-- R336: the side that the mask swizzles: the destination where it is a scratchpad window, else the source. -/
def swizzledDst (wins : List Window) : Bool := (wins[1]?).any (·.kind)

def copyFields (op : Nat) (b : List Word) : Bool :=
  let w0 := dw b 0
  let nd := fld w0 6 3
  let rl := copyRl op b
  let common := rl % 4 != 0 || rl = 0 || 65536 < rl || !([0, 1, 3, 7, 15].contains (copyMask b))
  if op = 0x110 then
    nd = 7 || b.length != 4 + 3 * nd || extraBits w0 0x1FFFF#32 || extraBits (dw b 3) 0x1FFFF#32 || common ||
    (cpyWords b 0).any (fun w => extraBits w 0x1FFFF#32 || w == 0#32 || 65536 < w.toNat) || 2 ^ 24 < copyRows op b ||
    (copyPf op b && (fld w0 3 3 != 0 || fld w0 9 3 != 0 || copyMask b != 0 || dw b 2 != 0#32 || (cpyWords b 2).any (· != 0#32)))
  else
    let fv := w0.getLsbD 7
    let ir := w0.getLsbD 6
    let n := copyRows op b
    (op = 0x112 && fv) || extraBits w0 0xFEFF#32 || extraBits (dw b 6) 0x1FFFF#32 || extraBits (dw b 8) 0x1FFFF#32 || common ||
    n = 0 || (if ir then 16 else 65536) < n || (ir && dw b 7 != 0#32) || b.length != 9 + (if fv then 1 else 0) + (if ir then n else 0)

/-- The windows a copy captures: source, then destination. -/
def View.copyWins (v : View) (op : Nat) (b : List Word) : List Window :=
  (copySides op b).map fun c => v.thr.wins[c.win]?.getD Window.invalid

/-- An address or offset that ALIGN reports. -/
def sideAddr (w : Window) (off : Word) : BitVec 64 := if w.kind then off.setWidth 64 else BitVec.ofInt 64 (w.base.toNat + off.toInt)

def sideAlign (w : Window) (c : CopySide) (quantum : Nat) : Option Fail :=
  failIf (c.off.toNat % quantum != 0 || c.dims.any (fun d => d.2 % quantum != 0) || (!w.kind && w.base.toNat % 4 != 0))
    ⟨.align, some (sideAddr w c.off), true⟩

def sideExtent (w : Window) (c : CopySide) (rl : Nat) : Option Fail :=
  let (lo, hi) := c.extent rl
  if c.empty then none
  else if w.kind then failIf (lo < 0 || (w.limit.toNat : Int) ≤ hi) (failScratch c.off)
  else failRange (w.base.toNat + lo) (w.base.toNat + hi)

def checkCopy (op : Nat) (s : State) (v : View) (b : List Word) : Option Fail :=
  let sides := copySides op b
  let wins := v.copyWins op b
  let mask := copyMask b
  let rl := copyRl op b
  let q (w : Window) : Nat := if mask != 0 && w.kind then 16 else 4
  let extents (kind : Bool) : List (Option Fail) :=
    (List.zip wins sides).map fun x => if x.1.kind = kind then sideExtent x.1 x.2 rl else none
  firstFail ([
    failIf (copyFields op b) failFld7,
    failIf (mask != 0 && (!wins.any (·.kind) || rl % (16 * (mask + 1)) != 0)) failFld7] ++
    List.zipWith (fun (w : Window) (c : CopySide) => failIf (!w.valid) (failScratch c.off)) wins sides ++
    (List.zip wins sides).map (fun x => sideAlign x.1 x.2 (q x.1)) ++ extents true ++ extents false ++
    [failIf (copyList op b && (dw b 7).toNat % 4 != 0) (failAlign (dw b 7).toNat),
     failIf (copyList op b && (s.scratchOf v.w).2 < (dw b 7).toNat + 4 * copyRows op b) (failScratch (dw b 7))])

def copyBatches (op : Nat) (b : List Word) : Nat := (copyRows op b + 7) / 8

/-- The counter a copy names. -/
def copyCtr (b : List Word) : Nat := fld (dw b 0) 9 3

def Team.ccAt (t : Team) (c : Nat) : Word := (t.cc[c]?).getD 0#32
def Team.setCc (t : Team) (c : Nat) (x : Word) : Team := { t with cc := t.cc.setIfInBounds c x }

/-! ## The instructions -/

/-- R351: a push of class CJOB. -/
def cjob (op lo hi : Nat) (f : EFmt) (s : State) : Host.Outcome State Fault Refusal :=
  let sl := slotE op f f.count.toNat (f.count.toNat < lo || hi < f.count.toNat)
  let waits (s : State) (v : View) (b : List Word) : Bool :=
    256 ≤ (s.tab v.w.team .copy).outstanding || s.ringBusy v || (copySides op b).any (fun c => v.thr.winBusy c.win) ||
    (!copyPf op b && (s.team? v.w.team).any fun t => 2 ^ 32 ≤ (t.ccAt (copyCtr b)).toNat + copyBatches op b)
  -- the windows' WINs are awaited before anything is checked against them
  issue sl (fun s v => if (copySides op (v.block f)).any (fun c => v.thr.winBusy c.win) then s else
    jobIns sl f false (checkCopy op) waits (fun s v b =>
      let wins := v.copyWins op b
      let src := (wins[0]?).getD Window.invalid
      let pf := copyPf op b
      let fold := pf && !src.kind
      let va := (src.base.toNat + (dw b 1).toInt).toNat
      let key (id : Nat) : BitVec 48 := if fold then BitVec.ofNat 48 (va / 64) else BitVec.ofNat 48 id
      let s1 := s.pushJob v f clsCjob (if fold then 10#4 else 0#4) key (v.desc s .copy op b wins (copyBatches op b))
      if pf || (s1.tab v.w.team .copy).issued = (s.tab v.w.team .copy).issued then s1
      else s1.modTeam v.w.team fun t => t.setCc (copyCtr b) (t.ccAt (copyCtr b) + BitVec.ofNat 32 (copyBatches op b))) s v) s

def execCpy (f : EFmt) (s : State) : Host.Outcome State Fault Refusal := cjob 0x110 4 22 f s
def execCpyg (f : EFmt) (s : State) : Host.Outcome State Fault Refusal := cjob 0x111 9 26 f s
def execCpys (f : EFmt) (s : State) : Host.Outcome State Fault Refusal := cjob 0x112 9 26 f s

/-- R346: a return with a counter's value acquires the writes of every batch whose decrement has brought it there: of all that the counter has
counted (log 51). -/
def State.acquireCc (s : State) (v : View) (c : Nat) : State :=
  let l := ((s.team? v.w.team).map (·.ccWrote)).getD []
  s.acquireLines v ((l.filter fun e => e.1 == c).flatMap (·.2))

/-- CPYW (R354). -/
def execCpyw (f : RFmt) (s : State) : Host.Outcome State Fault Refusal :=
  let sl := slotR 0x113 f
  issue sl.once (waveOp sl (idSource f) fun s v x s0 =>
    if v.w.gw || 7 < x.1.toNat then s0.trapAll v sl failFld7
    else match s.team? v.w.team with
      | none => s
      | some t =>
        let c := t.ccAt x.1.toNat
        if c ≤ x.2 then (s.acquireCc v x.1.toNat).finishWith v sl f (regI32 c) else s0.park v.iss (.copyCount x.1.toNat x.2) sl) s

/-- CPYQ (R355). -/
def cpyq (f : RFmt) (sl : Slot) (s : State) (v : View) (x : Word × Word) (s0 : State) : State :=
  let a := x.1.toNat
  let tab := s.tab v.w.team .copy
  let bad := s0.trapAll v sl failFld7
  if v.w.gw then bad
  else match x.2.toNat with
    | 0 => if 65536 ≤ a then bad else (s.acquireLines v (s.jobLines v.w.team .copy a)).finishWith v sl f (regI32 (tab.word .copy a))
    | 1 => if 65536 ≤ a then bad else s.finishWith v sl f (regI32 (BitVec.ofNat 32 (((tab.find a).map (·.count)).getD 0)))
    | 2 =>
      if 7 < a then bad
      else
        let c := ((s.team? v.w.team).map (·.ccAt a)).getD 0#32
        (s.acquireCc v a).finishWith v sl f (regI32 c)
    | 3 => if a != 0 then bad else s.finishWith v sl f (regI32 (BitVec.ofNat 32 tab.outstanding))
    | _ => bad

def execCpyq (f : RFmt) (s : State) : Host.Outcome State Fault Refusal :=
  let sl := slotR 0x114 f
  issue sl.once (waveOp sl (idSource f) (cpyq f sl)) s

/-- What a cancelled copy job's counter loses (R344). -/
def State.uncount (s : State) (j : JobDesc) : State :=
  if copyPf j.op j.desc then s
  else s.modTeam j.team fun t => t.setCc (copyCtr j.desc) (t.ccAt (copyCtr j.desc) - BitVec.ofNat 32 j.n)

/-- CPYC (R356). -/
def execCpyc (f : RFmt) (s : State) : Host.Outcome State Fault Refusal :=
  let sl := slotR 0x115 f
  issue sl.once (waveOp sl (oneI32 f) fun s v a s0 =>
    if v.w.gw || a.extractLsb' 16 16 != 0#16 then s0.trapAll v sl failFld7
    else if s.ringBusy v then s0
    else
      let id := a.toNat
      let rec? := (s.ring (.cluster v.w.die v.w.clu)).recs.find? fun r => r.cls == clsCjob && !r.dispatched &&
        ((s.tab v.w.team .copy).find id).any fun x => r.jobIds.contains (v.w.team, x.serial)
      let (s1, st) := s.cancelJob v .copy id
      let s1 := if st = .ok then (rec?.bind (·.job)).elim s1 (fun j => s1.uncount j) else s1
      s1.finishWith v sl f st.reg) s

/-! ## Rows -/

/-- The indices of a row over dimensions of given sizes, the first fastest (R337). -/
def rowIdx : List Nat → Nat → List Nat
  | [], _ => []
  | n :: l, j => j % n :: rowIdx l (j / n)

/-- The offset of row j of a side that runs over its dimensions. -/
def CopySide.row (c : CopySide) (j : Nat) : Int :=
  c.off.toInt + (List.zipWith (fun (i : Nat) (d : Nat × Int) => (i : Int) * d.2) (rowIdx (c.dims.map (·.1)) j) c.dims).sum

/-- The offset of row v of a table. -/
def CopySide.at (c : CopySide) (v : Nat) : Int := c.off.toInt + (c.dims.map fun d => (v : Int) * d.2).sum

/-- What a row of a job does (R337, R338). -/
inductive RowDo where
  | copy (src dst : Int)
  | fill (dst : Int) (w : Word)
  | drop
  deriving DecidableEq, Repr

/-- Row j, with the index words of its batch. -/
def rowDo (op : Nat) (b : List Word) (idx : List Word) (j : Nat) : RowDo :=
  let src := copySrc op b
  let dst := copyDst op b
  if op = 0x110 then .copy (src.row j) (dst.row j)
  else
    let fv := (dw b 0).getLsbD 7
    let v := if (dw b 0).getLsbD 6 then dw b (9 + (if fv then 1 else 0) + j) else idx.getD (j % 8) 0#32
    if v < dw b 3 then
      (if op = 0x111 then .copy (src.at v.toNat) (dst.row j) else .copy (src.row j) (dst.at v.toNat))
    else if op = 0x111 then .fill (dst.row j) (if fv then dw b 9 else 0#32)
    else .drop

/-- The position of byte x of row j under a mask (R336). -/
def swizzle (mask j x : Nat) : Nat := 16 * ((x / 16) ^^^ (j &&& mask)) + x % 16

/-- The mask of one side of a job: 1 for the destination. -/
def sideMask (j : Job) (dst : Bool) : Nat :=
  let w := (j.d.wins[if dst then 1 else 0]?).getD Window.invalid
  if w.kind && (dst || !swizzledDst j.d.wins) then copyMask j.d.desc else 0

/-- A row's bytes read from its source. -/
def State.rowRead (s : State) (j : Job) (r : Nat) (o : Int) : State × Except JobStop (List Byte) :=
  let w := (j.d.wins[0]?).getD Window.invalid
  let n := copyRl j.d.op j.d.desc
  if w.kind then
    if o < 0 || (w.limit.toNat : Int) < o + n then (s, .error (.fault 7))
    else
      let m := s.teamScratch j.d.team
      let at1 (x : Nat) : Nat := w.base.toNat + o.toNat + swizzle (sideMask j false) r x
      if (List.range n).any fun x => s.scratchErred j.d.team (at1 x) 1 then (s, .error (.fault 11))
      else (s, .ok ((List.range n).map fun x => memGet m (at1 x)))
  else s.jobRead j .stored (w.base.toNat + o).toNat n

/-- A row's 16-byte chunks written in order from chunk `c`, with the lines written (R349). -/
def State.rowWrite (j : Job) (r : Nat) (o : Int) : List (List Byte) → Nat → State → State × List Nat × Option JobStop
  | [], _, s => (s, [], none)
  | l :: ls, c, s =>
    let w := (j.d.wins[1]?).getD Window.invalid
    let put : State × Except JobStop (List Nat) :=
      if w.kind then
        if o < 0 || (w.limit.toNat : Int) < o + copyRl j.d.op j.d.desc then (s, .error (.fault 7))
        else (s.teamScratchPut j.d.team (w.base.toNat + o.toNat + swizzle (sideMask j true) r (16 * c)) l, .ok [])
      else s.jobWrite j .stored ((w.base.toNat + o).toNat + 16 * c) l
    match put with
    | (s, .error e) => (s, [], some e)
    | (s, .ok x) =>
      let (s, xs, e) := State.rowWrite j r o ls (c + 1) s
      (s, x ++ xs, e)

/-- Rows of the current batch. -/
def batchRows (j : Job) : Nat := min 8 (copyRows j.d.op j.d.desc - 8 * j.done)

def State.modTicket (s : State) (j : Job) (f : CcTicket → CcTicket) : State :=
  s.modTeam j.d.team fun t => { t with ccQ := t.ccQ.map fun q => if q.k == j.k then f q else q }

/-- The current row is read: its bytes stand in `data` behind the batch's index words. -/
def State.copyReadRow (s : State) (j : Job) (idx : List Byte) : State :=
  let r := 8 * j.done + j.row
  let out (s : State) (l : List Byte) : State :=
    (s.modIds j fun t id => t.upd id fun e => { e with oor := e.oor + 1 }).modJob j.k fun x => { x with data := [idx, l], oor := x.oor + 1 }
  match rowDo j.d.op j.d.desc (leWords idx 8) r with
  | .copy src _ =>
    match s.rowRead j r src with
    | (s, .error e) => s.jobStop j false e fun c => s.modJob j.k fun x => { x with fault := some (c, 0) }
    | (s, .ok l) => s.modJob j.k fun x => { x with data := [idx, l] }
  | .fill _ w => out s (wordBytes (List.replicate (copyRl j.d.op j.d.desc / 4) w))
  | .drop => out s []

/-- The current row is written. -/
def State.copyWriteRow (s : State) (j : Job) (idx l : List Byte) : State :=
  let r := 8 * j.done + j.row
  let next (s : State) (ls : List Nat) : State :=
    ((s.noteLines j ls).modTicket j fun q => { q with cur := q.cur ++ ls }).modJob j.k fun x => { x with row := x.row + 1, data := [idx] }
  match rowDo j.d.op j.d.desc (leWords idx 8) r with
  | .drop => next s []
  | .copy _ dst | .fill dst _ =>
    match State.rowWrite j r dst (groupsOf 16 (l.length / 16 + 1) l) 0 s with
    | (s, ls, none) => next s ls
    | (s, ls, some e) =>
      let s := (s.noteLines j ls).modTicket j fun q => { q with cur := q.cur ++ ls }
      s.jobStop j true e fun c => s.modJob j.k fun x => { x with fault := some (c, 0) }

/-- The rows of the current batch in order, as far as they go; with `hold`, up to the read of its last row. -/
def State.copyBatch (k : Nat) (hold : Bool) : Nat → State → State
  | 0, s => s
  | fuel + 1, s =>
    match s.job? k with
    | none => s
    | some j =>
      if j.stalled || j.fault.isSome || batchRows j ≤ j.row then s
      else match j.data with
        | [] =>
          -- R339: the batch starts: its indices are read
          let at1 := (dw j.d.desc 7).toNat + 32 * j.done
          if !copyList j.d.op j.d.desc then State.copyBatch k hold fuel (s.modJob k fun x => { x with data := [[]] })
          else if s.scratchErred j.d.team at1 (4 * batchRows j) then s.modJob k fun x => { x with fault := some (11, 0) }
          else State.copyBatch k hold fuel (s.modJob k fun x => { x with data := [memGets (s.teamScratch j.d.team) at1 (4 * batchRows j)] })
        | [idx] =>
          let s1 := s.copyReadRow j idx
          -- a frozen page leaves the row unread, to be tried again later
          if (s1.job? k).any fun x => x.data.length = 1 then s1 else State.copyBatch k hold fuel s1
        | idx :: l :: _ =>
          if hold && j.row + 1 = batchRows j then s
          else
            let s1 := s.copyWriteRow j idx l
            if (s1.job? k).any fun x => x.row = j.row then s1 else State.copyBatch k hold fuel s1

/-! ## Completion counters (R344) -/

/-- The decrements that may be made: those of each counter's first job in dispatch order, and of the next when that owes none. -/
def drainCc : List CcTicket → List Nat → Team → Team × List CcTicket
  | [], _, t => (t, [])
  | q :: l, blocked, t =>
    if blocked.contains q.ctr then
      let (t, r) := drainCc l blocked t
      (t, q :: r)
    else
      let c := t.ccAt q.ctr
      let t := { t.setCc q.ctr (c - BitVec.ofNat 32 q.ready.length) with
        ccWrote := t.ccWrote ++ q.ready.map fun x => (q.ctr, x) }
      let left := q.left - q.ready.length
      if left = 0 then drainCc l blocked t
      else
        let (t, r) := drainCc l (q.ctr :: blocked) t
        (t, { q with left := left, ready := [] } :: r)

def Team.drain (t : Team) : Team :=
  let (t', q) := drainCc t.ccQ [] t
  { t' with ccQ := q }

/-- A batch has performed all its writes. -/
def State.copyBatchDone (s : State) (j : Job) : State :=
  let s := s.modIds j fun t id => t.upd id fun e => { e with count := j.done + 1 }
  let s := s.modTicket j fun q => { q with ready := q.ready ++ [q.cur], cur := [] }
  (s.modTeam j.d.team Team.drain).modJob j.k fun x => { x with done := j.done + 1, row := 0, data := [] }

/-! ## The unit's events -/

/-- What a copy job names (R345): a table whole, another side row by row. -/
def copyAreas (j : Job) : List Area :=
  let b := j.d.desc
  let rl := copyRl j.d.op b
  let area (w : Window) (lo n : Int) (wr : Bool) : Area :=
    ⟨if w.kind then 1 else 0, if w.kind then j.d.team else j.d.ctx.toNat, w.base.toNat + lo, w.base.toNat + lo + n, wr⟩
  let side (w : Window) (c : CopySide) (wr : Bool) : List Area :=
    if c.empty then []
    else if j.d.op = 0x110 || c = packedSide c.win b then
      (List.range (copyRows j.d.op b)).map fun r =>
        -- a swizzled row keeps to its own bytes (R336)
        area w (c.row r) rl wr
    else [area w (c.extent rl).1 ((c.extent rl).2 + 1 - (c.extent rl).1) wr]
  ((List.zip j.d.wins (copySides j.d.op b)).mapIdx fun i x => side x.1 x.2 (i = 1)).flatten ++
    if copyList j.d.op b then [⟨1, j.d.team, (dw b 7).toNat, (dw b 7).toNat + 4 * copyRows j.d.op b, false⟩] else []

/-- COPY_JOB_DISPATCH (R345): a prefetch of a scratchpad window ends at once (R340). -/
def execCopyJobDispatch (die clu : Nat) (s : State) : Host.Outcome State Fault Refusal :=
  let s1 := s.dispatchJob .copy die clu 16
  if s1.jobs.length = s.jobs.length then .next s
  else match s1.jobs.getLast? with
    | none => .next s1
    | some j =>
      if copyPf j.d.op j.d.desc then .next (if (j.d.wins[0]?).any (·.kind) then s1.doneJob j else s1)
      else .next (s1.modTeam j.d.team fun t => { t with ccQ := t.ccQ ++ [⟨j.k, copyCtr j.d.desc, j.d.n, [], []⟩] })

/-- A copy job that moves rows and may go on. -/
def State.copyGoing (s : State) (die clu k : Nat) : Option Job :=
  match s.job? k with
  | none => none
  | some j =>
    if j.d.eng = .copy && j.die == die && j.clu == clu && !j.stalled && j.fault.isNone && s.running.contains die &&
      (s.team? j.d.team).isSome && j.done < j.d.n && !copyPf j.d.op j.d.desc && s.jobFree copyAreas j then some j else none

/-- COPY_READ_DONE (R346): the last batch, up to the read of the job's last row. -/
def execCopyReadDone (die clu k : Nat) (s : State) : Host.Outcome State Fault Refusal :=
  match s.copyGoing die clu k with
  | none => .next s
  | some j =>
    if j.rd || j.done + 1 != j.d.n then .next s
    else
      let s := State.copyBatch k true 20 s
      match s.job? k with
      | none => .next s
      | some j => .next (if j.fault.isNone && j.row + 1 = batchRows j && j.data.length = 2 then s.readDone j else s)

/-- COPY_BATCH_COMPLETE: the current batch's rows; the last batch must have been read. -/
def execCopyBatchComplete (die clu k : Nat) (s : State) : Host.Outcome State Fault Refusal :=
  match s.copyGoing die clu k with
  | none => .next s
  | some j =>
    if j.done + 1 = j.d.n && !j.rd then .next s
    else
      let s := State.copyBatch k false 20 s
      match s.job? k with
      | none => .next s
      | some j => .next (if !j.stalled && j.fault.isNone && batchRows j ≤ j.row then s.copyBatchDone j else s)

/-- COPY_JOB_END: DONE after the last batch, or FAULT, whose counter loses every batch not completed. -/
def execCopyJobEnd (die clu k : Nat) (s : State) : Host.Outcome State Fault Refusal :=
  match s.job? k with
  | none => .next s
  | some j =>
    if j.d.eng ≠ .copy || j.die != die || j.clu != clu || !s.running.contains die || copyPf j.d.op j.d.desc then .next s
    else match j.fault with
      | some (c, _) =>
        let s := s.modTicket j fun q => { q with ready := q.ready ++ List.replicate (q.left - q.ready.length) [], cur := [] }
        .next ((s.modTeam j.d.team Team.drain).faultJob j c 0)
      | none => .next (if j.done = j.d.n then s.doneJob j else s)

/-- COPY_PREFETCH_END (R340): the rows are in the L2, which shows nowhere else; the job and every job folded into it end DONE, with no
batch counted (log 96). -/
def execCopyPrefetchEnd (die clu k : Nat) (s : State) : Host.Outcome State Fault Refusal :=
  match s.job? k with
  | none => .next s
  | some j =>
    if j.d.eng = .copy && j.die == die && j.clu == clu && s.running.contains die && copyPf j.d.op j.d.desc && s.jobFree copyAreas j then
      .next (s.doneJob j)
    else .next s

end Sys2Proof.Machine
end

