-- ==== Sys2Proof/Machine/Stack.lean ====
section
/-! DEFINITION. The stack engines: their instructions, the events of their jobs, and the expansion of compressed pages in place
(spec/12_stack; 05_memory R160, R163). -/

namespace Sys2Proof.Machine

/-! ## Descriptors (R403 to R405) -/

/-- Units, and the scratchpad flag of an SRED. -/
def sredN (b : List Word) : Nat := fld (dw b 0) 0 20 + 1
def sredSp (b : List Word) : Bool := (dw b 0).getLsbD 20

/-- n of an SRED.BADD, and the bytes of a block. -/
def baddN (b : List Word) : Nat := fld (dw b 0) 24 3 + 2

/-- A memory range checked at issue: first byte, size. -/
def failMem (a n : Nat) : Option Fail := failRange a (a + n - 1)

/-- PROT for a source range: memory, or scratchpad. -/
def failSource (s : State) (v : View) (sp : Bool) (a n : Nat) : Option Fail :=
  if sp then failIf ((s.scratchOf v.w).2 < a + n) ⟨.prot, some (BitVec.ofNat 64 a), true⟩ else failMem a n

def failQuantum (q a : Nat) : Option Fail := failIf (a % q != 0) (failAlign a)

def hiBad (w : Word) : Bool := extraBits w 0x3FFFFF#32

/-- The sector forms of SRED. -/
def checkSred (s : State) (v : View) (b : List Word) : Option Fail :=
  let sp := sredSp b
  let d := addr2 (dw b 1) (dw b 2)
  let a := addr2 (dw b 3) (dw b 4)
  let n := 32 * sredN b
  firstFail [
    failIf (extraBits (dw b 0) 0x1FFFFF#32 || hiBad (dw b 2) || hiBad (dw b 4) || (sp && (dw b 4 != 0#32 || v.w.gw))) failFld7,
    failQuantum 32 d, failQuantum 32 a, failMem d n, failSource s v sp a n]

def checkBadd (s : State) (v : View) (b : List Word) : Option Fail :=
  let sp := sredSp b
  let d := addr2 (dw b 1) (dw b 2)
  let a := addr2 (dw b 3) (dw b 4)
  let ds := addr2 (dw b 5) (dw b 6)
  let ss := addr2 (dw b 7) (dw b 8)
  let n := 4 * baddN b * sredN b
  firstFail [
    failIf (extraBits (dw b 0) 0x71FFFFF#32 || hiBad (dw b 2) || hiBad (dw b 4) || hiBad (dw b 6) || hiBad (dw b 8) || 8 < baddN b ||
      (sp && (dw b 4 != 0#32 || dw b 8 != 0#32 || v.w.gw))) failFld7,
    failQuantum 4 d, failQuantum 4 a, failQuantum 2 ds, failQuantum 2 ss,
    failMem d n, failSource s v sp a n, failMem ds (2 * sredN b), failSource s v sp ss (2 * sredN b)]

/-- SGATH: rows and their length. -/
def sgathN (b : List Word) : Nat := fld (dw b 0) 0 16 + 1
def sgathRl (b : List Word) : Nat := 32 * (fld (dw b 0) 16 8 + 1)

def checkSgath (_ : State) (_ : View) (b : List Word) : Option Fail :=
  let t := addr2 (dw b 1) (dw b 2)
  let st := (dw b 3).toNat
  let nr := (dw b 4).toNat
  let l := addr2 (dw b 5) (dw b 6)
  let d := addr2 (dw b 7) (dw b 8)
  firstFail [
    failIf (extraBits (dw b 0) 0xFFFFFF#32 || hiBad (dw b 2) || hiBad (dw b 6) || hiBad (dw b 8)) failFld7,
    failQuantum 32 t, failQuantum 32 st, failQuantum 4 l, failQuantum 32 d,
    if nr = 0 then none else failMem t ((nr - 1) * st + sgathRl b), failMem l (4 * sgathN b), failMem d (sgathRl b * sgathN b)]

/-- SCONV: formats, n, and element widths. -/
def convSf (b : List Word) : Nat := fld (dw b 0) 20 2
def convDf (b : List Word) : Nat := fld (dw b 0) 24 2
def convN (b : List Word) : Nat := fld (dw b 0) 28 3 + 2
def convBits (b : List Word) (f : Nat) : Nat := if f = 0 then 32 else if f = 1 then 16 else convN b

def checkSconv (_ : State) (_ : View) (b : List Word) : Option Fail :=
  let sf := convSf b
  let df := convDf b
  let n := sredN b
  let src := addr2 (dw b 1) (dw b 2)
  let dst := addr2 (dw b 3) (dw b 4)
  let ssc := addr2 (dw b 5) (dw b 6)
  let dsc := addr2 (dw b 7) (dw b 8)
  firstFail [
    failIf (extraBits (dw b 0) 0x733FFFFF#32 || hiBad (dw b 2) || hiBad (dw b 4) || hiBad (dw b 6) || hiBad (dw b 8) || sf = df) failFld7,
    failIf (sf < 2 && df < 2 && fld (dw b 0) 28 3 != 0) failFld7,
    failIf (8 < convN b || ((sf = 2 || df = 2) && !([2, 4, 8].contains (convN b)))) failFld7,
    failIf ((sf < 2 && (dw b 5 != 0#32 || dw b 6 != 0#32)) || (df < 2 && (dw b 7 != 0#32 || dw b 8 != 0#32))) failFld7,
    failQuantum 4 src, failQuantum 4 dst, failQuantum 2 ssc, failQuantum 2 dsc,
    failMem src (4 * convBits b sf * n), failMem dst (4 * convBits b df * n),
    if sf < 2 then none else failMem ssc (2 * n), if df < 2 then none else failMem dsc (2 * n)]

/-! ## The instructions -/

/-- R402: the job goes to its engines, and d takes its identifier. -/
def State.sendStack (s : State) (v : View) (f : EFmt) (d : JobDesc) : State :=
  let id := (s.tab v.w.team .stack).nextId
  let n := (s.tab v.w.team .stack).issued + 1
  let s := (s.l1Release v.w.pipes).modTab v.w.team .stack fun t => t.issue (jobCap .stack)
  let j : Job := { k := s.uid, d := { d with id := id, serial := n }, ids := [(v.w.team, n)], die := v.w.die, clu := v.w.clu, done := 0, rd := false,
                   suspended := false, stalled := false, faultVa := 0, unresolved := false, data := [], fault := none, flags := 0#32, oor := 0,
                   row := 0, units := [] }
  let s := { s with jobs := s.jobs ++ [j], uid := s.uid + 1 }
  (s.writeLanes v.w.uid v.act f.d.toNat false false (regI32 (BitVec.ofNat 32 id))).advance v.iss 1

def stackIns (op count : Nat) (check : State → View → List Word → Option Fail) (f : EFmt) (s : State) : Host.Outcome State Fault Refusal :=
  let sl := slotE op f f.count.toNat (f.count.toNat != count)
  issue sl (jobIns sl f true check (fun s v _ => 64 ≤ (s.tab v.w.team .stack).outstanding)
    fun s v b => s.sendStack v f (v.desc s .stack op b [] 0)) s

def execSgath (f : EFmt) (s : State) : Host.Outcome State Fault Refusal := stackIns 0x130 9 checkSgath f s
def execSredAddF32 (f : EFmt) (s : State) : Host.Outcome State Fault Refusal := stackIns 0x131 5 checkSred f s
def execSredAddBf16 (f : EFmt) (s : State) : Host.Outcome State Fault Refusal := stackIns 0x132 5 checkSred f s
def execSredMaxF32 (f : EFmt) (s : State) : Host.Outcome State Fault Refusal := stackIns 0x133 5 checkSred f s
def execSredBadd (f : EFmt) (s : State) : Host.Outcome State Fault Refusal := stackIns 0x134 9 checkBadd f s
def execSconv (f : EFmt) (s : State) : Host.Outcome State Fault Refusal := stackIns 0x135 9 checkSconv f s

def execSwait (f : RFmt) (s : State) : Host.Outcome State Fault Refusal :=
  let sl := slotR 0x136 f
  issue sl.once (waveOp sl (idSource f) (jobWait .stack f sl true)) s

/-- SQRY (R406). -/
def sqry (f : RFmt) (sl : Slot) (s : State) (v : View) (x : Word × Word) (s0 : State) : State :=
  let a := x.1.toNat
  let tab := s.tab v.w.team .stack
  let bad := s0.trapAll v sl failFld7
  match x.2.toNat with
  | 0 => if 65536 ≤ a then bad else (s.acquireLines v (s.jobLines v.w.team .stack a)).finishWith v sl f (regI32 (tab.word .stack a))
  | 1 =>
    if 65536 ≤ a then bad
    else (s.acquireLines v (s.jobLines v.w.team .stack a)).finishWith v sl f (regI32 (BitVec.ofNat 32 (((tab.find a).map (·.count)).getD 0)))
  | 2 => if a != 0 then bad else s.finishWith v sl f (regI32 (BitVec.ofNat 32 tab.outstanding))
  | _ => bad

def execSqry (f : RFmt) (s : State) : Host.Outcome State Fault Refusal :=
  let sl := slotR 0x137 f
  issue sl.once (waveOp sl (idSource f) (sqry f sl)) s

/-! ## Units -/

def stackUnits (j : Job) : Nat := if j.d.op = 0x130 then sgathN j.d.desc else sredN j.d.desc

/-- The source ranges of unit q: for BADD and BFP sources the data, then its scale halfword. -/
def stackSources (j : Job) (q : Nat) : List (Nat × Nat) :=
  let b := j.d.desc
  if j.d.op = 0x134 then
    [(addr2 (dw b 3) (dw b 4) + 4 * baddN b * q, 4 * baddN b), (addr2 (dw b 7) (dw b 8) + 2 * q, 2)]
  else if j.d.op = 0x135 then
    let n := 4 * convBits b (convSf b)
    (addr2 (dw b 1) (dw b 2) + n * q, n) :: (if convSf b < 2 then [] else [(addr2 (dw b 5) (dw b 6) + 2 * q, 2)])
  else [(addr2 (dw b 3) (dw b 4) + 32 * q, 32)]

/-- The destination ranges of unit q. -/
def stackTargets (j : Job) (q : Nat) : List (Nat × Nat) :=
  let b := j.d.desc
  if j.d.op = 0x130 then [(addr2 (dw b 7) (dw b 8) + sgathRl b * q, sgathRl b)]
  else if j.d.op = 0x134 then
    [(addr2 (dw b 1) (dw b 2) + 4 * baddN b * q, 4 * baddN b), (addr2 (dw b 5) (dw b 6) + 2 * q, 2)]
  else if j.d.op = 0x135 then
    let n := 4 * convBits b (convDf b)
    (addr2 (dw b 3) (dw b 4) + n * q, n) :: (if convDf b < 2 then [] else [(addr2 (dw b 7) (dw b 8) + 2 * q, 2)])
  else [(addr2 (dw b 1) (dw b 2) + 32 * q, 32)]

/-- The source bytes of unit q, and whether its index was out of range (R404). -/
def State.stackRead (s : State) (j : Job) (q : Nat) : State × Except JobStop (List Byte × Bool) :=
  let b := j.d.desc
  if j.d.op = 0x130 then
    match s.jobRead j .expanded (addr2 (dw b 5) (dw b 6) + 4 * q) 4 with
    | (s, .error e) => (s, .error e)
    | (s, .ok l) =>
      let x := leNat l
      if (dw b 4).toNat ≤ x then (s, .ok (List.replicate (sgathRl b) 0#8, true))
      else match s.jobRead j .expanded (addr2 (dw b 1) (dw b 2) + x * (dw b 3).toNat) (sgathRl b) with
        | (s, .error e) => (s, .error e)
        | (s, .ok r) => (s, .ok (r, false))
  else
    match State.readSide j (j.d.op = 0x135 || !sredSp b) (stackSources j q) 0 s with
    | (s, l, none) => (s, .ok (l.flatten, false))
    | (s, _, some (_, e)) => (s, .error e)

/-- The sources of units from q on, `n` of them, up to the first that stops. -/
def State.stackReads (j : Job) : Nat → Nat → State → State × List (List Byte) × Nat × Option JobStop
  | 0, _, s => (s, [], 0, none)
  | n + 1, q, s =>
    match s.stackRead j q with
    | (s, .error e) => (s, [], 0, some e)
    | (s, .ok (l, out)) =>
      let (s, ls, k, e) := State.stackReads j n (q + 1) s
      (s, l :: ls, k + (if out then 1 else 0), e)

/-- A word-by-word or element-by-element reduction of a sector. -/
def sectorOp (bytes : Nat) (f : Nat → Nat → Nat × Flags) (d x : List Byte) : List Byte × Flags :=
  let k := 32 / bytes
  let r := List.zipWith f ((groupsOf bytes k d).map leNat) ((groupsOf bytes k x).map leNat)
  (r.flatMap fun y => leBytes bytes y.1, orFlags r)

/-- One word of SRED.ADD.F32 or SRED.MAX.F32 (R241). -/
def sredWord (op : BitVec 4) (d x : Nat) : Nat × Flags :=
  let r := foldWord op (BitVec.ofNat 32 d) (BitVec.ofNat 32 x)
  (r.1.toNat, r.2)

/-- One halfword of SRED.ADD.BF16 (R403). -/
def sredBf16 (d x : Nat) : Nat × Flags := bf16.deliver .rne false (exactSum .rne [bf16.decode false d, bf16.decode false x])

/-- The 32 values of a source block of SCONV, as FP32 or BF16. -/
def convVals (f : Nat) (l : List Byte) : List Val :=
  if f = 0 then ssVals fp32 4 32 l else ssVals bf16 2 32 l

/-- The mantissas of a block: BFP-E in element order, BFP-P in planes (R89, R90). -/
def convMants (f n : Nat) (l : List Byte) : List Int :=
  if f = 2 then (List.range 32).map fun e => toSigned n (byteBits (fun i => l.getD i 0#8) (n * e) n)
  else (blockOf n (0#32 :: leWords l n)).m

/-- The bytes of mantissas in a layout. -/
def convPut (f n : Nat) (m : List Int) : List Byte :=
  if f = 2 then leBytes (4 * n) ((m.mapIdx fun e x => 2 ^ (n * e) * wrap n x).sum)
  else wordBytes (planesOf n ⟨0, m⟩)

/-- One block of SCONV (R405): its source bytes, with the scale halfword behind them, as the destination's bytes. -/
def convBlock (b : List Word) (l : List Byte) : List Byte × Flags :=
  let sf := convSf b
  let df := convDf b
  let n := convN b
  let size := 4 * convBits b sf
  let sc := leNat (l.drop size)
  if sf < 2 then
    let vs := convVals sf l
    if df < 2 then
      let r := vs.map (toFloat (if df = 0 then fp32 else bf16) .rne false false)
      (r.flatMap fun x => leBytes (if df = 0 then 4 else 2) x.1, orFlags r)
    else
      let (e, f) := agreedE n false vs
      let q := vs.map (quantise n e)
      (convPut df n (q.map (·.1)) ++ leBytes 2 e, f ||| orFlags q)
  else
    let m := convMants sf n l
    if df < 2 then
      let r := m.map fun x => toFloat (if df = 0 then fp32 else bf16) .rne false false (blockVal n (sc % 512) x)
      (r.flatMap fun x => leBytes (if df = 0 then 4 else 2) x.1, orFlags r)
    else (convPut df n m ++ leBytes 2 (sc % 512), 0#6)

/-- The new bytes of a unit's destination ranges, one after the other, from its old bytes and its source. -/
def stackResult (j : Job) (d x : List Byte) : List Byte × Flags :=
  let b := j.d.desc
  match j.d.op with
  | 0x130 => (x, 0#6)
  | 0x131 => sectorOp 4 (sredWord 7#4) d x
  | 0x132 => sectorOp 2 sredBf16 d x
  | 0x133 => sectorOp 4 (sredWord 8#4) d x
  | 0x134 =>
    let n := baddN b
    let blk (l : List Byte) : Block := blockOf n (BitVec.ofNat 32 (leNat (l.drop (4 * n)) % 512) :: leWords l n)
    let (r, f) := blockAdd n (blk d) (blk x)
    (wordBytes (planesOf n r) ++ leBytes 2 r.e, f)
  | _ => convBlock b x

/-- The targets of several ranges to be written, with their lengths. -/
def State.unitTargets (j : Job) : List (Nat × Nat) → State → State × Except JobStop (List (Target × Nat))
  | [], s => (s, .ok [])
  | (a, n) :: l, s =>
    match s.jobTarget j .expanded .write a n with
    | (s, .error e) => (s, .error e)
    | (s, .ok t) =>
      match State.unitTargets j l s with
      | (s, .error e) => (s, .error e)
      | (s, .ok ts) => (s, .ok ((t, n) :: ts))

/-- A unit's bytes written at its targets, one after the other. -/
def State.putUnit (j : Job) : List (Target × Nat) → List Byte → State → State
  | [], _, s => s
  | (t, n) :: ts, l, s => State.putUnit j ts (l.drop n) (s.putTarget j none (l.take n) t)

/-- One unit applied whole or not at all (R398, R407). -/
def State.stackApply (s : State) (j : Job) (q : Nat) (x : List Byte) : State × Except JobStop (List Nat × Flags) :=
  match State.unitTargets j (stackTargets j q) s with
  | (s, .error e) => (s, .error e)
  | (s, .ok ts) =>
    let ls := ts.flatMap fun t => t.1.jobLines
    if j.d.op = 0x130 || j.d.op = 0x135 then
      let (l, f) := stackResult j [] x
      (State.putUnit j ts l s, .ok (ls, f))
    else match allSome (ts.map fun t => s.targetBytes j .stored t.2 t.1) with
      | none => (s, .error (.fault 11))
      | some d =>
        let (l, f) := stackResult j d.flatten x
        (State.putUnit j ts l s, .ok (ls, f))

/-- R393: the engine that performs a unit: the one that homes the first byte it writes. -/
def State.unitEngine (s : State) (j : Job) (q : Nat) : Nat :=
  match (stackTargets j q).head? with
  | none => 0
  | some (a, _) =>
    match (s.ctx? j.d.ctx).map fun c => s.walk c a with
    | some (.leaf l p) =>
      let pa := leafAddr l p a
      (pkgOf pa).toNat * 16 + 2 * homeDie pa + pa / 4096 % 2
    | _ => 0

/-- The units whose sources are read and that are not yet applied, in ascending order. -/
def unitsLeft (j : Job) : List Nat := (List.range j.data.length).filter fun q => !j.units.contains q

/-- Units applied in some order, up to the first that stops. -/
def State.stackApplies (j : Job) : List Nat → State → State × List Nat × List Nat × Flags × Option JobStop
  | [], s => (s, [], [], 0#6, none)
  | q :: qs, s =>
    match s.stackApply j q (j.data.getD q []) with
    | (s, .error e) => (s, [], [], 0#6, some e)
    | (s, .ok (ls, f)) =>
      let (s, us, l, g, e) := State.stackApplies j qs s
      (s, q :: us, ls ++ l, f ||| g, e)

/-! ## The engines' events -/

/-- The bytes a stack job writes. -/
def stackAreas (j : Job) : List Area :=
  let u := stackUnits j
  (List.zip (stackTargets j 0) (stackTargets j u)).map fun x => ⟨0, j.d.ctx.toNat, x.1.1, x.2.1, true⟩

/-- STACK_READ_DONE (R396): every source of the job is read; a fault leaves the units before it to be applied. -/
def execStackReadDone (k : Nat) (s : State) : Host.Outcome State Fault Refusal :=
  match s.job? k with
  | none => .next s
  | some j =>
    if j.d.eng ≠ .stack || j.rd || j.stalled || j.fault.isSome then .next s
    else match State.stackReads j (stackUnits j) 0 s with
      | (s, l, n, none) => .next ((s.modJob k fun x => { x with data := l, oor := n }).readDone { j with oor := n })
      | (s, l, n, some e) =>
        .next (s.jobStop j false e fun c => s.modJob k fun x => { x with data := l, oor := n, fault := some (c, 0) })

/-- R397: a stack job that may write: its sources are read, or as far as a fault, and no earlier job of the team writes common bytes. -/
def State.stackReady (s : State) (k : Nat) : Option Job :=
  match s.job? k with
  | none => none
  | some j =>
    let earlier := (s.jobs.takeWhile (·.k != k)).any fun i =>
      i.d.eng = .stack && i.d.team == j.d.team && areasClash (s.jobAreas stackAreas i) (s.jobAreas stackAreas j)
    if j.d.eng ≠ .stack || !(j.rd || j.fault.isSome) || j.stalled || earlier then none else some j

/-- Units of a job take effect in an order; `fin` is what follows when none stops. -/
def State.stackUnitsDo (s : State) (j : Job) (qs : List Nat) (fin : State → Job → State) : State :=
  let (s1, us, ls, f, e) := State.stackApplies j qs s
  let j := { j with units := j.units ++ us, flags := j.flags ||| f.setWidth 32 }
  let s1 := (s1.noteLines j ls).modIds j fun t id => t.upd id fun e => { e with count := j.units.length, flags := e.flags ||| j.flags, oor := max e.oor j.oor }
  let s1 := s1.modJob j.k fun _ => j
  match e with
  | none => fin s1 j
  | some e => s1.jobStop j true e fun c => s1.faultJob j c 0

/-- The next unit of the part of a job that an engine performs (R393). -/
def State.stackTurn (s : State) (k engine : Nat) : State :=
  match s.stackReady k with
  | none => s
  | some j =>
    match (unitsLeft j).find? fun q => s.unitEngine j q = engine with
    | none => s
    | some q => s.stackUnitsDo j [q] fun s _ => s

/-- STACK_JOB_END (R397, R407): every part's units that are left take effect, part by part, and the job ends. -/
def execStackJobEnd (k : Nat) (s : State) : Host.Outcome State Fault Refusal :=
  match s.stackReady k with
  | none => .next s
  | some j =>
    let order := ((unitsLeft j).map fun q => (s.unitEngine j q, q)).mergeSort fun a b => a.1 < b.1 || (a.1 == b.1 && a.2 ≤ b.2)
    .next (s.stackUnitsDo j (order.map (·.2)) fun s j =>
      match j.fault with
      | none => s.doneJob j
      | some (c, _) => s.faultJob j c 0)

/-! ## Shoot-down and expansion in place -/

/-- R163: RUN cleared in a window whose run overlaps a range. -/
def Window.shoot (lo hi : Nat) (w : Window) : Window :=
  if w.run && w.base.toNat < hi && lo < w.base.toNat + w.limit.toNat then { w with run := false } else w

/-- R163: RUN cleared in the windows of a thread, and in those that a WIN of it is about to give. -/
def Thread.shoot (lo hi : Nat) (t : Thread) : Thread :=
  { t with wins := t.wins.map (Window.shoot lo hi),
           ops := t.ops.map fun o => match o.kind with | .win n w => { o with kind := .win n (w.shoot lo hi) } | _ => o }

/-- R163: a shoot-down of a context's range of virtual addresses, from `lo` up to but not including `hi`. -/
def State.shootDown (s : State) (ctx : BitVec 12) (lo hi : Nat) : State :=
  let wave (w : Wave) : Wave :=
    if w.ctx == ctx then
      { w with thr := w.thr.shoot lo hi, lanes := w.lanes.map fun l => { l with own := l.own.map (Thread.shoot lo hi) } }
    else w
  { s with
    tlb := s.tlb.filter fun e => !(e.ctx == ctx && e.page * pageSize e.level < hi && lo < (e.page + 1) * pageSize e.level)
    waves := s.waves.map wave
    saved := s.saved.map fun v => { v with waves := v.waves.map wave } }

/-- COMP_EXPAND_COMPLETE (R160, R401): the page holds its uncompressed bytes, COMP is cleared in its entry, and a shoot-down
follows. The bytes of a malformed unit stay uncorrectable (log 24). -/
def execCompExpandComplete (k : Nat) (s : State) : Host.Outcome State Fault Refusal :=
  match s.expands.find? (·.k == k) with
  | none => .next s
  | some e =>
    let s0 := { s with expands := s.expands.filter (·.k != k) }
    match (s.ctx? e.ctx).bind fun c => leafEntryFrom s.mem e.va.toNat c.root.toNat 3 with
    | none => .next s0
    | some a =>
      let pte : DWord := BitVec.ofNat 64 (s.physNat a 8)
      if pteFrame pte != e.frame.toNat || !attrComp (pte.extractLsb' 0 17) then .next s0
      else
        let addrs := (List.range e.size).map (e.frame.toNat + ·)
        let lost := addrs.filter fun x => (s.compByte x).isNone
        let bytes := addrs.map fun x => (s.compByte x).getD (memGet s.mem x)
        let inside (x : Nat) : Bool := e.frame.toNat ≤ x && x < e.frame.toNat + e.size
        let s1 := { s0 with bad := s0.bad.filter (fun x => !inside x) ++ lost }
        let s1 := s1.pageWrite none (pte.extractLsb' 0 17) e.frame.toNat bytes
        let s1 := s1.physWrite a (leBytes 8 (pte &&& ~~~(1#64 <<< 14)).toNat)
        let va := e.va.toNat / e.size * e.size
        .next (s1.shootDown e.ctx va (va + e.size))

end Sys2Proof.Machine
end

