-- ==== Sys2Proof/Machine/Sched.lean ====
section
/-! DEFINITION. The task schedulers, first part: launch and spawn records, bearings, the pending-launch queue, and the scheduler
instructions (spec/11_schedulers R357 to R363, R372 to R375, R385 to R392). -/

namespace Sys2Proof.Machine

/-! ## Records (R357, R358, R374) -/

/-- A control word that is ill-formed. -/
def ctlBad (w : Word) : Bool := extraBits w 0x00FF030F#32 || 10 < ctlBearing w

def entryBad (lo hi : Word) : Bool := lo.extractLsb' 0 2 != 0#2 || extraBits hi 0x3FFFFF#32
def entryOf (lo hi : Word) : BitVec 54 := hi.extractLsb' 0 22 ++ lo

/-- FOOT's ranges. -/
def footBad (w : Word) : Bool :=
  w.extractLsb' 28 4 != 0#4 || 512 < fld w 4 10 || 16 < fld w 14 5 || 256 < fld w 19 9 || fld w 19 9 % 4 != 0

/-- FOOT, the energy estimate and the number of waves as a footprint. -/
def footOf (w energy : Word) (waves : Nat) : Foot :=
  { width := match fld w 0 2 with | 0 => 1 | 1 => 8 | 2 => 16 | _ => 32
    bregs := 8 * (fld w 2 2 + 1), waves := waves, scr := 4096 * fld w 4 10, tiles := fld w 14 5, stKiB := fld w 19 9,
    energy := energy.toNat }

/-- R10: the most waves of a team. -/
def waveLimit (width : Nat) : Nat := if width = 32 then 8 else if width = 16 then 16 else 32

/-- R359: no cluster without named regions could hold the footprint. -/
def Foot.tooBig (f : Foot) : Bool :=
  waveLimit f.width < f.waves || Config.pipes / f.width * min Config.slots (Config.pool / f.bregs) < f.waves ||
  Config.scratch < f.scr || Config.tiles < f.tiles || Config.stateKiB < f.stKiB

/-- The payload of a LAUNCH record: entry, argument, completion address, grid. -/
def payEntry (p : List Word) : BitVec 54 := entryOf (dw p 0) (dw p 1)
def payFoot (p : List Word) : Foot := footOf (dw p 2) (dw p 3) (fld (dw p 7) 0 5 + 1)
def payTeams (p : List Word) : Nat := (dw p 4).toNat * (dw p 5).toNat * (dw p 6).toNat
def payCaddr (p : List Word) : BitVec 54 := entryOf (dw p 8) (dw p 9)
def payArg (p : List Word) : DWord := dw p 11 ++ dw p 10
def payWrlen (p : List Word) : Nat := fld (dw p 7) 16 16

/-- R359, first row: a payload that breaks R358. -/
def payBad (p : List Word) : Bool :=
  entryBad (dw p 0) (dw p 1) || footBad (dw p 2) || dw p 4 == 0#32 || dw p 5 == 0#32 || dw p 6 == 0#32 || 2 ^ 32 < payTeams p ||
  extraBits (dw p 7) 0xFFFF011F#32 || extraBits (dw p 9) 0x3FFFFF#32 || (payWrlen p != 0 && (payArg p).toNat % 2 ^ 18 != 0)

/-! ## Bearings (R362, R363) -/

def State.sched (s : State) (n : Nat) : Sched := assocGet s.scheds n Sched.reset
def State.modSched (s : State) (n : Nat) (f : Sched → Sched) : State := { s with scheds := assocSet s.scheds n (f (s.sched n)) }

/-- R363: a die, or its mirror while its cores are in reset or have failed. -/
def State.upDie (s : State) (n : Nat) : Nat := if s.running.contains n then n else n ^^^ 1

/-- The translation caches of the hub, numbered behind those of the dies. -/
def hubTlb : Nat := 8

/-- R362: the rotating pointer of a die, or of the hub: the die it names, and its advance. -/
def State.rotate (s : State) (own : Option Nat) : State × Nat :=
  match own with
  | some n => (s.modSched n fun x => { x with rot := x.rot + 1#3 }, s.upDie (s.sched n).rot.toNat)
  | none => ({ s with hubRot := s.hubRot + 1#3 }, s.upDie s.hubRot.toNat)

/-- R362, R363: the die whose keyring a record's bearing chooses, for a sender on a die or for the hub. -/
def State.bearingDie (s : State) (own : Option Nat) (ctx : BitVec 12) (bearing : Nat) (arg : Nat) : State × Nat :=
  if bearing < 8 then (s, s.upDie bearing)
  else if bearing = 9 then
    match own with
    | some n => (s, s.upDie n)
    | none => s.rotate none
  else if bearing = 10 && arg < 2 ^ 54 then
    match s.translate (own.getD hubTlb) ctx arg with
    | (s, .leaf l p) =>
      let pa := leafAddr l p arg
      if pkgOf pa == s.pkgid && !attrRepl (p.extractLsb' 0 17) then (s, s.upDie (homeDie pa)) else s.rotate own
    | (s, .fault _) => s.rotate own
  else s.rotate own

/-! ## A word at an address that no window names (R388, R389) -/

/-- PROT or ALIGN for a 4-byte word outside the translated range or misaligned. -/
def wordFail (a : DWord) : Option Fail :=
  firstFail [failIf (spillBase ≤ a.toNat) ⟨.prot, some a, true⟩, failIf (a.toNat % 4 != 0) ⟨.align, some a, true⟩]

/-- Steps 1 to 5 of R189 for a read of a word. -/
def State.wordAt (s : State) (v : View) (a : DWord) : State × Resolved :=
  match wordFail a with
  | some f => (s, .trap f)
  | none =>
    match s.pieceAt v a.toNat 4 with
    | (s, .error m) => (s, .fault (a.setWidth 54) m)
    | (s, .ok p) => (s, s.checkPieces v .read a.toNat 4 [p])

/-- Steps 1 to 5 of R189 for CADDR as an atomic: permissions and lock alone at step 5. -/
def State.caddrAt (s : State) (v : View) (a : DWord) : State × Resolved :=
  match wordFail a with
  | some f => (s, .trap f)
  | none =>
    match s.pieceAt v a.toNat 4 with
    | (s, .error m) => (s, .fault (a.setWidth 54) m)
    | (s, .ok p) =>
      if (s.ctx? v.w.ctx).any fun c => permits c .atomic p.attr then (s, .ok (.pages [p]) (a.setWidth 54))
      else (s, .trap ⟨.prot, some a, true⟩)

/-- d written in every active lane, and the end of an E-format slot. -/
def State.finishE (s : State) (v : View) (f : EFmt) (w : Word) : State :=
  ((s.clearReplay v.iss).writeLanes v.w.uid v.act f.d.toNat false false (regI32 w)).advance v.iss 1

/-! ## SPAWN and SPAWN.DEP (R386, R387) -/

/-- The payload of a SPAWN record or a carrier from word 0, the control word, the stream, ENTRY, FOOT and ENERGY, and arguments. -/
def spawnPayload (p0 ctl : Word) (st : BitVec 15) (e : List Word) (args : List Word) : List Word :=
  [p0, BitVec.ofNat 32 (ctlBearing ctl + (ctlPrio ctl).toNat * 16 + st.toNat * 2 ^ 16)] ++ e ++ (args ++ List.replicate 6 0#32).take 6

/-- What the record keeps of its spawner. -/
def spawnInfo (v : View) (args : List Word) : SpawnInfo :=
  { teamIndex := v.w.teamIndex, gridx := v.w.gridx, gridy := v.w.gridy, gridz := v.w.gridz, args := args.length, depth := v.w.depth,
    ident := some (v.w.ident, v.w.seq) }

/-- The spawn fields of a block: the control word, then from `k`: ENTRY, FOOT, ENERGY and the arguments. -/
def spawnBad (b : List Word) (k : Nat) : Bool := ctlBad (dw b 0) || entryBad (dw b k) (dw b (k + 1)) || footBad (dw b (k + 2))

/-- The push of a SPAWN record or a carrier, and d pending until its status. -/
def State.pushSpawn (s : State) (v : View) (f : EFmt) (kr : KrId) (p : Push) : State :=
  let fl := { plainFlight 0 kr p with
    src := some (v.iss, v.act), pipe := some (v.w.pipeOf v.low), d := some f.d.toNat, returns := .acceptance }
  let k := s.uid
  let s := (s.launchFlight fl v.w.pipes).modWave v.w.uid fun w => { w with seq := w.seq + 1 }
  (s.awaitPush v f.tk f.d.toNat true [k]).advance v.iss 1

def spawnBody (f : EFmt) (sl : Slot) (s : State) (v : View) : State :=
  let b := (v.block f)
  if v.w.gw then s.finishE v f Status.refused.word
  else if spawnBad b 1 then s.trapAll v sl failFld7
  else if v.w.handler then s.finishE v f Status.refused.word
  else if (footOf (dw b 3) (dw b 4) 1).tooBig then s.finishE v f Status.toobig.word
  else
    let args := b.drop 5
    let st := streamOf v.w (ctlSel (dw b 0))
    let bearing := ctlBearing (dw b 0)
    let (s, kr) : State × KrId :=
      if bearing = 9 then (s, .cluster v.w.die v.w.clu)
      else let (s, n) := s.bearingDie (some v.w.die) v.w.ctx bearing (addr2 (dw args 0) (dw args 1)); (s, .die n)
    s.pushSpawn v f kr
      { key := 0#48, cls := clsSpawn, op := 0#4, prio := ctlPrio (dw b 0), car := false, stream := st,
        target := BitVec.ofNat 24 (bearing + 16 * v.w.depth.toNat),
        words := spawnPayload 0#32 (dw b 0) st ((b.drop 1).take 4) args, ctx := v.w.ctx, ident := some (v.w.ident, v.w.seq),
        attempt := v.w.attempt, sender := senderWord s v.w v.low, origin := none, parent := v.w.gridOf s, counts := true, job := none,
        spawn := some (spawnInfo v args) }

def execSpawn (f : EFmt) (s : State) : Host.Outcome State Fault Refusal :=
  let sl := slotPush 0x120 f 5 11
  issue sl (spawnBody f sl) s

def spawnDepBody (f : EFmt) (sl : Slot) (s : State) (v : View) : State :=
  let b := (v.block f)
  let n := dw b 3
  if v.w.gw then s.finishE v f Status.refused.word
  else if spawnBad b 4 || (dw b 2).extractLsb' 16 16 != 0#16 || n == 0#32 || n.msb then s.trapAll v sl failFld7
  else if v.w.handler then s.finishE v f Status.refused.word
  else if (footOf (dw b 6) (dw b 7) 1).tooBig then s.finishE v f Status.toobig.word
  else
    let args := b.drop 8
    let st := streamOf v.w (ctlSel (dw b 0))
    s.pushSpawn v f (.cluster v.w.die v.w.clu)
      { key := (dw b 2).extractLsb' 0 16 ++ dw b 1, cls := clsCount, op := 13#4, prio := 0#2, car := true, stream := 0#15,
        target := 0x800000#24, words := spawnPayload n (dw b 0) st ((b.drop 4).take 4) args, ctx := v.w.ctx,
        ident := some (v.w.ident, v.w.seq), attempt := v.w.attempt, sender := senderWord s v.w v.low, origin := none,
        parent := v.w.gridOf s, counts := true, job := none, spawn := some (spawnInfo v args) }

def execSpawnDep (f : EFmt) (s : State) : Host.Outcome State Fault Refusal :=
  let sl := slotPush 0x121 f 8 14
  issue sl (spawnDepBody f sl) s

/-! ## LAUNCH (R359, R372, R388) -/

/-- Wave 0 of a team, by the slot it holds (06_group R203). -/
def Wave.leader (w : Wave) (s : State) : Bool := !w.gw && (s.team? w.team).any fun t => w.lanes.any fun l => l.uid == t.lead

def launchBody (f : EFmt) (sl : Slot) (nb : Bool) (s : State) (v : View) : State :=
  let b := (v.block f)
  let p := b.drop 1
  let caddr : DWord := dw p 9 ++ dw p 8
  let full := (s.team? v.w.team).any fun t => 4 ≤ t.launchq.length
  let status (st : Status) : State := s.finishE v f st.word
  if v.w.gw then status .refused
  else if ctlBad (dw b 0) || payBad p then s.trapAll v sl failFld7
  else if caddr.toNat % 4 != 0 then s.trapAll v sl ⟨.align, some caddr, true⟩
  else if (payFoot p).tooBig then status .toobig
  else if v.w.handler || v.w.depth == 10#4 then status .depth
  else if !v.w.leader s then status .refused
  else if s.ctxDead v.w.ctx then status .torn
  else
    let go (s : State) : State :=
      if full then (if nb then s.finishE v f Status.full.word else (s.clearReplay v.iss).park v.iss (.launchQueue b f.d.toNat) sl)
      else (s.queueLaunch v b).finishE v f Status.ok.word
    if caddr == 0#64 then go s
    else match s.caddrAt v caddr with
      | (_, .trap x) => s.trapAll v sl x
      | (s, .fault a m) => s.pageFault v sl a m (accessCode .atomic) [v.low] []
      | (s, _) => go s

def execLaunch (f : EFmt) (s : State) : Host.Outcome State Fault Refusal :=
  let sl := slotPush 0x122 f 13 13
  issue sl (launchBody f sl false) s

def execLaunchNb (f : EFmt) (s : State) : Host.Outcome State Fault Refusal :=
  let sl := slotPush 0x123 f 13 13
  issue sl (launchBody f sl true) s

/-- PENDING_LAUNCH_SEND (R372): the first entry not yet sent, once every entry before it has its arrival position. An entry whose die has failed
goes to the mirror of the die that it resolved at first (R363). -/
def execPendingLaunchSend (team : Nat) (s : State) : Host.Outcome State Fault Refusal :=
  match s.team? team with
  | none => .next s
  | some t =>
    match t.launchq.find? fun e => !e.sent with
    | none => .next s
    | some e =>
      if !((t.launchq.takeWhile (·.sent)).all (·.arrived)) || !s.running.contains t.die then .next s
      else
        let (s, n) : State × Nat := match e.dest with
          | some n => (s, s.upDie n)
          | none => s.bearingDie (some t.die) e.push.ctx (e.push.target.extractLsb' 0 4).toNat (payArg e.push.words).toNat
        let s := s.modTeam team fun t => { t with launchq := t.launchq.map fun x =>
          if x.k == e.k then { x with sent := true, kr := .die n, dest := some n } else x }
        .next { s with flights := s.flights ++ [{ plainFlight s.uid (.die n) e.push with returns := .acceptance, queue := some team }]
                       uid := s.uid + 1 }

/-! ## CWAIT, CQRY, NWAIT (R389 to R391) -/

/-- The ADDR pair in field a. -/
def pairSource (f : RFmt) (_ _ : Word) (l : Lane) : Except Fail DWord :=
  match l.pair ((pairReg f.a).getD 0) with
  | .ok a => .ok a
  | .error _ => .error failFmt

def slotPair (op : Nat) (f : RFmt) : Slot := slotR op f ((pairReg f.a).toList.map (· + 1)) (pairReg f.a).isNone

/-- The end of an R-format slot that a page fault may have left to replay. -/
def State.finishR (s : State) (v : View) (sl : Slot) (f : RFmt) (w : Word) : State := (s.clearReplay v.iss).finishWith v sl f (regI32 w)

/-- A read that met an uncorrectable error: nothing is written, and DATA is raised (05_memory R172). -/
def State.readError (s : State) (v : View) (sl : Slot) (a : BitVec 54) : State :=
  ((s.clearReplay v.iss).modThr v.iss fun t => { t with dataErr := [(v.low, a)] }).advance v.iss (1 + sl.nlits)

/-- A counter word read as an LDA at SYS, and what follows with it. -/
def withWord (sl : Slot) (s : State) (v : View) (a : DWord) (s0 : State) (k : State → Word → State) : State :=
  match s.wordAt v a with
  | (_, .trap x) => s0.trapAll v sl x
  | (_, .fault b m) => (s0.wordAt v a).1.pageFault v sl b m (accessCode .read) [v.low] []
  | (_, .wait _ _) => s0
  | (s, .ok t b) =>
    match s.readTarget v v.low .coherent 4 t with
    | (s, none) => s.readError v sl b
    | (s, some l) => k s (BitVec.ofNat 32 (leNat l))

/-- Whether the wave's pending-launch queue is empty; only a leader has one. -/
def State.queueEmpty (s : State) (w : Wave) : Bool := !(w.leader s && (s.team? w.team).any fun t => t.launchq != [])

def cwaitBody (f : RFmt) (sl : Slot) (s : State) (v : View) (a : DWord) (s0 : State) : State :=
  if v.thr.broken then (s.modThr v.iss fun t => { t with broken := false }).finishR v sl f Status.broken.word
  else if !s.queueEmpty v.w then s.park v.iss (.drained (a.setWidth 54)) sl
  else withWord sl s v a s0 fun s w =>
    if w != 0#32 then (s.clearReplay v.iss).park v.iss (.counter (a.setWidth 54)) sl
    else (s.l1Acquire v.w.pipes).finishR v sl f Status.ok.word

def execCwait (f : RFmt) (s : State) : Host.Outcome State Fault Refusal :=
  let sl := slotPair 0x124 f
  issue sl.once (waveOp sl (pairSource f) (cwaitBody f sl)) s

/-- CQRY's sources: the kind, and a pair or an I32. -/
def cqrySource (f : RFmt) (pa pb : Word) (l : Lane) : Except Fail (Nat × DWord) :=
  match l.srcAs .i32 pb f.b with
  | .error e => .error e
  | .ok k =>
    if 3 < k.toNat then .error failFld7
    else if k == 0#32 then
      match pairReg f.a with
      | none => .error failFld7
      | some r => match l.pair r with | .ok a => .ok (0, a) | .error _ => .error failFmt
    else match l.srcAs .i32 pa f.a with
      | .error e => .error e
      | .ok a => if a == 0#32 then .ok (k.toNat, 0#64) else .error failFld7

/-- A source that is a constant other than 0. -/
def inlineNonzero (x : Src) : Bool :=
  match x with
  | .inl c => c != 0#5
  | .lit (some w) => w != 0#32
  | _ => false

/-- Unplaced teams in a die's ready queue. -/
def State.unplaced (s : State) (n : Nat) : Nat := ((s.sched n).ready.map fun e => e.hi - e.lo).sum

def cqryBody (f : RFmt) (sl : Slot) (s : State) (v : View) (x : Nat × DWord) (s0 : State) : State :=
  match x.1 with
  | 0 =>
    if (pairReg f.a).any fun r => !regLegal v.w (r + 1) then s0.trapAll v sl failFld7
    else withWord sl s v x.2 s0 fun s w => (s.l1Acquire v.w.pipes).finishR v sl f w
  | 1 => s.finishR v sl f (BitVec.ofNat 32 (if v.w.leader s then ((s.team? v.w.team).map (·.launchq.length)).getD 0 else 0))
  | 2 =>
    match (v.w.gridOf s).bind fun g => s.grids.find? (·.uid == g) with
    | some g => s.finishR v sl f (saturate32 g.counter)
    | none => { s with freeCtr := s.freeCtr + 1 }.finishR v sl f (Config.freeQuery s.freeCtr)
  | _ => s.finishR v sl f (saturate32 (s.unplaced v.w.die))

def execCqry (f : RFmt) (s : State) : Host.Outcome State Fault Refusal :=
  -- kind 0 reads a pair
  let sl := { slotR 0x125 f with waits := if inlineNonzero f.b then [] else (pairReg f.a).toList.map (· + 1) }
  issue sl.once (waveOp sl (cqrySource f) (cqryBody f sl)) s

/-- A notify register of a context (14_hub R432). -/
def State.notifyReg (s : State) (c : BitVec 12) (i : Nat) : DWord := ((s.ctx? c).map fun x => assocGet x.notify i 0#64).getD 0#64

/-- Notify registers that are zero are not listed. -/
def Ctx.setNotify (c : Ctx) (i : Nat) (v : DWord) : Ctx :=
  { c with notify := if v = 0#64 then c.notify.filter fun e => e.1 != i else assocSet c.notify i v }

/-- 14_hub R433: a wave parked in NWAIT on a register wakes at a write event that leaves another value. -/
def State.wakeNotify (s : State) (c : BitVec 12) (i : Nat) (x : Word) (iss : Issuer) : State :=
  match s.view iss with
  | none => s
  | some v =>
    match v.thr.wait with
    | .notify j b d hd =>
      if v.w.ctx == c && j == i && b != x && v.thr.st = .parked then
        (((s.l1Acquire v.w.pipes).deliver v d hd (regI32 x)).resumeAfter iss)
      else s
    | _ => s

/-- A write event of a notify register (R432, R433). -/
def State.notifyWrite (s : State) (c : BitVec 12) (i : Nat) (v : DWord) : State :=
  let s := s.modCtx c fun x => x.setNotify i v
  (s.waves.filter (·.ctx == c)).foldl (fun s w => w.issuers.foldl (fun s j => s.wakeNotify c i (v.extractLsb' 0 32) j) s) s

def nwaitBody (f : RFmt) (sl : Slot) (s : State) (v : View) (x : Word × Word) (s0 : State) : State :=
  if 255 < x.1.toNat then s0.trapAll v sl failFld7
  else
    let r := (s.notifyReg v.w.ctx x.1.toNat).extractLsb' 0 32
    if r != x.2 then (s.l1Acquire v.w.pipes).finishWith v sl f (regI32 r)
    else
      let s := s.park v.iss (.notify x.1.toNat x.2 (if f.nw then none else some f.d.toNat) f.hd) sl
      ((v.w.gridOf s).map fun g => s.testSwap g).getD s

def execNwait (f : RFmt) (s : State) : Host.Outcome State Fault Refusal :=
  let sl := slotR 0x126 f
  issue sl.once (waveOp sl (idSource f) (nwaitBody f sl)) s

/-! ## PRIO (R392) -/

/-- R392: the grid's priority, and that of its undispatched records and its ready-queue entries, everywhere. -/
def State.setPrio (s : State) (g : Nat) (p : BitVec 2) : State :=
  let rec1 (r : Rec) : Rec := if !r.dispatched && (r.cls == clsSpawn || r.car) && r.parent == some g then { r.aged with prio := p } else r
  let ent (x : Entry) : Entry := if x.grid == g then { x with prio := p } else x
  { s with
    uid := s.uid + 1
    grids := s.grids.map fun x => if x.uid == g then { x with prio := p, prioAt := s.uid + 1 } else x
    keyrings := s.keyrings.map fun e => (e.1, { e.2 with recs := e.2.recs.map rec1 })
    scheds := s.scheds.map fun e => (e.1, { e.2 with ready := e.2.ready.map ent })
    replays := s.replays.map fun x => { x with recs := x.recs.map fun y => (y.1, rec1 y.2), entries := x.entries.map ent }
    saved := s.saved.map fun x => if x.team.grid == some g then { x with prio := p } else x }

def prioBody (f : RFmt) (sl : Slot) (s : State) (v : View) (a : Word) (s0 : State) : State :=
  if v.w.gw || 3 < a.toNat then s0.trapAll v sl failFld7
  else if a == 3#32 && v.w.ctx != 0#12 then s0.trapAll v sl ⟨.priv, none, true⟩
  else match (v.w.gridOf s).bind fun g => s.grids.find? (·.uid == g) with
    | none => s.finishWith v sl f (regI32 (0x80000000#32 ||| Status.refused.word))
    | some g => (s.setPrio g.uid (a.extractLsb' 0 2)).finishWith v sl f (regI32 (g.prio.setWidth 32))

def execPrio (f : RFmt) (s : State) : Host.Outcome State Fault Refusal :=
  let sl := slotR 0x127 f
  issue sl.once (waveOp sl (oneI32 f) (prioBody f sl)) s

end Sys2Proof.Machine
end

