-- ==== Sys2Proof/Machine/Place.lean ====
section
/-! DEFINITION. The task schedulers, second part: acceptance, dispatch into the ready queue, placement, retirement, and the counter
tree (spec/11_schedulers R361, R364 to R367, R371, R376, R377; 04_pipeline R138; 07_keyring R258, R260). -/

namespace Sys2Proof.Machine

def State.grid? (s : State) (g : Nat) : Option Grid := s.grids.find? (·.uid == g)
def State.modGrid (s : State) (g : Nat) (f : Grid → Grid) : State := { s with grids := s.grids.map fun x => if x.uid == g then f x else x }
def State.findRec (s : State) (k : KrId) (u : Nat) : Option Rec := (s.ring k).recs.find? (·.uid == u)

/-- R361: a dropped update is logged by the sextant. -/
def State.logDrop (s : State) : State := { s with sext := { s.sext with dropped := s.sext.dropped + 1 } }

/-! ## The completion address (R361) -/

/-- The FAULT record of an update that met an invalid or malformed translation; `parent` names the grid for SVCDONE. -/
def State.caddrFault (s : State) (g : Grid) (malformed : Bool) : State :=
  let a := g.caddr
  let p := devicePush clsFault g.ctx ((a.extractLsb' 18 36).setWidth 48)
    [a.extractLsb' 0 32, (a.extractLsb' 32 22).setWidth 32,
     BitVec.ofNat 32 (6 + (if g.cmode then 1 else 2) * 2 ^ 16 + if malformed then 2 ^ 20 else 0), g.ctx.setWidth 32,
     0#32, 0#32, 0#32, 0#32, 0#32, 0#32, 0#32, 0#32] 0#32
  { s with flights := s.flights ++ [plainFlight s.uid .hub { p with parent := some g.uid }], uid := s.uid + 1 }

/-- An update of a grid's completion address by the hub, in the launch's context: `f` gives the new word. The update is done, or
dropped, or it has to wait (false). `cmode` true is the status mode. -/
def State.caddrUpdate (s : State) (g : Grid) (f : Word → Word) : State × Bool :=
  let drop : State × Bool := ((s.modGrid g.uid fun x => { x with cdrop := false, cstall := false }).logDrop, true)
  if g.caddr == 0#54 then (s, true)
  else if g.cdrop then drop
  else match s.ctx? g.ctx with
    | none => drop
    | some c =>
      match s.translate hubTlb g.ctx g.caddr.toNat with
      | (s, .fault m) =>
        if g.cstall then (s, false) else ((s.modGrid g.uid fun x => { x with cstall := true }).caddrFault g m, false)
      | (s, .leaf l p) =>
        let pa := leafAddr l p g.caddr.toNat
        let attr := p.extractLsb' 0 17
        let done (s : State) : State := s.modGrid g.uid fun x => { x with cstall := false }
        if !permits c (if g.cmode then .write else .atomic) attr || (attrComp attr && !attrExpand attr) || s.isFenced pa then
          ((done s).logDrop, true)
        else if s.frozenIn pa 4 then (s, false)
        else if attrComp attr then (s.startExpand g.ctx g.caddr.toNat ⟨pa, 4, attr⟩, false)
        else
          let w : Word := BitVec.ofNat 32 (leNat (memGets s.mem (replicaAddr 0 attr pa) 4))
          ((done s).pageWrite none attr pa (leBytes 4 (f w).toNat), true)

/-! ## Acceptance (07_keyring R27; R361, R372, R376) -/

/-- The grid that a LAUNCH record makes when it is accepted. -/
def Rec.newGrid (r : Rec) (uid : Nat) : Grid :=
  let p := r.payload
  { uid := uid, ctx := r.ctx, counter := payTeams p, parent := r.parent, prio := r.aged.prio, record := r.uid, caddr := payCaddr p,
    cmode := (dw p 7).getLsbD 8,
    region := if payWrlen p = 0 then none else some ((payArg p).toNat, (payArg p).toNat + payWrlen p * 2 ^ 18),
    depth := r.target.extractLsb' 4 4, done := [], swapping := false, swapped := false, lost := false, cstall := false, cdrop := false,
    code := 0x80000000#32, prioAt := 0 }

/-- The grid of an arrived LAUNCH record, made when it has none. -/
def State.gridOfRec (s : State) (k : KrId) (r : Rec) : State × Grid :=
  match r.grid.bind s.grid? with
  | some g => (s, g)
  | none =>
    let g := r.newGrid s.uid
    ({ s with grids := s.grids ++ [g], uid := s.uid + 1 }.modRing k fun ring => ring.modRec r.uid fun x => { x with grid := some g.uid }, g)

/-- R27, R260: an earlier push into the same record, or an earlier launch of the same host port, is still to be journaled. -/
def State.acceptBehind (s : State) (f : Flight) : Bool :=
  s.flights.any fun x => x.k != f.k && x.arrived.isSome && x.kr = f.kr && x.apos < f.apos &&
    (x.arrived == f.arrived || (f.push.origin.isSome && x.push.origin == f.push.origin))

/-- The acceptance of an arrived push: journaled, counted, and answered. The records that the push made are accepted with it. -/
def State.acceptFlight (s : State) (f : Flight) (u : Nat) : State :=
  let mine (x : Rec) : Bool := x.uid == u || (f.push.ident.isSome && x.ids.head? == f.push.ident)
  -- a handler move may have taken one of two records that it made to another keyring
  let mark (x : Rec) : Rec := if mine x then { x with accepted := true } else x
  let s : State := { s with keyrings := s.keyrings.map fun e => (e.1, { e.2 with recs := e.2.recs.map mark }) }
  -- the keyring it was pushed to knows it as well as the one its record has moved to
  let s : State := match f.push.ident with
    | some (i, n) =>
      { s with journal := s.journal ++ [f.kr, f.pushedTo].dedup.map fun k => (⟨k, i, n, f.push.attempt, false, f.carrier.isSome⟩ : JEntry) }
    | none => s
  let s : State := match f.push.counts, f.push.parent with
    | true, some g => s.modGrid g fun x => { x with counter := x.counter + 1 }
    | _, _ => s
  (s.settleFlight f .ok).released f

/-- KEYRING_ACCEPT: the journal write of an arrived push is complete; one sent to another package gives its status. -/
def execKeyringAccept (k : Nat) (s : State) : Host.Outcome State Fault Refusal :=
  match s.flights.find? (·.k == k) with
  | none => .next s
  | some f =>
    match f.remote, f.arrived with
    | some p, _ =>
      let open1 : Status := match (Config.freeRemote s.freeCtr).toNat with
        | 1 => .refused
        | 2 => .torn
        | 3 => .broken
        | _ => .ok
      let st := f.decided.getD (if s.fenced.contains p then .linkdown else open1)
      .next ({ s with freeCtr := s.freeCtr + 1 }.settleFlight f st)
    | none, none => .next s
    | none, some u =>
      if s.acceptBehind f then .next s
      else match s.findRec f.kr u with
      | none => .next (s.acceptFlight f u)
      | some r =>
        if f.push.cls != clsLaunch then .next (s.acceptFlight f u)
        else
          let (s, g) := s.gridOfRec f.kr r
          if g.cmode then .next (s.acceptFlight f u)
          else match s.caddrUpdate g (· + 1#32) with
            | (s, true) => .next (s.acceptFlight f u)
            | (s, false) => .next s

/-- LAUNCH_FORWARD (R22, R23, R362): the hub keyring's next accepted LAUNCH record moves to the die keyring of its bearing. -/
def execLaunchForward (kr : KrId) (s : State) : Host.Outcome State Fault Refusal :=
  match kr with
  | .hub =>
    match (s.ring .hub).select fun r => r.cls == clsLaunch && r.accepted && (s.ctx? r.ctx).any fun c => c.st = .live with
    | none => .next s
    | some r =>
      let (s1, n) := s.bearingDie none r.ctx (r.target.extractLsb' 0 4).toNat (payArg r.payload).toNat
      match s1.room (.die n) r.ctx with
      | none => .next s
      | some _ =>
        if !s.hubUp || !s.running.contains n then .next s
        else
          let s1 := s1.modRing .hub fun ring => { (ring.drop r.uid) with
            next := ring.next + 1, recs := (ring.drop r.uid).recs.map fun x => if x.dispatched then x else { x with age := x.age + 1 } }
          .next (s1.insertRec (.die n) { r.aged with age := 0 })
  | _ => .next s

/-! ## The ready queue (R364, R365) -/

/-- The entry of a dispatched LAUNCH record. -/
def Rec.launchEntry (r : Rec) (k : Nat) (kr : KrId) : Entry :=
  let p := r.payload
  { k := k, record := r.uid, kr := kr, grid := r.grid.getD 0, spawn := none, lo := 0, hi := payTeams p, gx := (dw p 4).toNat,
    gy := (dw p 5).toNat, foot := payFoot p, entry := payEntry p, arg := payArg p, prio := r.prio, stream := r.stream,
    bearing := (r.target.extractLsb' 0 4).toNat, depth := r.target.extractLsb' 4 4, ctx := r.ctx, attempt := r.attempt, passed := 0,
    reserving := false, saved := none }

/-- The entry of a dispatched SPAWN record: one team. -/
def Rec.spawnEntry (r : Rec) (k : Nat) (kr : KrId) : Entry :=
  let p := r.payload
  { k := k, record := r.uid, kr := kr, grid := r.parent.getD 0, spawn := r.spawn.map fun i => (i, p.drop 6), lo := 0, hi := 1, gx := 1, gy := 1,
    foot := footOf (dw p 4) (dw p 5) 1, entry := entryOf (dw p 2) (dw p 3), arg := dw p 7 ++ dw p 6, prio := r.prio, stream := r.stream,
    bearing := fld (dw p 1) 0 4, depth := r.target.extractLsb' 4 4, ctx := r.ctx, attempt := r.attempt, passed := 0, reserving := false,
    saved := none }

def Rec.entry (r : Rec) (k : Nat) (kr : KrId) : Entry := if r.cls == clsLaunch then r.launchEntry k kr else r.spawnEntry k kr

/-- A LAUNCH or SPAWN record that a scheduler may dispatch. -/
def State.launchable (s : State) (r : Rec) : Bool :=
  (r.cls == clsLaunch || r.cls == clsSpawn) && r.accepted && (s.ctx? r.ctx).any fun c => c.st = .live

/-- SCHEDULER_DISPATCH (R364): a record of the die keyring becomes an entry of the ready queue. -/
def execSchedulerDispatch (die : Nat) (s : State) : Host.Outcome State Fault Refusal :=
  if !s.running.contains die || 256 ≤ (s.sched die).ready.length then .next s
  else match (s.ring (.die die)).select s.launchable with
    | none => .next s
    | some r =>
      let s1 := s.dispatch (.die die) r.uid .scheduler
      .next { s1.modSched die (fun x => { x with ready := x.ready ++ [r.aged.entry s.uid (.die die)] }) with uid := s.uid + 1 }

/-- R365: entries by PRIO, highest first, then in dispatch order. -/
def orderEntries (l : List Entry) : List Entry :=
  [3#2, 2#2, 1#2, 0#2].flatMap fun p => l.filter fun e => e.prio == p

/-- ENTRY_RESERVE (R365): an entry that 256 placements have passed over becomes reserving. -/
def execEntryReserve (die k : Nat) (s : State) : Host.Outcome State Fault Refusal :=
  .next (s.modSched die fun x => { x with ready := x.ready.map fun e => if e.k == k && 256 ≤ e.passed then { e with reserving := true } else e })

/-! ## Fitting a cluster (R366) -/

/-- Assigns an aligned set to each wave in turn, from the free slots and POOL entries of each pipeline. A wave is its width and the
entries it needs on each pipeline. -/
def assignSets : List (Nat × Nat) → List (Nat × Nat) → Option (List Nat)
  | [], _ => some []
  | (w, n) :: l, ps =>
    match (List.range (Config.pipes / w)).find? fun k => (List.range w).all fun j =>
        let x := ps.getD (k * w + j) (0, 0); 1 ≤ x.1 && n ≤ x.2 with
    | none => none
    | some k =>
      let ps := ps.mapIdx fun i x => if k * w ≤ i && i < k * w + w then (x.1 - 1, x.2 - n) else x
      (assignSets l ps).map (k * w :: ·)

/-- The lowest free aligned span. -/
def freeSpan (size total unit : Nat) (used : List (Nat × Nat)) : Option Nat :=
  if size = 0 then some 0
  else ((List.range (total / unit)).map (· * unit)).find? fun a => a + size ≤ total && used.all fun u => a + size ≤ u.1 || u.1 + u.2 ≤ a

/-- Teams that hold resources of a cluster. -/
def State.clusterTeams (s : State) (die clu : Nat) : List Team := s.teams.filter fun t => t.die == die && t.clu == clu && !t.gone && !t.nrg

/-- Where a team goes: the base of each wave's set, its scratchpad and its state memory. -/
structure Spot where
  bases : List Nat
  scr : Nat
  st : Nat
  deriving DecidableEq, Repr

/-- R33: an energy estimate fits the die's remaining allowance, or exceeds the full one while the interval has charged no estimate and held
no reservation. -/
def State.energyFits (s : State) (die e : Nat) : Bool :=
  (e : Int) ≤ s.remaining die || ((s.die die).allowance < e && (s.die die).charged = 0 && !(s.die die).held)

/-- The widths and entries of the waves of an entry's next team. -/
def State.entryWaves (s : State) (e : Entry) : List (Nat × Nat) :=
  match e.saved.bind fun u => s.saved.find? fun x => x.team.uid == u with
  | some x => x.waves.map fun w => (w.width, w.bregs + w.xregs)
  | none => List.replicate e.foot.waves (e.foot.width, e.foot.bregs)

/-- Whether and where an entry's next team fits a cluster, energy apart; `s` may have a team's resources taken out. -/
def State.spotOn (s : State) (e : Entry) (waves : List (Nat × Nat)) (die clu : Nat) : Option Spot :=
  let ts := s.clusterTeams die clu
  let pipes := (List.range Config.pipes).map fun p =>
    let q : PipeId := ⟨die, false, clu, p⟩
    (Config.slots - (s.usedSlots q).length, s.poolFree q)
  let scr := freeSpan e.foot.scr Config.scratch 4096
    (ts.map (fun t => (t.scrBase, t.scratchSize)) ++ ((s.resvs.filter fun r => r.die == die && r.clu == clu).map fun r => (r.base, r.size)))
  let st := freeSpan (1024 * e.foot.stKiB) (1024 * Config.stateKiB) 4096 (ts.map fun t => (t.stBase, 1024 * t.stKiB))
  if (ts.map (·.tiles)).sum + e.foot.tiles ≤ Config.tiles then
    match assignSets waves pipes, scr, st with
    | some b, some x, some y => some ⟨b, x, y⟩
    | _, _, _ => none
  else none

/-- R366 for a cluster. -/
def State.fit (s : State) (e : Entry) (die clu : Nat) : Option Spot :=
  if s.energyFits die e.foot.energy then s.spotOn e (s.entryWaves e) die clu else none

/-- R365, R380, R441: an entry that may be placed now. -/
def State.placeable (s : State) (e : Entry) : Bool :=
  (s.ctx? e.ctx).any (fun c => c.st = .live) && (s.grid? e.grid).all fun g => !g.swapping && !g.swapped

/-- The lowest-numbered cluster of a die that an entry's next team fits. -/
def State.fitDie (s : State) (e : Entry) (die : Nat) : Option (Nat × Spot) :=
  if !s.placeable e then none
  else (List.range Config.clusters).findSome? fun c => (s.fit e die c).map fun x => (c, x)

/-! ## Placement (R367) -/

/-- The lanes of a new wave, each with its own name and the lowest EMPTY slot of its pipeline. -/
def State.newLanes (s : State) (die clu base width : Nat) (tvec : BitVec 54) (waveid : BitVec 5) : List Lane :=
  (List.range width).map fun j =>
    Lane.fresh (s.uid + j) tvec waveid ((s.freeSlot ⟨die, false, clu, base + j⟩).getD 0#3)

/-- The entry registers of a lane: ARG, or the arguments of a SPAWN (R367, R374). -/
def Entry.regs (e : Entry) (l : Lane) : Lane :=
  match e.spawn with
  | none => (l.setReg 0 ⟨e.arg.extractLsb' 0 32, .addr⟩).setReg 1 ⟨e.arg.extractLsb' 32 32, .addr⟩
  | some (i, args) => (List.range (min 6 i.args)).foldl (fun l k => l.setReg k ⟨args.getD k 0#32, if k < 2 then .addr else .i32⟩) l

/-- Waves `i` on of a new team, on their sets. -/
def State.addWaves (e : Entry) (t : Team) (tvec : BitVec 54) : List Nat → Nat → State → State
  | [], _, s => s
  | b :: bs, i, s =>
    let idx := e.lo
    let lanes := (s.newLanes t.die t.clu b e.foot.width tvec (BitVec.ofNat 5 i)).map e.regs
    let s := { s with uid := s.uid + e.foot.width }
    let (s, u) := s.fresh
    let (s, st) := s.newStream e.ctx t.die
    let w := Wave.fresh u e.ctx t.uid t.die t.clu b e.foot.bregs false lanes (Thread.start e.entry (freshWins t.scratchSize)) st
      ⟨e.record, idx, i⟩
    let w := { w with attempt := e.attempt, creator := e.record, age := s.youngest, depth := e.depth }
    let w : Wave := match e.spawn with
      | some (x, _) => { w with teamIndex := x.teamIndex, gridx := x.gridx, gridy := x.gridy, gridz := x.gridz }
      | none => { w with teamIndex := BitVec.ofNat 32 idx, gridx := BitVec.ofNat 32 (idx % e.gx),
                         gridy := BitVec.ofNat 32 (idx / e.gx % e.gy), gridz := BitVec.ofNat 32 (idx / (e.gx * e.gy)) }
    State.addWaves e t tvec bs (i + 1) { s with waves := s.waves ++ [w] }

/-- R41: a placed wave fetches the code of its launch in its new form: its pipelines hold no older line of its context (log 29). -/
def State.dropCode (s : State) (c : BitVec 12) (ps : List PipeId) : State :=
  { s with icache := s.icache.filter fun l => !(l.ctx == c && ps.contains l.pipe) }

/-- A new team of an entry on a cluster. -/
def State.placeNew (s0 : State) (e : Entry) (die clu : Nat) (x : Spot) : State :=
  let (s, u) := s0.fresh
  let f := e.foot
  let t : Team := { Team.fresh u e.ctx die clu with
    grid := some e.grid, width := f.width, bregs := f.bregs, waves := f.waves, tiles := f.tiles, stKiB := f.stKiB,
    energy := f.energy, scrBase := x.scr, stBase := x.st, placedAt := u, ent := some { e with hi := e.lo + 1 }, scratchSize := f.scr,
    region := (s.grid? e.grid).bind (·.region) }
  let tvec := ((s.ctx? e.ctx).map (·.tvec)).getD 0#54
  let s := State.addWaves e t tvec x.bases 0 { s with teams := s.teams ++ [t] }
  let s := s.modTeam u fun t => { t with lead := ((s.teamWaves u).flatMap (·.lanes)).head?.elim 0 (·.uid) }
  let pipes := (s.teamWaves u).flatMap Wave.pipes
  (((s0.bankingSwitch s die clu).l1Acquire pipes).dropCode e.ctx pipes).testSwap e.grid

/-! ## Readmission of a team (R258, R381) -/

/-- A wait whose instruction is evaluated again at readmission; the others keep standing (R381). -/
def Wait.again : Wait → Bool
  | .bar _ _ _ | .jpoint | .retired | .nothing | .svc | .pageFault => false
  | _ => true

/-- A parked thread of a readmitted wave evaluates its instruction again, and no window of it has a run (05_memory R152). -/
def Thread.readmit (t : Thread) : Thread :=
  let t := { t with wins := t.wins.map fun w => { w with run := false }, line := none }
  if t.st = .parked && t.wait.again then { t with st := .ready, wait := .nothing } else t

/-- A readmitted wave on its new set: slots anew, threads to evaluate again; its group state comes back as it was saved (06_group
R204). -/
def State.moveWave (s : State) (w : Wave) (die clu base : Nat) : Wave :=
  { w with
    die := die, clu := clu, base := base, thr := w.thr.readmit,
    former := if (w.die, w.clu) = (die, clu) then w.former else (w.former ++ [(w.die, w.clu)]).dedup
    lanes := w.lanes.mapIdx fun j l => { l with slotNo := (s.freeSlot ⟨die, w.gw, clu, base + j⟩).getD 0#3, own := l.own.map Thread.readmit } }

/-- The keyrings of a level that a wave's bindings have left. -/
def Wave.leftRings (w : Wave) (lvl : Bool) : List KrId := w.former.map fun x => if lvl then .die x.1 else .cluster x.1 x.2

/-- R258: the records of a context at the keyrings of a level that waves have left move, where they match a binding, to the keyring of that
level where the waves are. -/
def State.movePorts (s : State) (ws : List Wave) (lvl : Bool) (dst : KrId) : State :=
  s.moveRecs (ws.flatMap fun w => w.leftRings lvl) dst fun k r => ws.any fun w =>
    (w.leftRings lvl).contains k && w.lanes.any fun l => l.ports.toList.any fun q => q.bound && q.lvl == lvl && q.takes w.ctx r

/-- The withheld job records of a team move to its new cluster's keyring (08_matrix R297, 09_statespace R327, 10_copy R350). -/
def State.moveJobRecs (s : State) (team : Nat) (src dst : KrId) : State :=
  s.moveRecs [src] dst fun _ r => r.job.any fun j => j.team == team

/-- The waves of a readmitted team placed one by one. -/
def State.moveWaves (die clu : Nat) : List (Wave × Nat) → State → State
  | [], s => s
  | (w, b) :: l, s => State.moveWaves die clu l { s with waves := s.waves ++ [s.moveWave w die clu b] }

/-- Placement of a swapped-out team. -/
def State.placeSaved (s0 : State) (v : Saved) (die clu : Nat) (x : Spot) : State :=
  let t0 := v.team
  let t := { t0 with die := die, clu := clu, scrBase := x.scr, stBase := x.st, placedAt := s0.uid, rendezvous := [],
                     ent := t0.ent.map fun (e : Entry) => { e with prio := v.prio } }
  let s := { s0 with
    saved := s0.saved.filter fun y => y.team.uid != t0.uid
    teams := s0.teams ++ [t], uid := s0.uid + 1
    jobs := s0.jobs ++ v.jobs.map fun j => { j with die := die, clu := clu } }
  let s := State.moveWaves die clu ((v.waves.map Wave.unpack).zip x.bases) s
  -- records may still stand at every keyring that the waves' bindings have left
  let ws := s.teamWaves t.uid
  let s := (s.movePorts ws false (.cluster die clu)).movePorts ws true (.die die)
  let s := s.moveJobRecs t0.uid (.cluster t0.die t0.clu) (.cluster die clu)
  let pipes := (s.teamWaves t.uid).flatMap Wave.pipes
  let s := ((s0.bankingSwitch s die clu).l1Acquire pipes).dropCode t.ctx pipes
  (t.grid.map fun g => s.testSwap g).getD s

/-- One team placed: its estimate is charged first (R367). -/
def State.place (s : State) (e : Entry) (die clu : Nat) (x : Spot) : State :=
  let s := s.modDie die fun d => { d with charged := d.charged + e.foot.energy }
  match e.saved.bind fun u => s.saved.find? fun y => y.team.uid == u with
  | some v => s.placeSaved v die clu x
  | none => s.placeNew e die clu x

/-! ## Placement rounds (R365, R371) -/

/-- The entry whose next team is placed, with its place: the first in order that fits; a reserving entry lets no later one pass. -/
def State.roundPick (s : State) (die : Nat) : List Entry → Option (Entry × Nat × Spot)
  | [] => none
  | e :: l =>
    match s.fitDie e die with
    | some (c, x) => some (e, c, x)
    | none => if e.reserving then none else s.roundPick die l

/-- The ready queue after a placement from an entry: earlier entries have been passed over once more. -/
def entriesAfter (order : List Entry) (e : Entry) (l : List Entry) : List Entry :=
  let earlier := (order.takeWhile fun x => x.k != e.k).map (·.k)
  (l.map fun x =>
    if x.k == e.k then { x with lo := x.lo + 1, passed := 0, reserving := false }
    else if earlier.contains x.k then { x with passed := min 256 (x.passed + 1) } else x).filter fun x => x.lo < x.hi

/-- The record of a cluster keyring that its scheduler places next. -/
def State.clusterSpawn (s : State) (die clu : Nat) : Option Rec :=
  ((s.ring (.cluster die clu)).select fun r => r.cls == clsSpawn && s.launchable r).map Rec.aged

/-- A SPAWN record of a cluster keyring placed on a cluster. -/
def State.placeSpawn (s : State) (die clu : Nat) (r : Rec) (c : Nat) (x : Spot) : State :=
  let s1 := s.dispatch (.cluster die clu) r.uid .scheduler
  { s1 with uid := s.uid + 1 }.place (r.entry s.uid (.cluster die clu)) die c x

/-- The spawned team that a cluster scheduler places on its own cluster. -/
def State.localSpawn (s : State) (die : Nat) : Option (Nat × Rec × Nat × Spot) :=
  (List.range Config.clusters).findSome? fun c => (s.clusterSpawn die c).bind fun r =>
    let e := r.entry s.uid (.cluster die c)
    if s.placeable e then (s.fit e die c).map fun x => (c, r, c, x) else none

/-- R371: a waiting spawn of no stream that the die scheduler moves to another cluster of the die. -/
def State.movedSpawn (s : State) (die : Nat) : Option (Nat × Rec × Nat × Spot) :=
  (List.range Config.clusters).findSome? fun c => (s.clusterSpawn die c).bind fun r =>
    if r.stream != 0#15 then none
    else (s.fitDie (r.entry s.uid (.cluster die c)) die).bind fun x => if x.1 = c then none else some (c, r, x.1, x.2)

/-- PLACEMENT_ROUND: at most one team is placed: of the ready queue, else of a cluster keyring on its own cluster (log 95), else by R371. -/
def execPlacementRound (die : Nat) (s : State) : Host.Outcome State Fault Refusal :=
  let ready := (s.sched die).ready
  let order := orderEntries ready
  if !s.running.contains die || ready.any (fun e => 256 ≤ e.passed && !e.reserving) then .next s
  else match s.roundPick die order with
    | some (e, c, x) => .next ((s.modSched die fun y => { y with ready := entriesAfter order e y.ready }).place e die c x)
    | none =>
      match s.localSpawn die with
      | some (k, r, c, x) => .next (s.placeSpawn die k r c x)
      | none =>
        if order.any fun e => (s.fitDie e die).isSome then .next s
        else match s.movedSpawn die with
        | some (k, r, c, x) => .next (s.placeSpawn die k r c x)
        | none => .next s

/-! ## Completion (R376, R377) -/

/-- Jobs that a team has pushed and that have not ended. -/
def State.teamBusy (s : State) (u : Nat) : Bool :=
  s.jobs.any (fun j => j.ids.any fun i => i.1 == u) ||
  s.keyrings.any fun e => e.2.recs.any fun r => !r.dispatched && r.jobIds.any fun i => i.1 == u

/-- Completed teams whose jobs have all ended leave nothing behind (log 25). -/
def State.purge (s : State) : State := { s with teams := s.teams.filter fun t => !t.gone || s.teamBusy t.uid }

/-- A grid whose package counter is 0: its completion address, its parent's counter, its LAUNCH record (R377); then the parent. -/
def State.finishGrid : Nat → Nat → State → State
  | 0, _, s => s
  | fuel + 1, g, s =>
    match s.grid? g with
    | none => s
    | some x =>
      if x.counter != 0 then s
      else match s.caddrUpdate x (fun w => if x.cmode then x.code else w - 1#32) with
        | (s, false) => s
        | (s, true) =>
          let s := { s with grids := s.grids.filter fun y => y.uid != g }.completeRec fun r => r.uid == x.record
          match x.parent with
          | none => s
          | some p => State.finishGrid fuel p (s.modGrid p fun y => { y with counter := y.counter - 1 })

/-- The teams of a grid that are complete on a die, and those whose pass is due. -/
def Grid.doneOn (g : Grid) (die : Nat) : Nat := assocGet g.done die 0
def Grid.dueOn (g : Grid) (die : Nat) : Nat := assocGet g.due die 0

/-- R376: the die counter of a grid: its teams placed on the die, swapped-out ones with them, that are not complete. -/
def State.dieCount (s : State) (die grid : Nat) : Nat :=
  ((s.teams.filter fun t => !t.gone) ++ s.saved.map (·.team)).countP fun t => t.die == die && t.grid == some grid

/-- What a die passes to the package counter: the passes that are due, and with its counter at 0 the teams completed since. -/
def State.passCount (s : State) (die : Nat) (g : Grid) : Nat := g.dueOn die + if s.dieCount die g.uid = 0 then g.doneOn die else 0

/-- COMPLETION_PASS: a die whose counter is zero, or has been since its last pass, passes the teams completed then to the package counter. -/
def execCompletionPass (die grid : Nat) (s : State) : Host.Outcome State Fault Refusal :=
  match s.grid? grid with
  | none => .next s
  | some g =>
    let idle := s.dieCount die grid = 0
    if !s.hubUp || (!idle && g.dueOn die = 0) then .next s
    else
      let s := s.modGrid grid fun x => { x with
        counter := x.counter - s.passCount die g
        due := x.due.filter fun e => e.1 != die
        done := if idle then x.done.filter fun e => e.1 != die else x.done }
      .next (State.finishGrid (s.grids.length + 1) grid s)

/-- The cluster counter of a team has reached 0: its resources are free, and the die counter takes it. -/
def State.teamDone (s : State) (t : Team) : State :=
  let s := if s.teamBusy t.uid then s.modTeam t.uid fun x => { x with gone := true, rsv := 0 }
    else { s with teams := s.teams.filter fun x => x.uid != t.uid }
  let s : State := match t.ent with
    | some e => if e.spawn.isSome then s.completeRec fun r => r.uid == e.record else s
    | none => s
  match t.grid with
  | none => s
  | some g =>
    let idle := s.dieCount t.die g = 0
    s.modGrid g fun x =>
      let n := x.doneOn t.die + 1
      if idle then { x with done := x.done.filter fun e => e.1 != t.die, due := assocSet x.due t.die (x.dueOn t.die + n) }
      else { x with done := assocSet x.done t.die n }

/-- R138: the end of a wave: the slots, blocks and windows are freed, and the records its lanes took complete (07_keyring R260). -/
def State.endWave (s0 : State) (w : Wave) : State :=
  let s := s0.l1Release w.pipes
  let s := w.issuers.foldl State.unblock s
  let s := { s with waves := s.waves.filter fun x => x.uid != w.uid }
  let lanes := w.lanes.map (·.uid)
  let s := s.completeRec fun r => match r.taker with
    | .lane l => lanes.contains l
    | .handler u => u == w.uid
    | .gateway u _ => u == w.uid
    | _ => false
  let s : State := match w.notifyAt with
    | some i => s.notifyWrite w.ctx i.toNat 1#64
    | none => s
  let s := if w.gw then s else s0.bankingSwitch s w.die w.clu
  let s := s.settleTeam w.team
  let s : State := match s.team? w.team with
    | none => s
    | some t =>
      let s := if s.waves.any (fun x => x.team == w.team) then s else s.teamDone t
      (t.grid.map fun g => s.testSwap g).getD s
  s.purge

/-- R224: a detached lane that retires leaves the wave; the last one ends it. -/
def State.endLane (s : State) (w : Wave) (i : Nat) : State :=
  let m := w.memb &&& ~~~(1#32 <<< i)
  if m == 0#32 then s.endWave w
  else
    let s := s.l1Release [w.pipeOf i]
    let lane := ((w.lanes[i]?).map (·.uid)).getD 0
    let s := s.completeRec fun r => match r.taker with | .lane l => l == lane | _ => false
    s.modWave w.uid fun w =>
      { w.modLane i fun l => { l with own := l.own.map fun t => { t with st := .parked, wait := .retired }, ports := Vector.replicate 8 Port.reset }
        with memb := m, jmask := w.jmask &&& m, live := w.live &&& m }

/-- RETIRE_FINISH (R138): the tokens are clear, every operation has completed, and a leader's queue is empty. -/
def execRetireFinish (i : Issuer) (s : State) : Host.Outcome State Fault Refusal :=
  match s.view i with
  | none => .next s
  | some v =>
    match v.thr.wait with
    | .retire =>
      if !v.thr.drained || !s.queueEmpty v.w then .next s
      else match i.lane with
        | none => .next (s.endWave v.w)
        | some l => if v.w.width ≤ 1 then .next (s.endWave v.w) else .next (s.endLane v.w l)
    | _ => .next s

end Sys2Proof.Machine
end

