-- ==== Sys2Proof/Machine/Steal.lean ====
section
/-! DEFINITION. The task schedulers, third part: stealing, spawn carriers, swap-out and readmission (spec/11_schedulers R368 to R370,
R375, R379 to R381, R383). -/

namespace Sys2Proof.Machine

/-! ## Stealing (R368 to R370) -/

/-- R368: a die with an empty ready queue and no launch or spawn record that it could dispatch. -/
def State.idle (s : State) (n : Nat) : Bool :=
  s.running.contains n && (s.sched n).ready = [] && ((s.ring (.die n)).select s.launchable).isNone

/-- STEAL_REQUEST: an idle die without a request outstanding asks its next neighbour. -/
def execStealRequest (die : Nat) (s : State) : Host.Outcome State Fault Refusal :=
  let x := s.sched die
  if !s.idle die || x.asking.isSome || x.waiting then .next s
  else .next (s.modSched die fun x => { x with asking := some (if x.up then (die + 1) % 8 else (die + 7) % 8), up := !x.up })

/-- STEAL_RETRY_TIMER: 1,024 cycles have passed since a refusal. -/
def execStealRetryTimer (die : Nat) (s : State) : Host.Outcome State Fault Refusal :=
  .next (s.modSched die fun x => { x with waiting := false })

/-- Bearings that allow stealing. -/
def freeBearing (b : Nat) : Bool := b = 8 || b = 9

def Entry.stealable (e : Entry) : Bool := freeBearing e.bearing && !e.reserving && e.saved.isNone

def Rec.isWork (r : Rec) : Bool := (r.cls == clsLaunch || r.cls == clsSpawn) && !r.dispatched

def Rec.stealable (r : Rec) : Bool := r.isWork && r.accepted && freeBearing (r.target.extractLsb' 0 4).toNat

/-- R369: everything of a stream on a die can be taken, and none of its teams is placed there, resident or swapped out. -/
def State.streamFreeToSteal (s : State) (n : Nat) (ctx : BitVec 12) (st : BitVec 15) : Bool :=
  !(((s.teams.filter fun t => !t.gone) ++ s.saved.map (·.team)).any fun t => t.die == n && t.ctx == ctx && t.ent.any fun e => e.stream == st) &&
  (s.sched n).ready.all (fun e => e.ctx != ctx || e.stream != st || e.stealable) &&
  (s.ring (.die n)).recs.all (fun r => !(r.isWork && r.ctx == ctx && r.stream == st) || r.stealable) &&
  !(s.keyrings.any fun k => match k.1 with
    | .cluster d _ => d == n && k.2.recs.any fun r => r.isWork && r.ctx == ctx && r.stream == st
    | _ => false)

/-- Undispatched records move from the victim's die keyring to the thief's, in arrival order; none when they find no room. -/
def State.stealRecs (s : State) (victim thief : Nat) (p : Rec → Bool) : Option State :=
  let src := s.ring (.die victim)
  let dst := s.ring (.die thief)
  let taken := src.recs.filter p
  if Config.krDie < ((dst.recs.filter fun r => !r.dispatched && !r.spilled).length) + taken.length then none
  else
    let s := s.setRing (.die victim) { recs := src.recs.filter fun r => !p r, next := src.next + 1 }
    some (taken.foldl (fun s r => (s.insertRec (.die thief) r).followRec r.uid (.die thief)) s)

/-- The records of a stream, and the ready entries of it, move to the thief. -/
def State.stealStream (s : State) (victim thief : Nat) (ctx : BitVec 12) (st : BitVec 15) : Option State :=
  let mine (e : Entry) : Bool := e.ctx == ctx && e.stream == st
  let es := (s.sched victim).ready.filter mine
  (s.stealRecs victim thief fun r => r.isWork && r.ctx == ctx && r.stream == st).map fun s =>
    (s.modSched victim fun x => { x with ready := x.ready.filter fun e => !mine e }).modSched thief fun x => { x with ready := x.ready ++ es }

/-- R369, case 1: the highest-indexed half of an entry's unplaced teams, or a last one. -/
def State.stealEntry (s : State) (victim thief : Nat) (e : Entry) : State :=
  let r := e.hi - e.lo
  let n := if r ≤ 1 then r else r / 2
  let s := s.modSched victim fun x => { x with
    ready := (x.ready.map fun y => if y.k == e.k then { y with hi := y.hi - n } else y).filter fun y => y.lo < y.hi }
  { s.modSched thief fun x => { x with ready := x.ready ++ [{ e with k := s.uid, lo := e.hi - n, passed := 0 }] } with uid := s.uid + 1 }

/-- What a victim gives up, or none. -/
def State.giveUp (s : State) (victim thief : Nat) : Option State :=
  let young : Option State :=
    match ((s.ring (.die victim)).recs.filter Rec.stealable).getLast? with
    | none => none
    | some r =>
      if r.stream == 0#15 then s.stealRecs victim thief fun x => x.uid == r.uid
      else if s.streamFreeToSteal victim r.ctx r.stream then s.stealStream victim thief r.ctx r.stream else none
  if !s.running.contains victim then none
  else match ((orderEntries (s.sched victim).ready).filter Entry.stealable).getLast? with
    | none => young
    | some e =>
      if e.stream == 0#15 then some (s.stealEntry victim thief e)
      else if s.streamFreeToSteal victim e.ctx e.stream then s.stealStream victim thief e.ctx e.stream else young

/-- STEAL_ANSWER: the victim's answer to the request of a thief. -/
def execStealAnswer (die : Nat) (s : State) : Host.Outcome State Fault Refusal :=
  match (s.sched die).asking with
  | none => .next s
  | some v =>
    match s.giveUp v die with
    | some s => .next (s.modSched die fun x => { x with asking := none })
    | none => .next (s.modSched die fun x => { x with asking := none, waiting := true })

/-! ## Spawn carriers (R375) -/

/-- A carrier that has latched, whose own push is accepted, so that its grid's counter covers its team (R376). -/
def State.ripe (s : State) (r : Rec) : Bool :=
  r.cls == clsCount && r.car && r.latched && r.target.getLsbD 23 && r.accepted && (s.ctx? r.ctx).any (fun c => c.st = .live) &&
  !s.flights.any fun f => f.arrived == some r.uid && f.push.car

/-- The SPAWN record built from a carrier, in flight to the keyring its bearing chooses. -/
def State.fireCarrier (s : State) (kr : KrId) (die clu : Nat) (r : Rec) : State :=
  let s := s.dispatch kr r.uid .scheduler
  let w1 := dw r.payload 1
  let bearing := fld w1 0 4
  let (s, dst) : State × KrId :=
    if bearing = 9 then (s, .cluster die clu)
    else let (s, n) := s.bearingDie (some die) r.ctx bearing (addr2 (dw r.payload 6) (dw r.payload 7)); (s, .die n)
  let depth := (r.spawn.map (·.depth)).getD 0#4
  let p : Push :=
    { key := 0#48, cls := clsSpawn, op := 0#4, prio := w1.extractLsb' 4 2, car := false, stream := w1.extractLsb' 16 15,
      target := BitVec.ofNat 24 (bearing + 16 * depth.toNat), words := 0#32 :: r.payload.drop 1, ctx := r.ctx,
      ident := r.spawn.bind (·.ident), attempt := r.attempt, sender := r.sender, origin := none, parent := r.parent, counts := false,
      job := none, spawn := r.spawn }
  { s with flights := s.flights ++ [{ plainFlight s.uid dst p with returns := .acceptance, carrier := some (kr, r.uid) }], uid := s.uid + 1 }

/-- SPAWN_CARRIER_FIRE: a cluster scheduler takes a latched carrier of its keyring, or one that a replay put into the die's. -/
def execSpawnCarrierFire (die clu : Nat) (s : State) : Host.Outcome State Fault Refusal :=
  if !s.running.contains die then .next s
  else match (s.ring (.cluster die clu)).select s.ripe with
    | some r => .next (s.fireCarrier (.cluster die clu) die clu r)
    | none =>
      match (s.ring (.die die)).select fun r => r.replayed && s.ripe r with
      | some r => .next (s.fireCarrier (.die die) die clu r)
      | none => .next s

/-! ## Swap-out (R26, R379, R380) -/

/-- A thread at a clause boundary, parked, or woken and not yet granted again, with nothing outstanding; a double fault's may go with its context (04_pipeline R143). -/
def Thread.swappable (t : Thread) : Bool :=
  t.drained && t.dataErr = [] && !t.ending && (t.st = .parked || t.st = .suspended || t.st = .ready)

/-- R228: every lane of a wave is at a boundary or parked. -/
def Wave.swappable (w : Wave) : Bool :=
  let owns := w.lanes.filterMap (·.own)
  if owns = [] then w.thr.swappable else w.thr.drained && owns.all Thread.swappable

/-- 08_matrix R298: with LIVE in effect, only the tiles of its mask are saved. -/
def Team.saveTiles (t : Team) : Team :=
  match t.live with
  | some m => { t with acc := t.acc.filter fun c => m.getLsbD (c.1 / 65536) }
  | none => t

/-- R297, R327, R350: a dispatched job at a boundary: suspended at a panel, or between parts or batches. -/
def Job.atBoundary (j : Job) : Bool :=
  match j.d.eng with
  | .matrix => j.suspended
  | .sspace | .copy => !j.rd && !j.stalled && j.fault.isNone && j.data = [] && j.row = 0
  | .stack => false

/-- What a swap-out of a team needs besides its waves (R379, R380, 12_stack R395); a FUSE that has completed forms its group first
(06_group R229). -/
def State.teamQuiet (s : State) (t : Team) : Bool :=
  t.launchq = [] && (s.jobs.filter fun j => j.d.team == t.uid || j.ids.any fun i => i.1 == t.uid).all (fun j => j.d.team == t.uid && j.atBoundary) &&
  t.kjobs.outstanding = 0 &&
  !t.rendezvous.any (·.drain)

/-- R379: a team is swap-eligible. -/
def State.swapEligible (s : State) (t : Team) : Bool :=
  let waits (x : Thread) : Bool := x.st = .parked && match x.wait with
    | .counter _ | .notify _ _ _ _ => true
    | _ => false
  let ws := s.teamWaves t.uid
  ws ≠ [] && !t.gone && !t.nrg && t.grid.isSome && s.teamQuiet t && ws.all fun w =>
    w.swappable && (let owns := w.lanes.filterMap (·.own); if owns = [] then waits w.thr else owns.all waits)

/-- A state with a team's resources free. -/
def State.without (s : State) (t : Nat) : State :=
  { s with teams := s.teams.filter fun x => x.uid != t, waves := s.waves.filter fun w => w.team != t }

/-- The PRIO of a team: its own entry's (R374), or its grid's. -/
def State.teamPrio (s : State) (t : Team) : BitVec 2 :=
  match t.ent with
  | some e => e.prio
  | none => ((t.grid.bind s.grid?).map (·.prio)).getD 0#2

/-- The swap-out of a team: a SYS-scope release, and its resources are freed. -/
def State.swapTeam (s0 : State) (t : Team) (ofCtx : Bool) : State :=
  let ws := s0.teamWaves t.uid
  let s := s0.l1Release (ws.flatMap Wave.pipes)
  let s := (ws.flatMap Wave.issuers).foldl State.unblock s
  let v : Saved := { team := { t.saveTiles with rsv := 0, rendezvous := [] }, waves := ws.map Wave.pack, jobs := s.jobs.filter fun j => j.d.team == t.uid,
                     prio := s.teamPrio t, ofCtx := ofCtx }
  let s := { s.without t.uid with saved := s.saved ++ [v], jobs := s.jobs.filter fun j => j.d.team != t.uid }
  let s := (s0.bankingSwitch s t.die t.clu).grantRegx
  (t.grid.map fun g => s.testSwap g).getD s

/-- R379: an entry of a die's ready queue fits nowhere, and would fit a team's cluster without the team. -/
def State.makesRoom (s : State) (t : Team) : Bool :=
  (s.sched t.die).ready.any fun e =>
    s.placeable e && (s.fitDie e t.die).isNone && ((s.without t.uid).fit e t.die t.clu).isSome

/-- Of two candidates, the lower PRIO, then the later placement. -/
def State.swapsBefore (s : State) (a b : Team) : Bool :=
  s.teamPrio a < s.teamPrio b || (s.teamPrio a == s.teamPrio b && b.placedAt ≤ a.placedAt)

/-- SWAP_OUT of a team that its die's scheduler chooses. -/
def execSwapOut (team : Nat) (s : State) : Host.Outcome State Fault Refusal :=
  match s.team? team with
  | none => .next s
  | some t =>
    let cands := s.teams.filter fun x => x.die == t.die && s.swapEligible x && s.makesRoom x
    if s.running.contains t.die && cands.any (fun x => x.uid == team) && cands.all (s.swapsBefore t) then .next (s.swapTeam t false)
    else .next s

/-- Teams of a grid. -/
def State.gridTeams (s : State) (g : Nat) : List Team := s.teams.filter fun t => t.grid == some g && !t.gone

/-- GRID_SWAP_OUT (R380): every team of the grid that can be swapped out now; the grid is swapped out with the last. -/
def execGridSwapOut (grid : Nat) (s : State) : Host.Outcome State Fault Refusal :=
  match s.grid? grid with
  | none => .next s
  | some g =>
    if !g.swapping then .next s
    else
      let ready := (s.gridTeams grid).filter fun t =>
        s.running.contains t.die && s.teamQuiet t && (s.teamWaves t.uid).all Wave.swappable
      let s := ready.foldl (fun s t => s.swapTeam t false) s
      .next (if s.gridTeams grid = [] then s.modGrid grid fun x => { x with swapping := false, swapped := s.saved.any fun y => y.team.grid == some grid } else s)

/-! ## Readmission (R381, R383) -/

/-- The word at an address of a context in memory, when its page can be read. -/
def State.wordOf (s : State) (ctx : BitVec 12) (va : Nat) : Option Word :=
  match s.ctx? ctx with
  | none => none
  | some c =>
    match s.walk c va with
    | .fault _ => none
    | .leaf l p =>
      let attr := p.extractLsb' 0 17
      let pa := replicaAddr 0 attr (leafAddr l p va)
      if !permits c .read attr then none
      else (allSome ((List.range 4).map fun i => s.pageByte attr (pa + i))).map fun b => BitVec.ofNat 32 (leNat b)

/-- R381: the condition that a parked thread of a swapped-out wave awaits. -/
def State.awaits (s : State) (ctx : BitVec 12) (t : Thread) : Bool :=
  t.st = .parked && match t.wait with
    -- a team swaps out with its pending-launch queue empty
    | .counter va | .drained va => t.broken || s.wordOf ctx va.toNat == some 0#32
    | .notify i v _ _ => (s.notifyReg ctx i).extractLsb' 0 32 != v
    | _ => false

/-- R381, R384: a parked wave of a swapped-out team has what it awaits, or had it before or since the swap-out. -/
def State.savedReady (s : State) (v : Saved) : Bool :=
  v.waves.any fun w => (w.thr :: w.lanes.filterMap (·.own)).any fun t => t.woken || s.awaits w.ctx t

/-- Whether a swapped-out team has its entry in a ready queue. -/
def State.returning (s : State) (u : Nat) : Bool := s.scheds.any fun e => e.2.ready.any fun x => x.saved == some u

/-- The entry of a swapped-out team, in front of the ready queue of the die that it left. -/
def State.readmit (s : State) (v : Saved) : State :=
  let u := v.team.uid
  match v.team.ent with
  | none => s
  | some e =>
    if s.returning u then s
    else
      let foot : Foot := ⟨v.team.width, v.team.bregs, v.waves.length, v.team.scratchSize, v.team.tiles, v.team.stKiB, v.team.energy⟩
      let x := { e with k := s.uid, foot := foot, prio := v.prio, passed := 0, reserving := false, saved := some u }
      { s.modSched (s.upDie v.team.die) fun y => { y with ready := x :: y.ready } with uid := s.uid + 1 }

/-- Where the one wave of a handler's or a gateway's team, which no scheduler placed, can come back: on its own cluster or core. -/
def State.looseSpot (s : State) (v : Saved) : Option Spot :=
  match v.waves with
  | w :: _ => ((if w.gw then [0] else List.range Config.pipes).find? fun p =>
      (s.freeSlot ⟨w.die, w.gw, w.clu, p⟩).isSome && w.bregs + w.xregs ≤ s.poolFree ⟨w.die, w.gw, w.clu, p⟩).map fun p => ⟨[p], 0, 0⟩
  | [] => none

/-- READMISSION of a swapped-out team, or of its grid when the whole grid was swapped out. -/
def execReadmission (team : Nat) (s : State) : Host.Outcome State Fault Refusal :=
  match s.saved.find? fun v => v.team.uid == team with
  | none => .next s
  | some v =>
    if v.ofCtx || !(s.ctx? v.team.ctx).any (fun c => c.st = .live) then .next s
    else if v.team.ent.isNone then
      match s.looseSpot v with
      | some x => .next (s.placeSaved v v.team.die v.team.clu x)
      | none => .next s
    else if !s.savedReady v then .next s
    else match v.team.grid.bind s.grid? with
      | some g =>
        if g.swapping then .next s
        else if g.swapped then
          let s := s.modGrid g.uid fun x => { x with swapped := false }
          .next ((s.saved.filter fun y => y.team.grid == some g.uid && !y.ofCtx).foldl State.readmit s)
        else .next (s.readmit v)
      | none => .next (s.readmit v)

/-- R383: the word awaited is the completion address of an incomplete grid that lost a team. -/
def State.lostWord (s : State) (ctx : BitVec 12) (va : BitVec 54) : Bool :=
  s.grids.any fun g => g.lost && g.ctx == ctx && g.caddr == va && va != 0#54

/-- A thread waits in CWAIT on such a word. -/
def State.waitBroken (s : State) (ctx : BitVec 12) (t : Thread) : Bool := t.st = .parked && t.wait.counterAt.any (s.lostWord ctx)

/-- The broken wait of a thread. -/
def Thread.breakWait (s : State) (ctx : BitVec 12) (t : Thread) : Thread := if s.waitBroken ctx t then { t with broken := true } else t

/-- A wave with the broken wait of its own thread or of one lane's. -/
def Wave.breakWait (s : State) (lane : Option Nat) (w : Wave) : Wave :=
  match lane with
  | none => { w with thr := w.thr.breakWait s w.ctx }
  | some l => w.modLane l fun x => { x with own := x.own.map (Thread.breakWait s w.ctx) }

/-- CWAIT_BROKEN: a waiter on the completion word of a grid that lost a team goes on with d := BROKEN; a swapped-out one is readmitted for
it. -/
def execCwaitBroken (i : Issuer) (s : State) : Host.Outcome State Fault Refusal :=
  match s.view i with
  | some v =>
    let f := decodeR 0x124 v.thr.parkWord []
    if s.waitBroken v.w.ctx v.thr then
      .next (((s.writeLanes v.w.uid v.act f.d.toNat f.nw f.hd (regI32 Status.broken.word)).clearReplay i).resumeAfter i)
    else .next s
  | none =>
    let f (w : Wave) : Wave := if w.uid == i.wave then w.breakWait s i.lane else w
    .next { s with saved := s.saved.map fun v => { v with waves := v.waves.map f } }

end Sys2Proof.Machine
end

