-- ==== Sys2Proof/Machine/Fail.lean ====
section
/-! DEFINITION. The accepted-work guarantee under failures (spec/01_ties R29 to R31, 05_memory R171, 07_keyring R261, R262,
11_schedulers R382): what the fatal error or reset of a die's cores and the reset of a cluster lose, and what they replay. -/

namespace Sys2Proof.Machine

/-! ## What is lost -/

/-- A stack job whose source lies in a scratchpad that is about to be lost reads it now, as its request carries the data. -/
def State.readOut (s : State) (j : Job) : State :=
  let b := j.d.desc
  if j.d.eng = .stack && !j.rd && j.d.op != 0x130 && j.d.op != 0x135 && sredSp b then
    match execStackReadDone j.k s with
    | .next t => t
    | _ => s
  else s

/-- Whether a stack job still needs a scratchpad. -/
def Job.needsScratch (j : Job) : Bool :=
  j.d.eng = .stack && !j.rd && j.fault.isNone && j.d.op != 0x130 && j.d.op != 0x135 && sredSp j.d.desc

/-- The ready-queue entry that retries a lost team (11_schedulers R382): its record and index as before, its attempt one more, and the
priority that PRIO has given its grid since it was placed (R392). -/
def State.retry (s : State) (t : Team) (k : Nat) : Option Entry :=
  t.ent.map fun e =>
    { e with k := k, attempt := e.attempt + 1, passed := 0, reserving := false, saved := none,
             prio := match t.grid.bind s.grid? with | some g => if t.placedAt < g.prioAt then g.prio else e.prio | none => e.prio }

/-- R261: a durable record of a failed keyring as it returns. A record whose teams a scheduler has, stays dispatched: its teams return
as ready-queue entries (R382). -/
def Rec.back (fromCluster : Bool) (r : Rec) : Rec :=
  if !r.dispatched then { r with replayed := r.replayed || fromCluster }
  else if r.cls == clsLaunch || r.cls == clsSpawn then r
  else { r with dispatched := false, latched := true, taker := .nobody, attempt := r.attempt + 1, spilled := false,
                replayed := r.replayed || fromCluster }

/-- A record without the pushes into it that are not accepted: what it was before the first of them, with what has happened to it
since. -/
def Rec.unfold (old r : Rec) : Rec :=
  { old with dispatched := r.dispatched, taker := r.taker, latched := old.latched || r.dispatched, age := r.age, pos := r.pos,
             stamp := r.stamp, spilled := r.spilled, attempt := r.attempt, accepted := r.accepted, replayed := r.replayed, grid := r.grid }

/-- R27, R261: the accepted durable records of a keyring, each as its journal has it. -/
def State.durables (s : State) (k : KrId) (fromCluster : Bool) : List Rec :=
  let late (r : Rec) : List Flight := s.flights.filter fun f => f.arrived == some r.uid && f.undo.isSome
  let first (l : List Flight) : Option Rec :=
    (l.foldl (fun (a : Option Flight) f => if a.all fun x => f.apos < x.apos then some f else a) none).bind (·.undo)
  ((s.ring k).recs.filter fun r => durable r.cls && r.accepted).map fun r =>
    (match first (late r) with | some old => old.unfold r | none => r).back fromCluster

/-- A keyring id lies on a die, or is a cluster's. -/
def ringLost (die : Nat) (clu : Option Nat) : KrId → Bool
  | .cluster d c => d == die && clu.all (· == c)
  | .die d => d == die && clu.isNone
  | .hub => false

/-- Whether a wave or team lies in the lost part. -/
def lostAt (die : Nat) (clu : Option Nat) (d c : Nat) (gw : Bool) : Bool := d == die && (clu.isNone || (!gw && clu == some c))

/-- A flight whose keyring is lost. -/
def State.failFlight (s : State) (f : Flight) (mirror : KrId) : State :=
  match f.queue with
  | some q => (s.dropFlight f.k).modTeam q fun t =>
      { t with launchq := t.launchq.map fun (e : QEntry) =>
          if e.sent && e.push.ident = f.push.ident then { e with sent := false, arrived := false } else e }
  | none =>
    if f.carrier.isSome then
      { s with flights := s.flights.map fun (x : Flight) => if x.k == f.k then { x with kr := mirror, arrived := none } else x }
    else if f.arrived.isSome then s.settleFlight f .broken
    else s

/-- Flights at a failure: those of lost parties that have not arrived end, the FAULT records of lost waves and engines with them (R28); an arrived one
goes on to its acceptance. Those to a lost keyring end with BROKEN, or are sent again from a pending-launch queue or for a carrier. -/
def State.failFlights (s : State) (lostWave : Nat → Bool) (lostRing : KrId → Bool) (lostHome : Nat × Option Nat → Bool) (mirror : KrId) : State :=
  let mine (f : Flight) : Bool := f.src.any fun x => lostWave x.1.wave
  let fault (f : Flight) : Bool := f.push.cls == clsFault && f.push.about.any fun x => lostWave x.wave
  let s : State := { s with flights := s.flights.filter fun (f : Flight) => f.arrived.isSome ||
    !(mine f || fault f || f.push.home.any lostHome || (f.carrier.any fun (c : KrId × Nat) => lostRing c.1) || (f.queue.any fun q => (s.team? q).isNone)) }
  let s : State := { s with flights := s.flights.map fun (f : Flight) => if mine f then { f with src := none } else f }
  (s.flights.filter fun (f : Flight) => lostRing f.kr).foldl (fun (s : State) (f : Flight) => s.failFlight f mirror) s

/-- The loss of a die's cores, or of one of its clusters: the records and entries to be replayed, and the state without them. The
mirror keyring is where the durable records go. -/
def State.lose (s0 : State) (die : Nat) (clu : Option Nat) (mirror : Nat) : State × Replay :=
  let at1 (d c : Nat) (gw : Bool) : Bool := lostAt die clu d c gw
  let lostTeams := (s0.teams.filter fun t => at1 t.die t.clu (s0.waves.any fun w => w.team == t.uid && w.gw)) ++
    (if clu.isNone then (s0.saved.map (·.team)).filter fun t => t.die == die else [])
  let lostT (u : Nat) : Bool := lostTeams.any fun t => t.uid == u
  let s := (s0.jobs.filter fun j => lostT j.d.team).foldl State.readOut s0
  let lostW (u : Nat) : Bool := s0.waves.any fun w => w.uid == u && at1 w.die w.clu w.gw
  let rings := (s.keyrings.map (·.1)).filter (ringLost die clu)
  let recs := byStamp (rings.flatMap fun k =>
    (s.durables k (match k with | .cluster _ _ => true | _ => false)).map fun r => (KrId.die mirror, r))
  let live := lostTeams.filter fun t => !t.gone
  let again := (live.mapIdx fun i t => s.retry t (s.uid + i)).filterMap id
  let kept := if clu.isNone then (s.sched die).ready.filter fun e => e.saved.isNone else []
  let kept := kept ++ again
  let moved := (s.journal.filter fun j => ringLost die clu j.kr).map fun j =>
    { j with kr := .die mirror, moved := j.moved || (match j.kr with | .cluster _ _ => true | _ => false) }
  let inPipe (p : PipeId) : Bool := at1 p.die p.clu p.gw
  let s : State := { s with
    waves := s.waves.filter fun (w : Wave) => !lostW w.uid
    teams := s.teams.filter fun (t : Team) => !lostT t.uid
    saved := s.saved.filter fun (v : Saved) => !lostT v.team.uid
    jobs := s.jobs.filter fun (j : Job) => if j.d.eng = .stack then !(lostT j.d.team && j.needsScratch) else !at1 j.die j.clu false
    keyrings := s.keyrings.filter fun e => !ringLost die clu e.1
    journal := s.journal ++ moved
    pipes := s.pipes.filter fun e => !inPipe e.1
    l1 := s.l1.filter fun (l) => !inPipe l.pipe
    l2 := s.l2.filter fun e => !(clu.isNone && e.die == die)
    icache := s.icache.filter fun l => !inPipe l.pipe
    clusters := s.clusters.filter fun e => !at1 e.1.1 e.1.2 false
    nrgs := s.nrgs.filter fun e => !at1 e.1.2.1 e.1.2.2 false
    uid := s.uid + live.length }
  let lostHome (h : Nat × Option Nat) : Bool := h.1 == die && (clu.isNone || h.2 == clu)
  (s.failFlights lostW (ringLost die clu) lostHome (.die mirror), ⟨mirror, recs, kept⟩)

/-- The replay of a failed part (R261, R382), in the die that takes it over. -/
def State.replay (s : State) (r : Replay) : State :=
  let s := r.recs.foldl (fun s x => s.insertRec x.1 x.2) s
  s.modSched r.die fun x => { x with ready := x.ready ++ r.entries }

/-- The failure of a die's cores (R31): a fatal error, or a reset. The mirror has the work to replay; when it is down too, the package
has a fatal error. -/
def State.failDie (s0 : State) (die : Nat) : State :=
  let mirror := die ^^^ 1
  let grids := (s0.teams ++ s0.saved.map (·.team)).filterMap fun t => if t.die == die && !t.gone then t.grid else none
  let (s, r) := s0.lose die none mirror
  let s : State := { s with
    running := s.running.filter (· != die)
    tlb := s.tlb.filter fun (e : TlbEntry) => e.die != die
    scheds := s.scheds.filter fun e => e.1 != die
    replays := s.replays ++ [r]
    grids := s.grids.map fun (g : Grid) =>
      let move (l : List (Nat × Nat)) : List (Nat × Nat) :=
        let n := assocGet l die 0
        if n = 0 then l else assocSet (l.filter fun e => e.1 != die) mirror (assocGet l mirror 0 + n)
      let g := { g with done := move g.done, due := move g.due }
      let g := { g with lost := g.lost || grids.contains g.uid }
      { g with swapped := g.swapped && s.saved.any fun v => v.team.grid == some g.uid } }
  if s.running.contains mirror && !s0.replays.any (fun x => x.die == die) then s else { s with sext := { s.sext with fatal := true } }

/-- R171: some of the bytes that recovery finds are those that memory last had of the line. -/
def L2Line.found (stale : List (Nat × Byte)) (e : L2Line) : Bool :=
  stale.any fun x => x.1 / 128 == e.line && x.2 == (leBytes 128 e.old.toNat).getD (x.1 % 128) 0#8

/-- R171, R173: the lines that are still dirty in a failing die's L2: those that recovery finds stale (log 20), and those that cannot be
written back for an error in them. -/
def State.staleLines (s : State) (die : Nat) (found : L2Line → Bool) : List L2Line :=
  s.l2.filter fun e => e.die == die && (found e || s.lineErred e.line)

/-- R171, R173: lines that were dirty in a die's L2 hold what was last written back, and some lines are logged. -/
def State.revert (s : State) (dirty : List L2Line) (lines : List Nat) : State :=
  { s with
    mem := dirty.foldl (fun m (e : L2Line) => memPuts m (128 * e.line) (leBytes 128 e.old.toNat)) s.mem
    bad := s.bad.filter fun a => !dirty.any fun (e : L2Line) => e.line == a / 128
    sext := { s.sext with dirtyLog := (s.sext.dirtyLog ++ lines).dedup } }

/-- R171: a fatal error of a die's cores: lines dirty only in its caches hold their last written-back value, and their addresses are logged. -/
def State.failFatal (s : State) (die : Nat) (found : L2Line → Bool) : State :=
  if !s.running.contains die then s
  else
    let dirty := s.staleLines die found
    let lines := (s.l1.filter fun l => l.pipe.die == die && l.dirty != 0#128).map (·.line) ++ dirty.map (·.line)
    (s.failDie die).revert dirty lines

/-- DIE_FATAL_ERROR (R31, R171). -/
def execDieFatalError (die : Nat) (stale : List (Nat × Byte)) (s : State) : Host.Outcome State Fault Refusal :=
  .next (s.failFatal die (L2Line.found stale))

/-- JOURNAL_REPLAY in the mirror of a failed die: one event in its keyring. -/
def execJournalReplay (die : Nat) (s : State) : Host.Outcome State Fault Refusal :=
  if !s.running.contains die then .next s
  else
    let rs := s.replays.filter fun r => r.die == die
    .next (rs.foldl State.replay { s with replays := s.replays.filter fun r => r.die != die })

/-- The reset of a cluster (15_sextant R450): its durable records replay into its die's keyring. -/
def State.resetCluster (s : State) (die clu : Nat) : State :=
  let (s, r) := s.lose die (some clu) die
  s.replay r

end Sys2Proof.Machine
end

