-- ==== Sys2Proof/Machine/Gateway.lean ====
section
/-! DEFINITION. Gateway cores and Tildor links (spec/13_gateways): BADD, BQPOP, LSND and LSTAT, the block queue, links, heartbeats and
fences. -/

namespace Sys2Proof.Machine

/-! ## BADD (R423) -/

/-- Header bits that are zero in a block: 31:20 and 15:9. -/
def blockHdrBad (w : Word) : Bool := extraBits w 0x000F01FF#32

/-- The sum of two blocks given as header and planes, as the destination's registers take it. -/
def baddBlocks (d a : List Word) : List Word × Flags :=
  if blockHdrBad (a.headD 0#32) then (pad12 [BitVec.ofNat 32 (511 + fld (d.headD 0#32) 16 4 * 2 ^ 16)], flagInv) else foldBadd d a

/-- BADD in a lane whose block a starts at register `a`. -/
def baddLane (w : Wave) (f : RFmt) (a : Nat) (l : Lane) : Except Fail Lane :=
  let d := f.d.toNat
  let n := fld (l.reg d).bits 16 4
  let regs (r : Nat) : List Nat := (List.range (n + 1)).map (r + ·)
  if (l.reg d).tag = .none || (l.reg a).tag = .none then .error failFmt
  else if n < 2 || 8 < n || blockHdrBad (l.reg d).bits then .error failFld7
  else if (regs d ++ regs a).any fun r => !regLegal w r then .error failFld7
  else if (regs d ++ regs a).any fun r => (l.reg r).tag = .none then .error failFmt7
  else
    let (ws, fl) := baddBlocks ((regs d).map fun r => (l.reg r).bits) ((regs a).map fun r => (l.reg r).bits)
    let l := if f.nw then l else (List.range (n + 1)).foldl (fun l k => l.setReg (d + k) (regI32 (ws.getD k 0#32))) l
    .ok (l.raise fl)

/-- Field a as a register. -/
def regOf (x : Src) : Option Nat :=
  match x with
  | .reg r => some r.toNat
  | _ => none

/-- BADD waits at issue for every register of its two blocks (02_encoding R60). -/
def execBadd (f : RFmt) (s : State) : Host.Outcome State Fault Refusal :=
  let sl := slotR 0x140 f [] ((regOf f.a).isNone || f.hd)
  let a := (regOf f.a).getD 0
  issue sl (fun s v =>
    let n := ((v.lane? v.low).map fun l => fld (l.reg f.d.toNat).bits 16 4).getD 0
    if v.thr.pends ((List.range (n + 1)).flatMap fun k => [f.d.toNat + k, a + k]) then s
    else laneOp sl (fun _ _ _ l => baddLane v.w f a l) s v) s

/-! ## The block queue (R412 to R414, R424) -/

/-- R413: a queued block of a gateway core and context. -/
def queuedBlock (w : Wave) (r : Rec) : Bool :=
  r.cls == clsRed && r.ctx == w.ctx && r.key.getLsbD 47 && (r.key.extractLsb' 0 32).toNat % 4 == w.clu

/-- R414: the records that a slot holds complete. -/
def State.releaseHeld (s : State) (w : Wave) : State :=
  (s.completeRec fun r => match r.taker with | .gateway u _ => u == w.uid | _ => false).modLane w.uid 0 fun l => { l with held := [] }

def bqpopBody (f : RFmt) (sl : Slot) (s : State) (v : View) (a : Word) (s0 : State) : State :=
  let held := ((v.lane? 0).map fun l => l.held.length).getD 0
  let die := KrId.die v.w.die
  if extraBits a 3#32 || (a.getLsbD 1 && 16 ≤ held) then s0.trapAll v sl failFld7
  else
    let complete (s : State) : State := if a.getLsbD 1 then s else s.releaseHeld v.w
    let s := complete s
    match (s.ring die).select (queuedBlock v.w) with
    | none =>
      if a.getLsbD 0 then (s.modLane v.w.uid 0 fun l => l.takeImage f.d.toNat []).advance v.iss (1 + sl.nlits)
      else (complete s0).park v.iss .blockQueue sl
    | some r =>
      let s := (s.dispatch die r.uid (.gateway v.w.uid 0)).l1Acquire v.w.pipes
      let s := s.modLane v.w.uid 0 fun l => { l.takeImage f.d.toNat (r.deliver.aged.image 2#2) with held := l.held ++ [r.uid] }
      s.advance v.iss (1 + sl.nlits)

def execBqpop (f : RFmt) (s : State) : Host.Outcome State Fault Refusal :=
  let sl := slotR 0x141 f ((List.range 16).map (f.d.toNat + ·)) (f.d.toNat % 16 != 0 || f.nw || f.hd)
  issue sl.once (waveOp sl (oneI32 f) (bqpopBody f sl)) s

/-! ## LSND (R425) -/

def State.tildor (s : State) (die port : Nat) : Tildor := assocGet s.tildors (die, port) Tildor.reset
def State.modTildor (s : State) (die port : Nat) (f : Tildor → Tildor) : State :=
  { s with tildors := assocSet s.tildors (die, port) (f (s.tildor die port)) }

/-- PORT of a gateway core (R411). -/
def gwPort (w : Wave) : Nat := if w.clu < 2 then 0 else 1

/-- R419: a port sends that is UP and whose PEER is not fenced. -/
def State.portSends (s : State) (die port : Nat) : Bool := (s.tildor die port).st == 2#2 && !s.fenced.contains (s.tildor die port).peer

/-- The port an LSND to another package leaves through. -/
def State.lsndPort (s : State) (w : Wave) : Option Nat :=
  [gwPort w, 1 - gwPort w].find? (s.portSends w.die)

/-- LSNDs of a core sent and not yet answered (LSQ). -/
def State.lsq (s : State) (w : Wave) : Nat := (s.flights.filter fun f => f.link.isSome && f.pipe == some (w.pipeOf 0) && f.src.isSome).length

/-- The descriptors of an LSND block. -/
def lsndDesc (b : List Word) : Desc := descOf (dw b 1) (dw b 2) (dw b 3)

def lsndOk (b : List Word) : Bool :=
  destOk (dw b 0) && descOk [clsRed] (dw b 2) (lsndDesc b) && !(lsndDesc b).lvl

def lsndBody (f : EFmt) (sl : Slot) (s : State) (v : View) : State :=
  let b := v.block f
  let core := v.w.pipeOf 0
  let send (kr : KrId) (p : Push) (remote : Option (BitVec 12)) (link : Nat) : State :=
    let k := s.uid
    let s := s.launchFlight { plainFlight 0 kr p with
      src := some (v.iss, [0]), pipe := some core, d := some f.d.toNat, returns := .acceptance, remote := remote, link := some link } v.w.pipes
    let s := s.modWave v.w.uid fun w => { w with seq := w.seq + 1 }
    let s := if link < 2 then s.setPipe core { s.pipe core with lastPort := some link } else s
    (s.awaitPush v f.tk f.d.toNat false [k]).advance v.iss 1
  if !lsndOk b then s.trapAll v sl failFld7
  else match s.sendTo (dw b 0) (wavePush s v.w 0 (lsndDesc b) v.w.ctx (b.drop 4)) with
    | .status st => s.finishE v f st.word
    | .push kr p none => if 16 ≤ s.lsq v.w then s else send kr p none 2
    | .push kr p (some pkg) =>
      match s.lsndPort v.w with
      | none => s.finishE v f Status.linkdown.word
      | some port =>
        -- a send that changes port waits for every earlier one
        if 16 ≤ s.lsq v.w || ((s.pipe core).lastPort.any (· != port) && s.lsq v.w != 0) then s
        else send kr p (some pkg) port

def execLsnd (f : EFmt) (s : State) : Host.Outcome State Fault Refusal :=
  let sl := slotPush 0x142 f 4 16
  issue sl (lsndBody f sl) s

/-! ## LSTAT (R416, R426) -/

/-- R416: the status word of a port. -/
def State.portWord (s : State) (die port : Nat) : Word :=
  let t := s.tildor die port
  let pfen := (t.st == 2#2 || t.st == 3#2) && s.fenced.contains t.peer
  0#11 ++ BitVec.ofBool pfen ++ t.peer ++ 0#3 ++ BitVec.ofBool t.half ++ t.gen ++ t.st

def lstatBody (f : RFmt) (sl : Slot) (s : State) (v : View) (a : Word) (s0 : State) : State :=
  let kind := fld a 1 2
  let port := fld a 0 1
  let pkg := a.extractLsb' 16 12
  if extraBits a 0x0FFF0007#32 || (kind != 3 && pkg != 0#12) then s0.trapAll v sl failFld7
  else match kind with
    | 0 => s.finishWith v sl f (regI32 (s.portWord v.w.die port))
    | 1 => s.finishWith v sl f (regI32 (saturate32 (s.tildor v.w.die port).replays))
    | 2 => s.finishWith v sl f (regI32 (saturate32 (s.tildor v.w.die port).silence))
    | _ => s.finishWith v sl f (if s.fenced.contains pkg then Status.linkdown.reg else if s.inDomain pkg then Status.ok.reg else Status.nopeer.reg)

def execLstat (f : RFmt) (s : State) : Host.Outcome State Fault Refusal :=
  let sl := slotR 0x143 f [] (f.nw || f.hd)
  issue sl.once (waveOp sl (oneI32 f) (lstatBody f sl)) s

/-! ## Links (R415, R418) -/

/-- LINK_TRAIN: a port comes UP at a generation, on all lanes or half of them, with its neighbour's package. -/
def execLinkTrain (die port : Nat) (t3 half : Bool) (peer : BitVec 12) (s : State) : Host.Outcome State Fault Refusal :=
  let t := s.tildor die port
  if t.st == 3#2 && s.fenced.contains t.peer then .next s
  else .next (s.modTildor die port fun t => { t with st := 2#2, gen := if t3 then 2#2 else 1#2, half := half, peer := peer })

/-- LANE_LOSS: a port that is UP retrains on half its lanes. -/
def execLaneLoss (die port : Nat) (s : State) : Host.Outcome State Fault Refusal :=
  .next (if (s.tildor die port).st == 2#2 then s.modTildor die port fun t => { t with st := 1#2, half := true } else s)

/-- FLIT_RETRY: link-level retry replays a flit. -/
def execFlitRetry (die port : Nat) (s : State) : Host.Outcome State Fault Refusal :=
  .next (s.modTildor die port fun t => { t with replays := t.replays + 1 })

/-- FLIT_RECEIVE: the silence count starts again. -/
def execFlitReceive (die port : Nat) (s : State) : Host.Outcome State Fault Refusal :=
  .next (s.modTildor die port fun t => { t with silence := 0 })

/-- HEARTBEAT_SEND: a port that is UP sends a heartbeat. -/
def execHeartbeatSend (die port : Nat) (s : State) : Host.Outcome State Fault Refusal :=
  .next (if s.portSends die port then s.modTildor die port fun t => { t with heartbeats := t.heartbeats + 1 } else s)

/-! ## Fences (R419, R420) -/

/-- R419, R420: an operation's accesses to a fenced package end as read errors. -/
def PendOp.fenced (x : BitVec 12) (o : PendOp) : PendOp :=
  let cut := o.remote.filter fun e => e.2.2 == x
  { o with remote := o.remote.filter fun e => e.2.2 != x, writes := o.writes.filter fun e => !cut.any fun c => c.1 == e.1,
           errs := o.errs ++ (cut.filter fun c => !o.errs.any fun e => e.1 == c.1).map fun c => (c.1, c.2.1) }

/-- The accesses that a wave has outstanding to a fenced package. -/
def Wave.fenceOps (x : BitVec 12) (w : Wave) : Wave :=
  let cut (t : Thread) : Thread := { t with ops := t.ops.map (PendOp.fenced x) }
  { w with thr := cut w.thr, lanes := w.lanes.map fun l => { l with own := l.own.map cut } }

/-- R419: this package fences a package. -/
def State.fence (s : State) (x : BitVec 12) : State :=
  if s.fenced.contains x || x == s.pkgid then s
  else
    let homed (l : L1Line) : Bool := pkgOf (l.line * 128) == x
    let gone := s.l2.filter fun e => pkgOf (e.line * 128) == x
    let dirty := (s.l1.filter fun l => homed l && l.dirty != 0#128).map (·.line) ++ gone.map (·.line)
    let s := { s with
      fenced := s.fenced ++ [x]
      waves := s.waves.map (Wave.fenceOps x)
      l1 := s.l1.filter fun (l : L1Line) => !homed l
      l2 := s.l2.filter fun e => pkgOf (e.line * 128) != x
      ro := s.ro.filter fun l => pkgOf (l.line * 128) != x
      mem := gone.foldl (fun m (e : L2Line) => memPuts m (128 * e.line) (leBytes 128 e.old.toNat)) s.mem
      sext := { s.sext with dirtyLog := (s.sext.dirtyLog ++ dirty).dedup } }
    (s.flights.filter fun f => f.remote == some x).foldl (fun (s : State) (f : Flight) => s.settleFlight f .linkdown) s

/-- PORT_SILENT: the silence count of a port that is UP has reached its threshold. -/
def execPortSilent (die port : Nat) (s : State) : Host.Outcome State Fault Refusal :=
  let t := s.tildor die port
  .next (if t.st == 2#2 && t.threshold ≤ t.silence then (s.modTildor die port fun t => { t with st := 3#2 }).fence t.peer else s)

/-- FENCE_NOTICE: a neighbour names a package that it has fenced. -/
def execFenceNotice (pkg : BitVec 12) (s : State) : Host.Outcome State Fault Refusal := .next (s.fence pkg)

end Sys2Proof.Machine
end

