-- ==== Sys2Proof/Machine/Sextant.lean ====
section
/-! DEFINITION. The sextant (spec/15_sextant): energy, the semaphore, host accesses, the mailbox, resets, boot and measurements; and
a host's launch records (11_schedulers R357, R359, R360). -/

namespace Sys2Proof.Machine

/-! ## ENRD, ENRSV, ENREL, ENQRY (R447, R448) -/

def enrdBody (f : RFmt) (sl : Slot) (s : State) (v : View) (a : Word) (s0 : State) : State :=
  let d := f.d.toNat
  if f.hd || d % 2 != 0 || !regLegal v.w (d + 1) || 9 < a.toNat then s0.trapAll v sl failFld7
  else
    let n : Nat :=
      if a == 9#32 then ((List.range Config.dies).map fun k => (s.die k).energy).sum
      else (s.die (if a == 8#32 then v.w.die else a.toNat)).energy
    let s := s.writeLanes v.w.uid v.act d f.nw false (regI32 (BitVec.ofNat 32 n))
    (s.writeLanes v.w.uid v.act (d + 1) f.nw false (regI32 (BitVec.ofNat 32 (n / 2 ^ 32)))).advance v.iss (1 + sl.nlits)

def execEnrd (f : RFmt) (s : State) : Host.Outcome State Fault Refusal :=
  let sl := { slotR 0x150 f with waits := [f.d.toNat + 1] }
  issue sl.once (waveOp sl (oneI32 f) (enrdBody f sl)) s

/-- RSV of a wave's team (R446). -/
def State.rsvOf (s : State) (w : Wave) : Nat := ((s.team? w.team).map (·.rsv)).getD 0

def enrsvBody (f : RFmt) (sl : Slot) (s : State) (v : View) (a : Word) (_ : State) : State :=
  if a == 0#32 then s.finishWith v sl f Status.ok.reg
  else if (s.die v.w.die).allowance < a.toNat then s.finishWith v sl f Status.toobig.reg
  else if s.remaining v.w.die < (a.toNat : Int) then s.finishWith v sl f Status.full.reg
  else ((s.modTeam v.w.team fun t => { t with rsv := t.rsv + a.toNat }).modDie v.w.die fun d => { d with held := true }).finishWith v sl f
    Status.ok.reg

def execEnrsv (f : RFmt) (s : State) : Host.Outcome State Fault Refusal :=
  let sl := slotR 0x151 f
  issue sl.once (waveOp sl (oneI32 f) (enrsvBody f sl)) s

def enrelBody (f : RFmt) (sl : Slot) (s : State) (v : View) (a : Word) (_ : State) : State :=
  let r := min a.toNat (s.rsvOf v.w)
  (s.modTeam v.w.team fun t => { t with rsv := t.rsv - r }).finishWith v sl f (regI32 (BitVec.ofNat 32 r))

def execEnrel (f : RFmt) (s : State) : Host.Outcome State Fault Refusal :=
  let sl := slotR 0x152 f
  issue sl.once (waveOp sl (oneI32 f) (enrelBody f sl)) s

def enqryBody (f : RFmt) (sl : Slot) (s : State) (v : View) (a : Word) (s0 : State) : State :=
  let d := s.die v.w.die
  match a.toNat with
  | 0 => s.finishWith v sl f (regI32 (BitVec.ofNat 32 d.allowance))
  | 1 => s.finishWith v sl f (regI32 (s.enbal v.w.die))
  | 2 => s.finishWith v sl f (regI32 (BitVec.ofNat 32 (s.rsvOf v.w)))
  | 3 => s.finishWith v sl f (regI32 (BitVec.ofNat 32 d.duty))
  | 4 => s.finishWith v sl f (regI32 (BitVec.ofNat 32 d.intervals))
  | _ => s0.trapAll v sl failFld7

def execEnqry (f : RFmt) (s : State) : Host.Outcome State Fault Refusal :=
  let sl := slotR 0x153 f
  issue sl.once (waveOp sl (oneI32 f) (enqryBody f sl)) s

/-! ## Budget intervals and meters (R34, R445) -/

/-- R34: the duty numerator after an interval that used `u` of an allowance `a`. -/
def dutyOf (a u : Nat) : Nat := if u ≤ a then 16 else max 1 (16 * a / u)

/-- BUDGET_INTERVAL_END: the use is compared with A, reservations lapse, and a changed budget takes effect. -/
def execBudgetIntervalEnd (die : Nat) (s : State) : Host.Outcome State Fault Refusal :=
  let a := s.sext.budget * s.sext.shares.getD die 0 / 1024
  let s := s.modDie die fun d =>
    { d with duty := dutyOf d.allowance d.used, startUse := d.energy, charged := 0, allowance := a, held := false,
             intervals := d.intervals + 1 }
  .next { s with teams := s.teams.map fun (t : Team) => if t.die == die then { t with rsv := 0 } else t }

/-- ENERGY_METER_UPDATE: metered energy is added to the die's 64-bit counter. -/
def execEnergyMeterUpdate (die uj : Nat) (s : State) : Host.Outcome State Fault Refusal :=
  .next (s.modDie die fun d => { d with energy := (d.energy + uj) % 2 ^ 64 })

/-! ## The semaphore (R443, R444) -/

def Sextant.setOwner (x : Sextant) (o : Option Nat) : Sextant := if x.owner = o then x else { x with owner := o, gen := x.gen + 1#16 }

def State.modSext (s : State) (f : Sextant → Sextant) : State := { s with sext := f s.sext }

/-- The OWN bit of a port as it writes it. -/
def Sextant.setOwn (x : Sextant) (port : Nat) (b : Bool) : Sextant :=
  { x with own := (x.own.filter (· != port)) ++ (if b then [port] else []) }

/-- SEM_REQUEST, a write of 1 to OWN: granted only when no port holds it. -/
def execSemRequest (port : Nat) (s : State) : Host.Outcome State Fault Refusal :=
  .next ((if s.sext.owner.isNone then s.modSext fun x => x.setOwner (some port) else s).modSext fun x => x.setOwn port true)

/-- SEM_RELEASE, a write of 0 to OWN. -/
def execSemRelease (port : Nat) (s : State) : Host.Outcome State Fault Refusal :=
  .next ((if s.sext.owner == some port then s.modSext fun x => x.setOwner none else s).modSext fun x => x.setOwn port false)

/-- R443: SEM as a port reads it. -/
def Sextant.semWord (x : Sextant) (port : Nat) : Word :=
  x.gen ++ 0#13 ++ BitVec.ofBool (x.owner.any (· != port)) ++ BitVec.ofBool (x.owner == some port) ++ BitVec.ofBool (x.own.contains port)

/-- HOST_LINK_DOWN: the holding port releases. -/
def execHostLinkDown (port : Nat) (s : State) : Host.Outcome State Fault Refusal :=
  .next (if s.sext.owner == some port then s.modSext fun x => x.setOwner none else s)

/-! ## The hash of R452 (SHA-256, log 15)

The function keeps two sequences of words, four of each at a time: `up`, where a round's sum lands at once, and `down`, where it lands
after four rounds.  The round constants are the first fractional bits of cube roots of primes and are computed here. -/

/-- The greatest `r + n` with `n` of at most `b` bits whose `k`th power is within `x`. -/
def rootFrom (k x : Nat) : Nat → Nat → Nat
  | 0, r => r
  | b + 1, r => rootFrom k x b (if (r + 2 ^ b) ^ k ≤ x then r + 2 ^ b else r)

/-- The first 32 fractional bits of the `k`th root of `p`. -/
def rootFraction (k p : Nat) : Word := BitVec.ofNat 32 (rootFrom k (p * 2 ^ (32 * k)) 36 0)

/-- The 64 primes up to 311. -/
def hashPrimes : List Nat := (List.range 312).filter fun p => 1 < p && (List.range p).all fun d => d < 2 || p % d != 0

/-- The two sequences, newest word first. -/
structure HashPair where
  up   : List Word
  down : List Word
  deriving DecidableEq, Repr

/-- A sum without carries of a word turned right by each amount; an amount with `true` drops the bits that leave. -/
def turned (w : Word) (ways : List (Nat × Bool)) : Word :=
  ways.foldl (fun acc x => acc ^^^ (if x.2 then w >>> x.1 else w.rotateRight x.1)) 0#32

/-- One round with constant `k` on a window of sixteen message words, whose first is used and which slides by one. -/
def HashPair.round (st : HashPair × List Word) (k : Word) : HashPair × List Word :=
  let (h, win) := st
  let word (l : List Word) (i : Nat) : Word := l.getD i 0#32
  let e := word h.down 0
  let a := word h.up 0
  let pick := (e &&& word h.down 1) ||| (~~~e &&& word h.down 2)
  let most := (a &&& (word h.up 1 ||| word h.up 2)) ||| (word h.up 1 &&& word h.up 2)
  let sum := word win 0 + k + word h.down 3 + pick + turned e [(6, false), (11, false), (25, false)]
  let next := word win 0 + word win 9 + turned (word win 1) [(7, false), (18, false), (3, true)] +
    turned (word win 14) [(17, false), (19, false), (10, true)]
  (⟨(sum + most + turned a [(2, false), (13, false), (22, false)]) :: h.up.take 3, (sum + word h.up 3) :: h.down.take 3⟩,
    win.drop 1 ++ [next])

/-- Sixteen words taken in by 64 rounds, and the sequences before them added back. -/
def HashPair.absorb (h : HashPair) (win : List Word) : HashPair :=
  let r := ((hashPrimes.map (rootFraction 3)).foldl HashPair.round (h, win)).1
  ⟨List.zipWith (· + ·) r.up h.up, List.zipWith (· + ·) r.down h.down⟩

/-- The words of a number of 512 bits, highest first. -/
def hashWords (x : Nat) : List Word := (List.range 16).map fun i => BitVec.ofNat 32 (x / 2 ^ (32 * (15 - i)))

/-- A message of exactly 512 bits as one number, and the padding block that follows such a message; the digest as a number. -/
def hash512 (x : Nat) : BitVec 256 :=
  let start := (hashPrimes.take 8).map (rootFraction 2)
  let h := (HashPair.absorb ⟨start.take 4, start.drop 4⟩ (hashWords x)).absorb (hashWords (2 ^ 511 + 512))
  BitVec.ofNat 256 ((h.up ++ h.down).foldl (fun n w => n * 2 ^ 32 + w.toNat) 0)

/-- The bytes of a number, highest first. -/
def beBytes (n x : Nat) : List Byte := (leBytes n x).reverse

/-- R452: a measurement register extended by a digest; a register's byte 0 is its most significant. -/
def extendMeasure (m d : BitVec 256) : BitVec 256 := hash512 (m.toNat * 2 ^ 256 + d.toNat)

def Sextant.extend (x : Sextant) (r : Nat) (d : BitVec 256) : Sextant :=
  { x with measure := x.measure.setIfInBounds r (extendMeasure ((x.measure[r]?).getD 0#256) d) }

/-! ## The mailbox (R449) -/

/-- Whether the source of a command holds the semaphore; the sideband stands for the port that does. -/
def Sextant.holds (x : Sextant) (src : MailSrc) : Bool :=
  match src with
  | .port p => x.owner == some p
  | .sideband => x.owner.isSome

/-- A command is issued: one that the recovery state or the semaphore turns away is REFUSED; otherwise `f` gives its effect, its status
and a die whose reset ends with it. An issue while an earlier command is incomplete is discarded. -/
def State.mail (s : State) (src : MailSrc) (op : Nat) (needs : Bool) (f : State → State × Status × Option Nat) : State :=
  if s.sext.mails.any fun m => m.src = src then s
  else
    let r : State × Status × Option Nat :=
      if (s.sext.recovery && op != 0x40 && op != 0x60) || (needs && !s.sext.holds src) then (s, .refused, none) else f s
    r.1.modSext fun x => { x with mails := x.mails ++ [⟨src, r.2.1, r.2.2⟩], box := assocSet x.box src (BitVec.ofNat 64 op) }

/-- MAILBOX_COMPLETE: bits 47:32 of doubleword 0 take the status and bit 63 is set; a die leaves its reset. -/
def execMailboxComplete (src : MailSrc) (s : State) : Host.Outcome State Fault Refusal :=
  match s.sext.mails.find? fun m => m.src = src with
  | none => .next s
  | some m =>
    let s := s.modSext fun x => { x with
      mails := x.mails.filter fun y => y.src ≠ src
      box := assocSet x.box src (assocGet x.box src 0#64 ||| BitVec.ofNat 64 (m.status.code * 2 ^ 32 + 2 ^ 63)) }
    .next (match m.restart with
      | some n => { s with running := (s.running ++ [n]).dedup }
      | none => s)

/-- Memory of this package under another package number. -/
def rekey (old new : BitVec 12) (m : List Host.Cell) : List Host.Cell :=
  let keep := m.filter fun c => pkgOf c.1 != old && pkgOf c.1 != new
  (m.filter fun c => pkgOf c.1 == old).foldl (fun m c => memPut m (c.1 % 2 ^ 45 + new.toNat * 2 ^ 45) c.2) keep

/-- PKGID changes: the local addresses of memory take the new number, and what caches hold of the old one is written back. -/
def State.setPkgid (s0 : State) (p : BitVec 12) : State :=
  if p == s0.pkgid then s0
  else
    let s := s0.l1.foldl State.writeBack s0
    { s with
      pkgid := p
      l1 := []
      l2 := []
      tlb := []
      mem := rekey s.pkgid p s.mem
      bad := s.bad.map fun a => if pkgOf a == s.pkgid then a % 2 ^ 45 + p.toNat * 2 ^ 45 else a }

/-- CONFIG: PKGID, the domain, port pairs and silence thresholds; it is measured into register 3. -/
def execConfig (src : MailSrc) (a : ConfigArgs) (s : State) : Host.Outcome State Fault Refusal :=
  .next (s.mail src 0x10 true fun s =>
    if a.thresholds.any fun t => t.2.2 < 2 ^ 14 || 2 ^ 31 < t.2.2 then (s, .refused, none)
    else
      let s := { s.setPkgid a.pkgid with domain := a.domain, freeCtr := s.freeCtr + 1 }
      let s := a.pairs.foldl (fun (s : State) x => s.modTildor x.1 x.2.1 fun t => { t with peer := x.2.2 }) s
      let s := a.thresholds.foldl (fun (s : State) x => s.modTildor x.1 x.2.1 fun t => { t with threshold := x.2.2 }) s
      (s.modSext fun x => x.extend 3 (Config.freeDigest s.freeCtr), .ok, none))

/-- STANDBY: up to eight entries (13_gateways R421). -/
def execStandby (src : MailSrc) (l : List (BitVec 12 × BitVec 12)) (s : State) : Host.Outcome State Fault Refusal :=
  .next (s.mail src 0x11 true fun s => if 8 < l.length then (s, .refused, none) else ({ s with standby := l }, .ok, none))

/-- LIFT ends the fence of a package. -/
def execLift (src : MailSrc) (pkg : BitVec 12) (s : State) : Host.Outcome State Fault Refusal :=
  .next (s.mail src 0x12 true fun s => ({ s with fenced := s.fenced.filter (· != pkg) }, .ok, none))

/-- SETBUDGET: B and eight shares of at most 1,024 together, from each die's next interval on. -/
def execSetbudget (src : MailSrc) (b : Nat) (shares : List Nat) (s : State) : Host.Outcome State Fault Refusal :=
  .next (s.mail src 0x20 true fun s =>
    if shares.length != 8 || 1024 < shares.sum then (s, .refused, none)
    else (s.modSext fun x => { x with budget := b, shares := shares }, .ok, none))

/-- REACH: the contexts the issuing port may reach. -/
def execReach (src : MailSrc) (lo hi : BitVec 12) (s : State) : Host.Outcome State Fault Refusal :=
  .next (s.mail src 0x21 true fun s =>
    let port : Option Nat := match src with
      | .port p => some p
      | .sideband => s.sext.owner
    match port with
    | none => (s, .refused, none)
    | some p => (s.modSext fun x => { x with reach := (x.reach.filter fun e => e.1 != p) ++ [(p, lo, hi)] }, .ok, none))

/-- R450: a package reset. What the boot ROM finds and the fused minimum remain, and boot follows; the generation counts of handles remain,
so that a handle from before it is stale (14_hub R435). -/
def State.packageReset (s : State) : State :=
  { State.reset with
    sext := { Sextant.reset with stored := s.sext.stored, staged := s.sext.staged, fused := s.sext.fused }
    gens := s.gens
    freeCtr := s.freeCtr
    turn := s.turn }

/-- A reset of a die's cores: its L2 is written back first, and its lines in L1s go with the cores. A line that meets an uncorrectable error
there is logged and keeps what was last written back (05_memory R173). -/
def State.resetDie (s : State) (n : Nat) : State :=
  if s.running.contains n then
    let erred := s.staleLines n fun _ => false
    (s.failDie n).revert erred (erred.map (·.line))
  else s

/-- RESET of a domain (R450). -/
def execReset (src : MailSrc) (t : ResetTarget) (s : State) : Host.Outcome State Fault Refusal :=
  .next (match t with
    | .package =>
      if !s.sext.mails.any (fun m => m.src = src) && s.sext.holds src && !s.sext.recovery then s.packageReset
      else s.mail src 0x30 true fun s => (s, .refused, none)
    | .die n => s.mail src 0x30 true fun s => if n < Config.dies then (s.resetDie n, .ok, some n) else (s, .refused, none)
    | .cluster d c => s.mail src 0x30 false fun s =>
        if d < Config.dies && c < Config.clusters then (s.resetCluster d c, .ok, none) else (s, .refused, none))

/-- R451: an image passes its check: the signature verifies, and the version does not lie below the fused minimum. -/
def Sextant.passes (x : Sextant) (i : FwImage) : Bool := i.valid && x.fused ≤ i.version

/-- FWUPDATE: an image that verifies is staged for the next package reset (R451), in place of one staged for the same slot. -/
def execFwupdate (src : MailSrc) (img : FwImage) (s : State) : Host.Outcome State Fault Refusal :=
  .next (s.mail src 0x40 true fun s =>
    if s.sext.passes img then
      (s.modSext fun x => { x with staged := (x.staged.filter fun i => i.slot ≠ img.slot) ++ [img] }, .ok, none)
    else (s, .refused, none))

/-- R453: bytes 0 to 359 of a report. -/
def State.reportHead (s : State) (nonce : BitVec 256) : List Byte :=
  beBytes 32 nonce.toNat ++ s.sext.measure.toList.flatMap (fun m => beBytes 32 m.toNat) ++
  (List.range 8).map (Config.versionByte s.pkgid s.sext.versions) ++ (List.range 64).map Config.identityByte

/-- R453: the signature over them. -/
def reportSignature (h : List Byte) : List Byte := (List.range 29792).map (Config.signatureByte h)

/-- ATTEST writes a signed report to the host's buffer. -/
def execAttest (src : MailSrc) (nonce : BitVec 256) (buf : Nat) (s : State) : Host.Outcome State Fault Refusal :=
  .next (s.mail src 0x50 false fun s =>
    let h := s.reportHead nonce
    (s.modSext fun x => { x with report := some (buf, h ++ reportSignature h) }, .ok, none))

/-- EXTEND of measurement registers 4 to 7. -/
def execExtend (src : MailSrc) (reg : Nat) (digest : BitVec 256) (s : State) : Host.Outcome State Fault Refusal :=
  .next (s.mail src 0x51 false fun s =>
    if reg < 4 || 7 < reg then (s, .refused, none) else (s.modSext fun x => x.extend reg digest, .ok, none))

/-- COUNTERS returns the logs. -/
def execCounters (src : MailSrc) (s : State) : Host.Outcome State Fault Refusal :=
  .next (s.mail src 0x60 false fun s =>
    (s.modSext fun x => { x with returned := some ⟨x.refused, x.discarded, x.unmapped, x.corrected, x.dirtyLog, x.dropped⟩ }, .ok, none))

/-- The OP of a mailbox command (R449). -/
def mailOp : MailCmd → Nat
  | .config _ => 0x10
  | .standby _ => 0x11
  | .lift _ => 0x12
  | .setbudget _ _ => 0x20
  | .reach _ _ => 0x21
  | .reset _ => 0x30
  | .fwupdate _ => 0x40
  | .attest _ _ => 0x50
  | .extend _ _ => 0x51
  | .counters => 0x60

/-- A mailbox command of a source. -/
def execMail (src : MailSrc) (m : MailCmd) (s : State) : Host.Outcome State Fault Refusal :=
  match m with
  | .config a => execConfig src a s
  | .standby l => execStandby src l s
  | .lift p => execLift src p s
  | .setbudget b l => execSetbudget src b l s
  | .reach lo hi => execReach src lo hi s
  | .reset t => execReset src t s
  | .fwupdate img => execFwupdate src img s
  | .attest n b => execAttest src n b s
  | .extend r d => execExtend src r d s
  | .counters => execCounters src s

/-- SIDEBAND_COMMAND (R454): a mailbox command over I3C. -/
def execSidebandCommand (m : MailCmd) (s : State) : Host.Outcome State Fault Refusal := execMail .sideband m s

/-- A host's write of mailbox doubleword 0, which issues the command whose OP it holds; an unknown OP, another bit set, or doublewords 1 to 7
that hold no command of the OP, completes with REFUSED, as R439 has it of the hub's areas (log 106). -/
def State.mailWrite (s : State) (port : Nat) (w : DWord) (c : Option MailCmd) : Host.Outcome State Fault Refusal :=
  match c.filter fun m => w == BitVec.ofNat 64 (mailOp m) with
  | some m => execMail (.port port) m s
  | none => .next (s.mail (.port port) w.toNat false fun s => (s, .refused, none))

/-! ## Resets and boot (R450, R451) -/

def execPackageReset (s : State) : Host.Outcome State Fault Refusal := .next s.packageReset

/-- An image put in the place of the one it updates. -/
def BootImages.put (b : BootImages) (i : FwImage) : BootImages :=
  match i.slot with
  | 0 => { b with sextant := i }
  | 1 => { b with hub := i }
  | 2 => { b with edfen2 := i }
  | 3 => { b with edfen1 := i }

/-- BOOT, once after a package reset: what FWUPDATE staged takes the place of what the ROM finds, and the images are checked in order, each
measured as it is taken. -/
def execBoot (b0 : BootImages) (s : State) : Host.Outcome State Fault Refusal :=
  if s.sext.booted then .next s
  else
    let b := s.sext.staged.foldl BootImages.put b0
    let x0 : Sextant := { s.sext with booted := true, stored := b, staged := [] }
    if !x0.passes b.sextant then
      .next { s with hubUp := false, map2 := false, map1 := false, sext := { x0 with recovery := true, hubHeld := true } }
    else
      let x := x0.extend 0 b.sextant.digest
      let x := if x0.passes b.hub then x.extend 1 b.hub.digest else { x with hubHeld := true }
      let x := if x0.passes b.edfen2 then x.extend 2 b.edfen2.digest else x
      let x := if x0.passes b.edfen1 then x.extend 2 b.edfen1.digest else x
      .next { s with
        hubUp := x0.passes b.hub
        map2 := x0.passes b.edfen2
        map1 := x0.passes b.edfen1
        sext := { x with versions := [b.sextant.version, b.hub.version, b.edfen2.version, b.edfen1.version] } }

/-- HUB_FATAL_ERROR (01_ties R31): reported by the sextant; the hub's cores stop. -/
def execHubFatalError (s : State) : Host.Outcome State Fault Refusal :=
  .next { s with hubUp := false, sext := { s.sext with fatal := true } }

/-! ## Host accesses (R442) -/

/-- Whether a port may reach a context: every context until a REACH names a range (log 21). -/
def Sextant.mayReach (x : Sextant) (port : Nat) (c : BitVec 12) : Bool :=
  match x.reach.find? fun e => e.1 == port with
  | some (_, lo, hi) => lo.toNat ≤ c.toNat && c.toNat ≤ hi.toNat
  | none => true

/-- A write that is discarded and counted. -/
def State.discard (s : State) : State := s.modSext fun x => { x with discarded := x.discarded + 1 }

/-- A context with notify registers. -/
def State.notifiable (s : State) (c : BitVec 12) : Bool := !s.ctxDead c

def execHostNotifyWrite (port ctx idx : Nat) (v : BitVec 64) (s : State) : Host.Outcome State Fault Refusal :=
  let c := BitVec.ofNat 12 ctx
  .next (if ctx < 4096 && idx < 256 && s.sext.mayReach port c && s.notifiable c then s.notifyWrite c idx v
    else s.discard)

def execHostNotifyRead (port ctx idx : Nat) (s : State) : Host.Outcome State Fault Refusal :=
  let c := BitVec.ofNat 12 ctx
  .next (s.modSext fun x => { x with
    hostOut := if ctx < 4096 && idx < 256 && x.mayReach port c && s.notifiable c then some (leBytes 8 (s.notifyReg c idx).toNat) else none })

/-- A local physical address with this package's number (05_memory R151). -/
def State.localAddr (s : State) (a : Nat) : Nat := a % 2 ^ 45 + s.pkgid.toNat * 2 ^ 45

def execHostUnmappedAccess (_ : Nat) (write : Bool) (s : State) : Host.Outcome State Fault Refusal :=
  .next (s.modSext fun x => { x with unmapped := x.unmapped + 1, hostOut := if write then x.hostOut else none })

/-! ## A host's launch records (11_schedulers R357, R359, R360) -/

/-- R357: a header that breaks the table. -/
def hostHeaderBad (r : List Word) : Bool :=
  let w2 := dw r 2
  extraBits (dw r 1) 0x0C00FFFF#32 || extraBits w2 0x7FFF0FFF#32 || (fld w2 16 15 != 0 && (fld w2 16 15 < 2 || 0xFF < fld w2 16 15)) ||
  extraBits (dw r 3) 0xF#32 || 10 < fld (dw r 3) 0 4

/-- R359 for a host record: the first failing check's status. -/
def State.hostCheck (s : State) (port : Nat) (r : List Word) : Option Status :=
  let p := r.drop 4
  let c := (dw r 2).extractLsb' 0 12
  if hostHeaderBad r || payBad p || (payCaddr p).toNat % 4 != 0 then some .refused
  else if (payFoot p).tooBig then some .toobig
  else if !s.sext.mayReach port c || (s.room .hub c).isNone then some .refused
  else if s.ctxDead c then some .torn
  else none

/-- A refused record: logged, and its status written to CADDR where R359 says so, as the grid of no work does it. -/
def State.refuseHost (s : State) (port : Nat) (r : List Word) (st : Status) : State :=
  let p := r.drop 4
  let c := (dw r 2).extractLsb' 0 12
  let s := s.modSext fun x => { x with refused := x.refused ++ [((dw r 1).extractLsb' 0 16 ++ dw r 0, c)] }
  if payCaddr p == 0#54 || (payCaddr p).toNat % 4 != 0 || !s.sext.mayReach port c || s.ctxDead c then s
  else
    let g : Grid := { uid := s.uid, ctx := c, counter := 0, parent := none, prio := 0#2, record := s.uid, caddr := payCaddr p, cmode := true,
                      region := none, depth := 0#4, done := [], swapping := false, swapped := false, lost := false, cstall := false,
                      cdrop := false, code := 0x80000000#32 ||| st.word, prioAt := 0 }
    State.finishGrid 1 g.uid { s with grids := s.grids ++ [g], uid := s.uid + 1 }

/-- A launch record is checked and arrives at the hub keyring; KEYRING_ACCEPT accepts it. -/
def State.postLaunch (s : State) (port : Nat) (rec : List Word) : State :=
  match s.hostCheck port rec with
  | some st => s.refuseHost port rec st
  | none =>
    let p : Push :=
      { key := (dw rec 1).extractLsb' 0 16 ++ dw rec 0, cls := clsLaunch, op := 0#4, prio := (dw rec 1).extractLsb' 26 2, car := false,
        stream := (dw rec 2).extractLsb' 16 15, target := (dw rec 3).extractLsb' 0 24, words := rec.drop 4,
        ctx := (dw rec 2).extractLsb' 0 12, ident := none, attempt := 0, sender := 0#32, origin := some port, parent := none,
        counts := false, job := none, spawn := none }
    match s.arrive .hub p with
    | (_, none) => s.refuseHost port rec .refused
    | (s, some u) =>
      { s with flights := s.flights ++ [{ plainFlight s.uid .hub p with returns := .acceptance, arrived := some u, apos := s.uid }]
               uid := s.uid + 1 }

/-! ## Host requests (R442, R360) -/

/-- A host port's request, and whether it is done: at a frozen page it stalls, and a COMP page is read expanded. A write to a COMP page
expands it first where its entry allows that, and else is discarded, as a host takes no trap (05_memory R160, log 67). -/
def State.hostTry (s : State) (h : HostHeld) : State × Bool :=
  match h.req with
  | .read a n =>
    if s.frozenIn a n then (s, false)
    else
      let bytes := allSome ((List.range n).map fun i => s.hostByte (a + i))
      (s.modSext fun x => { x with hostOut := if s.isFenced a then none else bytes }, true)
  | .write a l =>
    if s.frozenIn a l.length then (s, false)
    else if s.isFenced a then (s.discard, true)
    else match s.compLeaf a l.length with
      | some (c, va, pte) =>
        let attr := pte.extractLsb' 0 17
        if attrExpand attr then (s.startExpand c va ⟨pteFrame pte, 1, attr⟩, false) else (s.discard, true)
      | none => (s.physWrite a l, true)
  | .post r => (s.postLaunch h.port r, true)

/-- A port's requests are performed in their order: one that stalls, or follows one that does, is held. -/
def State.hostRequest (s : State) (h : HostHeld) : State :=
  if s.held.any fun x => x.port == h.port then { s with held := s.held ++ [h] }
  else match s.hostTry h with
    | (s1, true) => s1
    | (s1, false) => { s1 with held := s1.held ++ [h] }

/-- The held requests are tried again. -/
def State.retryHeld (s : State) : State := s.held.foldl State.hostRequest { s with held := [] }

/-- A request after a page moved from one frame to another (05_memory R166). -/
def HostHeld.moved (h : HostHeld) (f0 f1 n : Nat) : HostHeld :=
  let at1 (a : Nat) : Nat := if f0 ≤ a && a < f0 + n then a - f0 + f1 else a
  match h.req with
  | .read a k => { h with req := .read (at1 a) k }
  | .write a l => { h with req := .write (at1 a) l }
  | .post _ => h

/-- HOST_MEMORY_ACCESS through the CXL.mem range, which maps the local physical addresses. -/
def execHostMemoryAccess (port addr size : Nat) (data : Option (List (BitVec 8))) (s : State) : Host.Outcome State Fault Refusal :=
  let a := s.localAddr addr
  .next (s.hostRequest ⟨port, match data with
    | some l => .write a (l.take size)
    | none => .read a size⟩)

/-- HOST_LAUNCH_POST of 64 bytes; any other size is discarded. -/
def execHostLaunchPost (port : Nat) (rec : List (BitVec 32)) (s : State) : Host.Outcome State Fault Refusal :=
  .next (if rec.length != 16 then s.discard else s.hostRequest ⟨port, .post rec⟩)

/-! ## BAR0 (R442, R443, R449) -/

/-- A port's mailbox as it reads it. -/
def Sextant.mailbox (x : Sextant) (port : Nat) : List Byte :=
  (List.range 8).flatMap fun k => leBytes 8 (if k = 0 then assocGet x.box (.port port) 0#64 else assocGet x.words (port, k) 0#64).toNat

/-- R442: a host port's access to an offset of BAR0. SEM and the mailbox are read at any of their bytes and written whole, a register at a
time; a notify register is read and written by 64 bits; any other access is one to an offset that is not listed (log 106). -/
def State.barAccess (s : State) (port off : Nat) (op : BarOp) : Host.Outcome State Fault Refusal :=
  let reg := (off - 0x800000) / 8
  let notify (n : Nat) : Bool := 0x800000 ≤ off && off < 0x1000000 && off % 8 = 0 && n = 8
  let out (l : List Byte) (s : State) : Host.Outcome State Fault Refusal := .next (s.modSext fun x => { x with hostOut := some l })
  match op with
  | .read n =>
    if off + n ≤ 64 then out ((leBytes 64 (Config.freePort s.freeCtr).toNat).take n) { s with freeCtr := s.freeCtr + 1 }
    else if 0x1000 ≤ off && off + n ≤ 0x1004 then out (((leBytes 4 (s.sext.semWord port).toNat).drop (off - 0x1000)).take n) s
    else if 0x2000 ≤ off && off + n ≤ 0x2040 then out (((s.sext.mailbox port).drop (off - 0x2000)).take n) s
    else if notify n then execHostNotifyRead port (reg / 256) (reg % 256) s
    else execHostUnmappedAccess port false s
  | .write l c =>
    let v : DWord := BitVec.ofNat 64 (leNat l)
    let k := (off - 0x2000) / 8
    if off < 64 then
      execHostLaunchPost port (if off = 0 && l.length = 64 then (List.range 16).map fun i => BitVec.ofNat 32 (leNat ((l.drop (4 * i)).take 4)) else []) s
    else if off = 0x1000 && l.length = 4 then (if v.getLsbD 0 then execSemRequest port s else execSemRelease port s)
    else if 0x2000 ≤ off && off < 0x2040 && off % 8 = 0 && l.length = 8 then
      (if k = 0 then s.mailWrite port v c else .next (s.modSext fun x => { x with words := assocSet x.words (port, k) v }))
    else if notify l.length then execHostNotifyWrite port (reg / 256) (reg % 256) v s
    else execHostUnmappedAccess port true s

end Sys2Proof.Machine
end

