-- ==== Sys2Proof/Machine/Hub.lean ====
section
/-! DEFINITION. The hub cores (spec/14_hub R427 to R438): hart accesses to device memory, the custom CSRs, NSET, NGET, SVCPOP and
SVCDONE. -/

namespace Sys2Proof.Machine

/-! ## Harts -/

def State.hart (s : State) (h : Nat) : Hart := assocGet s.harts h Hart.reset
def State.modHart (s : State) (h : Nat) (f : Hart → Hart) : State := { s with harts := assocSet s.harts h (f (s.hart h)) }

def Hart.reg (h : Hart) (r : BitVec 5) : DWord := if r == 0#5 then 0#64 else (h.regs[r.toNat]?).getD 0#64
def Hart.setReg (h : Hart) (r : BitVec 5) (v : DWord) : Hart :=
  if r == 0#5 then h else { h with regs := h.regs.setIfInBounds r.toNat v }

/-- M and HS mode. -/
def Hart.high (h : Hart) : Bool := h.mode = .m || h.mode = .hs

/-- An exception of a hart: recorded, with stval and, for a device access, HFSTAT.REASON; what the RISC-V base does next is not the
spec's (log 7). -/
def State.hartExc (s : State) (h : Nat) (e : HartExc) (stval : DWord) (reason : Option Nat) : State :=
  s.modHart h fun x => { x with exc := some e, stval := stval, hfstat := (reason.map (BitVec.ofNat 4)).getD x.hfstat }

/-- An exception for which the spec gives no stval. -/
def State.hartExcFree (s : State) (h : Nat) (e : HartExc) (reason : Option Nat) : State :=
  { s with freeCtr := s.freeCtr + 1 }.hartExc h e (Config.freeStval s.freeCtr) reason

/-- R436: virtual-instruction in VS and VU mode, illegal-instruction otherwise. -/
def Hart.denied (h : Hart) : HartExc := if h.mode = .vs || h.mode = .vu then .virtual else .illegal

/-- rd takes a value and the hart goes on to its next instruction. -/
def State.hartDone (s : State) (h : Nat) (rd : BitVec 5) (v : DWord) : State :=
  s.modHart h fun x => { x.setReg rd v with pc := x.pc + 4 }

/-- A hub word performed by the hart whose turn it is. -/
def hubIns (body : State → Nat → Hart → State) (s : State) : Host.Outcome State Fault Refusal :=
  match s.curHart with
  | none => .fault .noHart
  | some h => .next (body s h (s.hart h))

/-! ## Device memory (R429, R430) -/

def areaBase : Nat := 0x7FFFFFFFF00000
def hartAperture : Nat := 0x80000000000000

/-- What a hart physical address reaches. -/
inductive HartTarget where
  | phys (a : Nat)
  | pages (l : List Piece)
  /-- Doubleword `k` of a hart's command area. -/
  | area (hart k : Nat)
  deriving DecidableEq, Repr

/-- Why a hart's access does not go on: an exception with its REASON, or a stall. -/
inductive HartStop where
  | exc (e : HartExc) (reason : Option Nat)
  | wait
  deriving DecidableEq, Repr

def accessFault (k : Access) : HartExc := if k = .read then .loadAccess else .storeAccess
def pageFaultExc (k : Access) : HartExc := if k = .read then .loadPage else .storePage

/-- Whether a leaf's permission bits let an access through, locks apart. -/
def permissionOk (k : Access) (attr : BitVec 17) : Bool :=
  match k with
  | .read => attr.getLsbD 2
  | .write => attr.getLsbD 3
  | .atomic => attr.getLsbD 2 && attr.getLsbD 3
  | .fetch => attr.getLsbD 4

/-- R430: one piece of an aperture access. -/
def State.hartPiece (s : State) (c : Ctx) (x : Hart) (k : Access) (va n : Nat) : State × Except HartStop Piece :=
  match s.translate hubTlb c.id va with
  | (s, .fault m) => (s, .error (.exc (pageFaultExc k) (some (if m then 2 else 1))))
  | (s, .leaf l p) =>
    let attr := p.extractLsb' 0 17
    let pa := leafAddr l p va
    let bad (r : Nat) : State × Except HartStop Piece := (s, .error (.exc (accessFault k) (some r)))
    if !permissionOk k attr then bad 3
    else if !permits { c with rkey := c.rkey &&& x.hrkey, wkey := c.wkey &&& x.hwkey } k attr then bad 4
    else if k ≠ .read && attrComp attr && !attrExpand attr then bad 7
    else if s.isFenced pa then bad 6
    else if s.frozenIn pa n then (s, .error .wait)
    else if k ≠ .read && attrComp attr then (s.startExpand c.id va ⟨pa, n, attr⟩, .error .wait)
    else (s, .ok ⟨pa, n, attr⟩)

def State.hartPieces (c : Ctx) (x : Hart) (k : Access) : List (Nat × Nat) → State → State × Except HartStop (List Piece)
  | [], s => (s, .ok [])
  | (a, n) :: l, s =>
    match s.hartPiece c x k a n with
    | (s, .error e) => (s, .error e)
    | (s, .ok p) =>
      match State.hartPieces c x k l s with
      | (s, .error e) => (s, .error e)
      | (s, .ok ps) => (s, .ok (p :: ps))

/-- Where a physical access to a device address is performed now: one that stalled while its page migrated, in the new frame (05_memory
R166). -/
def Hart.physAt (x : Hart) (a : Nat) : Nat :=
  match x.held with
  | some (p, q) => if p == a then q else a
  | none => a

/-- R429: where an access of `n` bytes at a hart physical address goes. A write to a COMP page expands it first, or is refused
(05_memory R160). -/
def State.hartTarget (s : State) (x : Hart) (k : Access) (addr n : Nat) : State × Except HartStop HartTarget :=
  let denied : State × Except HartStop HartTarget := (s, .error (.exc (accessFault k) none))
  if addr + n ≤ 2 ^ 45 then
    if x.mode = .m || (x.mode = .hs && x.hcfg.getLsbD 2) then
      let a := x.physAt (s.localAddr addr)
      if s.frozenIn a n then (s, .error .wait)
      else match if k = .read || k = .fetch then none else s.compLeaf a n with
        | none => (s, .ok (.phys a))
        | some (c, va, pte) =>
          let attr := pte.extractLsb' 0 17
          if attrExpand attr then (s.startExpand c va ⟨pteFrame pte, 1, attr⟩, .error .wait)
          else (s, .error (.exc (accessFault k) (some 7)))
    else denied
  else if areaBase ≤ addr && addr < areaBase + 64 * Config.harts then
    if x.high && n == 8 && addr % 8 == 0 && (k = .read || k = .write) then
      (s, .ok (.area ((addr - areaBase) / 64) ((addr - areaBase) % 64 / 8)))
    else denied
  else if hartAperture ≤ addr && addr + n ≤ hartAperture + 2 ^ 54 then
    match s.ctx? x.hctx with
    | none => (s, .error (.exc (accessFault k) (some 8)))
    | some c =>
      if c.st = .teardown || c.st = .free then (s, .error (.exc (accessFault k) (some 8)))
      else match State.hartPieces c x k (cutPages (n / 2 ^ 18 + 2) (addr - hartAperture) n) s with
        | (s, .error e) => (s, .error e)
        | (s, .ok ps) => (s, .ok (.pages ps))
  else denied

/-- A hart's access finds its target; a physical access that stalls is held, and stays the same access when it is made again. -/
def State.hartReach (s : State) (h : Nat) (k : Access) (addr n : Nat) : State × Except HartStop HartTarget :=
  let x := s.hart h
  match s.hartTarget x k addr n with
  | (s1, .error .wait) =>
    let a := s.localAddr addr
    (if addr + n ≤ 2 ^ 45 then s1.modHart h fun x => { x with held := some (a, x.physAt a) } else s1, .error .wait)
  | (s1, r) => (if x.held.isSome then s1.modHart h fun x => { x with held := none } else s1, r)

/-- The bytes at a target; none for an uncorrectable error. -/
def State.hartBytes (s : State) (t : HartTarget) (n : Nat) : Option (List Byte) :=
  match t with
  | .phys a => allSome ((List.range n).map fun i => s.hostByte (a + i))
  | .pages l => allSome (l.flatMap fun p => (List.range p.len).map fun i => s.pageByte p.attr (replicaAddr 0 p.attr (p.pa + i)))
  | .area h k => some (leBytes 8 (((s.hart h).area[k]?).getD 0#64).toNat)

def State.hartWrite (s : State) (t : HartTarget) (l : List Byte) : State :=
  match t with
  | .phys a => s.physWrite a l
  | .pages ps => State.putPieces none ps l s
  | .area _ _ => s

/-- The device physical address a target begins at. -/
def HartTarget.base : HartTarget → Nat
  | .phys a => a
  | .pages l => (l.head?.map (·.pa)).getD 0
  | .area _ _ => 0

def HartOpAccess (o : HartOp) : Access :=
  match o with
  | .load | .fence _ _ => .read
  | .store => .write
  | _ => .atomic

/-- A FENCE of the RISC-V base. -/
def isFence : HartOp → Bool
  | .fence _ _ => true
  | _ => false

def isAmo (o : HartOp) : Bool := o ≠ .load && o ≠ .store && o ≠ .lr && o ≠ .sc && !isFence o

/-- An atomic's new value on `n` bytes. -/
def amoValue (o : HartOp) (n : Nat) (old data : Nat) : Nat :=
  let so := toSigned (8 * n) old
  let sd := toSigned (8 * n) data
  match o with
  | .amoAdd => (old + data) % 2 ^ (8 * n)
  | .amoAnd => old &&& data
  | .amoOr => old ||| data
  | .amoXor => old ^^^ data
  | .amoMin => if so ≤ sd then old else data
  | .amoMax => if sd ≤ so then old else data
  | .amoMinu => min old data
  | .amoMaxu => max old data
  | _ => data

/-- An access performed at its target. -/
def State.hartPerform (s : State) (a : HartAccess) (t : HartTarget) : State :=
  let h := a.hart
  let rd (s : State) (v : Nat) : State := s.modHart h fun x => x.setReg a.rd (BitVec.ofNat 64 v)
  let data := a.data.toNat % 2 ^ (8 * a.size)
  match a.op with
  | .store => s.hartWrite t (leBytes a.size data)
  | .sc =>
    let ok := (s.hart h).resv == some (t.base, a.size)
    let s := if ok then s.hartWrite t (leBytes a.size data) else s
    (rd s (if ok then 0 else 1)).modHart h fun x => { x with resv := none }
  | o =>
    match s.hartBytes t a.size with
    | none => s.hartExc h (accessFault (HartOpAccess o)) (BitVec.ofNat 64 a.addr) (some 5)
    | some l =>
      let old := leNat l
      let s := if isAmo o then s.hartWrite t (leBytes a.size (amoValue o a.size old data)) else s
      let s := if o = .lr then s.modHart h fun x => { x with resv := some (t.base, a.size) } else s
      rd s old

/-- A hart's access to device memory, but for the command areas; `cmd` is what a store to those does. A FENCE, and the aq and rl of an
atomic, order accesses that this model performs one at a time on memory that every hart sees alike (R431, log 103). -/
def State.hartAccess (s : State) (a : HartAccess) (cmd : State → Nat → Nat → State) : State :=
  let x := s.hart a.hart
  let atomicOp := a.op ≠ .load && a.op ≠ .store
  if isFence a.op then s else
  if Config.harts ≤ a.hart || !s.hubUp || x.exc.isSome || !([1, 2, 4, 8].contains a.size) || (atomicOp && a.size < 4) then s
  else if atomicOp && a.addr % a.size != 0 then s.hartExc a.hart .storeMisaligned (BitVec.ofNat 64 a.addr) none
  else match s.hartReach a.hart (HartOpAccess a.op) a.addr a.size with
    | (s, .error .wait) => s
    | (s, .error (.exc e r)) => s.hartExc a.hart e (BitVec.ofNat 64 a.addr) r
    | (s, .ok (.area h k)) => if a.op = .store then cmd s h k else s.hartPerform a (.area h k)
    | (s, .ok t) => s.hartPerform a t

/-- HART_APERTURE_ACCESS (R430). -/
def execHartApertureAccess (a : HartAccess) (s : State) : Host.Outcome State Fault Refusal :=
  .next (if hartAperture ≤ a.addr && a.addr < hartAperture + 2 ^ 54 then s.hartAccess a fun s _ _ => s else s)

/-! ## Custom CSRs (R428) -/

/-- HUB_CSR_WRITE: HCTX, HRKEY, HWKEY and HCFG; HFSTAT is read-only and keeps its value. -/
def execHubCsrWrite (hart : Nat) (csr : BitVec 12) (v : BitVec 64) (s : State) : Host.Outcome State Fault Refusal :=
  let x := s.hart hart
  if Config.harts ≤ hart || !s.hubUp || x.exc.isSome || csr.toNat < 0x5C0 || 0x5C4 < csr.toNat then .next s
  else if !x.high then .next (s.hartExcFree hart x.denied none)
  else .next (s.modHart hart fun x =>
    match csr.toNat with
    | 0x5C0 => { x with hctx := v.extractLsb' 0 12 }
    | 0x5C1 => { x with hrkey := v }
    | 0x5C2 => { x with hwkey := v }
    | 0x5C3 => { x with hcfg := v.extractLsb' 0 3 }
    | _ => x)

/-- R427, R428: what a hart reads of a control and status register in a mode; none where it has no such register here. -/
def Hart.csr (x : Hart) (hart free : Nat) (csr : BitVec 12) : Option DWord :=
  match csr.toNat with
  | 0x5C0 => some (x.hctx.setWidth 64)
  | 0x5C1 => some x.hrkey
  | 0x5C2 => some x.hwkey
  | 0x5C3 => some (x.hcfg.setWidth 64)
  | 0x5C4 => some (x.hfstat.setWidth 64)
  | 0xF14 => some (BitVec.ofNat 64 hart)
  | 0xC01 => some (Config.freeTime free)
  | _ => none

/-- A hart's read of a control and status register: the custom ones are M and HS mode's, mhartid M mode's, and time every mode's (log 7). -/
def State.csrRead (s : State) (hart : Nat) (csr : BitVec 12) (rd : BitVec 5) : State :=
  let x := s.hart hart
  if Config.harts ≤ hart || !s.hubUp || x.exc.isSome then s
  else match x.csr hart s.freeCtr csr with
    | none => s
    | some v =>
      let s := { s with freeCtr := s.freeCtr + 1 }
      if csr == 0xC01#12 || x.mode = .m || (x.mode = .hs && csr != 0xF14#12) then s.modHart hart (·.setReg rd v)
      else s.hartExcFree hart (if csr == 0xF14#12 then .illegal else x.denied) none

/-! ## NSET and NGET (R437) -/

def notifyIdx (x : DWord) : Nat := (x.extractLsb' 0 8).toNat
def notifyCtx (x : DWord) : BitVec 12 := x.extractLsb' 8 12

/-- Whether a hart may use a notify operand. -/
def Hart.notifyOk (h : Hart) (x : DWord) : Bool :=
  x.extractLsb' 20 44 == 0#44 && (h.high || (h.hcfg.getLsbD 0 && notifyCtx x == h.hctx))

def nsetBody (f : HFmt) (s : State) (h : Nat) (x : Hart) : State :=
  let o := x.reg f.rs1
  if !x.notifyOk o then s.hartExcFree h x.denied none
  else if s.ctxDead (notifyCtx o) then s.hartExcFree h .storeAccess (some 8)
  else (s.notifyWrite (notifyCtx o) (notifyIdx o) (x.reg f.rs2)).hartDone h f.rd (s.notifyReg (notifyCtx o) (notifyIdx o))

def execNset (f : HFmt) (s : State) : Host.Outcome State Fault Refusal := hubIns (nsetBody f) s

def ngetBody (f : HFmt) (s : State) (h : Nat) (x : Hart) : State :=
  let o := x.reg f.rs1
  if !x.notifyOk o then s.hartExcFree h x.denied none
  else if s.ctxDead (notifyCtx o) then s.hartExcFree h .loadAccess (some 8)
  else s.hartDone h f.rd (s.notifyReg (notifyCtx o) (notifyIdx o))

def execNget (f : HFmt) (s : State) : Host.Outcome State Fault Refusal := hubIns (ngetBody f) s

/-! ## SVCPOP (R435, R438) -/

/-- Whether a filter takes a record. -/
def filterTakes (o : DWord) (r : Rec) : Bool :=
  ((r.cls == clsSvc && o.getLsbD 13) || (r.cls == clsFault && o.getLsbD 14)) && (o.getLsbD 12 || r.ctx == o.extractLsb' 0 12) &&
  (!o.getLsbD 15 || r.key.extractLsb' 0 16 == o.extractLsb' 16 16)

/-- The lowest free handle slot. -/
def State.handleSlot (s : State) : Nat := ((List.range 8192).find? fun k => !s.handles.any fun h => h.slot == k).getD 0

/-- A handle's word (R435). -/
def handleWord (slot gen : Nat) : DWord := BitVec.ofNat 64 (slot + gen * 2 ^ 13 + 2 ^ 31)

/-- A handle is free for a record: at most 8,192 are open (log 102). -/
def State.handleFree (s : State) : Bool := s.handles.length < 8192

/-- A record taken by a hart, with its handle. -/
def State.takeService (s : State) (r : Rec) : State × DWord :=
  let k := s.handleSlot
  let g := (assocGet s.gens k 0 + 1) % 2 ^ 18
  let s := (s.dispatch .hub r.uid (.hub k)).taken .hub r.uid
  ({ s with handles := s.handles ++ [⟨k, g, r⟩], gens := assocSet s.gens k g }, handleWord k g)

def svcpopBody (f : HFmt) (s : State) (h : Nat) (x : Hart) : State :=
  let o := x.reg f.rs1
  let buf := (x.reg f.rs2).toNat
  if o.extractLsb' 32 32 != 0#32 || !(x.high || (x.hcfg.getLsbD 1 && !o.getLsbD 12 && o.extractLsb' 0 12 == x.hctx)) then
    s.hartExcFree h x.denied none
  else if buf % 64 != 0 then s.hartExc h .storeMisaligned (BitVec.ofNat 64 buf) none
  else match s.hartReach h .write buf 64 with
    | (s, .error .wait) => s
    | (s, .error (.exc e r)) => s.hartExc h e (BitVec.ofNat 64 buf) r
    | (s, .ok (.area _ _)) => s.hartExc h .storeAccess (BitVec.ofNat 64 buf) none
    | (s, .ok t) =>
      match (s.ring .hub).select fun r =>
          s.handleFree && filterTakes o r && r.accepted && (s.ctx? r.ctx).any fun c => c.st = .live with
      | none => s.hartDone h f.rd 0#64
      | some r =>
        let (s, w) := s.takeService r
        (s.hartWrite t (wordBytes (r.deliver.aged.image 2#2))).hartDone h f.rd w

def execSvcpop (f : HFmt) (s : State) : Host.Outcome State Fault Refusal := hubIns (svcpopBody f) s

/-! ## SVCDONE (R438) -/

/-- The PFAULT of a wave whose fault stays unresolved (05_memory R165): at the slot, or for a header fetch at the point that led to it. -/
def State.pfault (s : State) (i : Issuer) : State :=
  match s.view i with
  | none => s
  | some v =>
    let fetch := v.thr.faultKind == 3#4
    let org := fetch
    s.trap v
      { lanes := if fetch then v.act else lanesOf v.thr.replay v.w.width, cause := .pfault, addr := v.thr.faultAddr.setWidth 64,
        trapaddr := v.thr.faultAddr.extractLsb' 0 32, hdr := if org then v.thr.orgHdr else v.thr.hdr,
        slot := if org then v.thr.orgSlot else v.thr.slot, kind := v.thr.faultKind.toNat }

/-- The reply to a translation fault of a wave, which must still be parked for it. -/
def State.faultReply (s : State) (i : Issuer) (bad : Bool) : State :=
  s.onWave i.wave fun s =>
    match s.view i with
    | none => s
    | some v =>
      if v.thr.st = .parked && v.thr.wait = .pageFault then (if bad then s.pfault i else s.resumeAt i) else s

/-- A job that a FAULT record speaks of. -/
def State.jobOfFault (s : State) (r : Rec) : Option Job :=
  let w := dw r.payload 10
  s.jobs.find? fun j => j.stalled && j.d.ctx == r.ctx && j.d.place == dw r.payload 4 && (faultTag j.d.eng ||| BitVec.ofNat 32 j.d.id) == w

/-- The reply to a translation fault: of an engine job, of a completion address, or of a wave. -/
def State.translationReply (s : State) (r : Rec) (bad : Bool) : State :=
  if dw r.payload 10 != 0#32 then
    match s.jobOfFault r with
    | some j => s.modJob j.k fun x => { x with stalled := false, unresolved := x.unresolved || bad }
    | none => s
  else match r.parent, r.about with
    | some g, _ => s.modGrid g fun x => { x with cstall := false, cdrop := x.cdrop || bad }
    | none, some i => s.faultReply i bad
    | none, none => s

/-- A wave restored after a double fault: it executes the slot that the record names again. A lane that trapped in its handler before the
suspension stopped it executes its slot again too (06_group R226). -/
def State.restoreWave (s : State) (i : Issuer) (r : Rec) : State :=
  s.onWave i.wave fun s =>
    match s.view i with
    | none => s
    | some v =>
      if v.thr.st ≠ .suspended then s
      else
        let slot := fld (dw r.payload 9) 0 4
        let s := s.modThr i fun t => { t with
          st := .ready, wait := .nothing, hdr := entryOf (dw r.payload 6) (dw r.payload 7), slot := slot, redecode := slot != 0 }
        if i.lane.isSome then s.modWave i.wave fun w =>
            { w with thr := { w.thr with st := .parked },
                     lanes := w.lanes.map fun l => { l with own := l.own.map fun t =>
                       if t.st = .suspended then { t with st := .ready, wait := .nothing, redecode := t.slot != 0 } else t } }
          else s

/-- A suspended wave terminated: it is counted as retired with error. A swapped-out one ends with its team's other waves there. -/
def State.terminate (s : State) (i : Issuer) : State :=
  match s.wave? i.wave with
  | some w => if w.thr.st = .suspended then s.endWave w else s
  | none =>
    match s.saved.find? fun v => v.waves.any fun w => w.uid == i.wave && w.thr.st = .suspended with
    | none => s
    | some v =>
      let u := v.team.uid
      -- the team stands among the resident ones while its wave ends; its other waves stay where they were saved
      let s1 := { s with waves := s.waves ++ v.waves.map Wave.unpack, teams := s.teams ++ [v.team], saved := s.saved.filter (·.team.uid != u) }
      let s2 := ((s1.wave? i.wave).map s1.endWave).getD s1
      if !s2.waves.any (·.team == u) then s2
      else
        let out : Saved := { v with waves := (s2.waves.filter (·.team == u)).map Wave.pack, team := (s2.team? u).getD v.team }
        { s2 with waves := s2.waves.filter (·.team != u), teams := s2.teams.filter (·.uid != u), saved := s2.saved ++ [out] }.grantRegx

/-- The effect of a reply on the record of a handle. -/
def State.serviceReply (s : State) (r : Rec) (x : DWord) : State :=
  if r.cls == clsSvc then s.notifyWrite r.ctx (fld (dw r.payload 9) 0 8) x
  else if fld (dw r.payload 2) 0 8 = 6 then s.translationReply r (x == 1#64)
  else match r.about with
    | some i => if x == 0#64 then s.restoreWave i r else s.terminate i
    | none => s

/-- A handle's record has completed, or is discarded. -/
def State.closeHandle (s : State) (k : Handle) : State :=
  { s with handles := s.handles.filter fun y => y.slot != k.slot }.completeRec fun r => r.uid == k.record.uid

def svcdoneBody (f : HFmt) (s : State) (h : Nat) (x : Hart) : State :=
  let o := x.reg f.rs1
  let v := x.reg f.rs2
  let found := s.handles.find? fun k => handleWord k.slot k.gen == o
  if !(x.high || (x.hcfg.getLsbD 1 && found.all fun k => k.record.ctx == x.hctx)) then s.hartExcFree h x.denied none
  else match found with
    | none => s.hartDone h f.rd (BitVec.ofNat 64 Status.refused.code)
    | some k =>
      if s.ctxDead k.record.ctx then (s.closeHandle k).hartDone h f.rd (BitVec.ofNat 64 Status.torn.code)
      else if k.record.cls == clsFault && v.extractLsb' 1 63 != 0#63 then s.hartDone h f.rd (BitVec.ofNat 64 Status.refused.code)
      else ((s.serviceReply k.record v).closeHandle k).hartDone h f.rd (BitVec.ofNat 64 Status.ok.code)

def execSvcdone (f : HFmt) (s : State) : Host.Outcome State Fault Refusal := hubIns (svcdoneBody f) s

end Sys2Proof.Machine
end

