-- ==== Sys2Proof/Machine/Command.lean ====
section
/-! DEFINITION. The hub's command port (spec/14_hub R439 to R441) and page migration (05_memory R166). -/

namespace Sys2Proof.Machine

/-! ## Issue and completion (R439) -/

def HubCmdDw (c : HubCmd) (k : Nat) : DWord := c.dw.getD k 0#64
def cmdOp (c : HubCmd) : Nat := ((HubCmdDw c 0).extractLsb' 0 8).toNat
def cmdCtx (c : HubCmd) : BitVec 12 := (HubCmdDw c 0).extractLsb' 16 12
def cmdReserved (c : HubCmd) : Bool := (HubCmdDw c 0).extractLsb' 28 36 != 0#36

/-- What a command does at its issue: its effect, and its status unless it is still to be earned. -/
abbrev CmdFn := State → HubCmd → State × Option Status

/-- A command accepted from a hart's area. -/
def State.issueCmd (s : State) (c : HubCmd) (f : CmdFn) : State :=
  let r := f s c
  { r.1 with cmds := r.1.cmds ++ [⟨c.hart, c.dw, r.2⟩] }

/-- A command may be issued: the hub runs, the hart exists and has no incomplete command. -/
def State.cmdFree (s : State) (c : HubCmd) : Bool := s.hubUp && c.hart < Config.harts && !s.cmds.any fun x => x.hart == c.hart

/-- The event of a command with a given OP. -/
def State.cmdEvent (s : State) (c : HubCmd) (op : Nat) (f : CmdFn) : Host.Outcome State Fault Refusal :=
  .next (if s.cmdFree c && cmdOp c = op && !cmdReserved c then s.issueCmd c f else s)

/-! ## SHOOT, GWSTART and CLRESET -/

def unitBad (x : DWord) : Bool := x.extractLsb' 0 18 != 0#18

/-- SHOOT: every access made under an old entry has been performed already (log 3). -/
def cmdShoot : CmdFn := fun s c =>
  let lo := HubCmdDw c 1
  let n := HubCmdDw c 2
  if unitBad lo || unitBad n || n == 0#64 then (s, some .refused) else (s.shootDown (cmdCtx c) lo.toNat (lo.toNat + n.toNat), some .ok)

/-- GWSTART: the wave of R410. -/
def cmdGwstart : CmdFn := fun s c =>
  let w1 := HubCmdDw c 1
  let die := (w1.extractLsb' 0 3).toNat
  let gw := (w1.extractLsb' 3 2).toNat
  let regs := 8 * ((w1.extractLsb' 5 2).toNat + 1)
  let core : PipeId := ⟨die, true, gw, 0⟩
  let entry := HubCmdDw c 2
  if w1.extractLsb' 7 1 != 0#1 || w1.extractLsb' 16 48 != 0#48 || entry.extractLsb' 0 2 != 0#2 || entry.extractLsb' 54 10 != 0#10 then
    (s, some .refused)
  else match s.ctx? (cmdCtx c), s.freeSlot core with
    | none, _ => (s, some .torn)
    | some x, slot =>
      if s.ctxDead x.id then (s, some .torn)
      else if !s.running.contains die then (s, some .broken)
      else match slot with
        | none => (s, some .full)
        | some k =>
          if s.poolFree core < regs then (s, some .full)
          else
            let (s, t) := s.fresh
            let (s, u) := s.fresh
            let (s, lu) := s.fresh
            let (s, st) := s.newStream x.id die
            let a := HubCmdDw c 3
            let l := Lane.fresh lu x.tvec 0#5 k
            let l := (l.setReg 0 ⟨a.extractLsb' 0 32, .addr⟩).setReg 1 ⟨a.extractLsb' 32 32, .addr⟩
            let w := Wave.fresh u x.id t die gw 0 regs true [l] (Thread.start (entry.extractLsb' 0 54) (freshWins 0)) st ⟨u, 0, 0⟩
            ({ s with
                teams := s.teams ++ [Team.fresh t x.id die gw]
                waves := s.waves ++ [{ w with depth := 10#4, notifyAt := some (w1.extractLsb' 8 8), age := s.youngest }] }, some .ok)

/-- CLRESET (15_sextant R450). -/
def cmdClreset : CmdFn := fun s c =>
  let w := HubCmdDw c 1
  if (w &&& ~~~0x3F07#64) != 0#64 then (s, some .refused)
  else (s.resetCluster (w.extractLsb' 0 3).toNat (w.extractLsb' 8 6).toNat, some .ok)

/-! ## Context descriptors (R440) -/

/-- Whether an address lies in a die's home range. -/
def homeOk (a : Nat) : Bool := a < 2 ^ 57 && a % 2 ^ 45 / 2 ^ 37 < Config.dies && a % 2 ^ 37 < heapSize

/-- The doublewords of a descriptor. -/
def State.descriptor (s : State) (a : Nat) : List DWord :=
  (List.range 32).map fun i => BitVec.ofNat 64 (s.physNat (s.localAddr a + 8 * i) 8)

def descNrg (d : List DWord) : List Nat := (List.range 8).map fun r => ((d.getD 4 0#64).extractLsb' (8 * r) 8).toNat

/-- A base and size of a spill or save area. -/
def areaBad (b n : DWord) : Bool := b.extractLsb' 0 16 != 0#16 || n.extractLsb' 0 16 != 0#16 || !homeOk b.toNat

def descMalformed (d : List DWord) : Bool :=
  let g (i : Nat) : DWord := d.getD i 0#64
  (g 0).extractLsb' 0 12 != 0#12 || !homeOk (g 0).toNat || (g 3).extractLsb' 0 2 != 0#2 || (g 3).extractLsb' 54 10 != 0#10 ||
  64 < (descNrg d).sum || (g 5).extractLsb' 14 50 != 0#50 || (g 6).extractLsb' 0 11 != 0#11 || !homeOk (g 6).toNat || g 7 != 0#64 ||
  areaBad (g 16) (g 17) || areaBad (g 18) (g 19) || areaBad (g 20) (g 21) || areaBad (g 22) (g 23) ||
  (List.range 8).any fun i => g (24 + i) != 0#64

/-- A descriptor's address and its doublewords, or none where it is malformed. -/
def State.readDescriptor (s : State) (a : DWord) : Option (List DWord) :=
  if a.extractLsb' 0 8 != 0#8 || 2 ^ 45 ≤ a.toNat || !homeOk a.toNat then none
  else let d := s.descriptor a.toNat; if descMalformed d then none else some d

/-- The context that a descriptor gives. -/
def ctxOf (id : BitVec 12) (d : List DWord) : Ctx :=
  let g (i : Nat) : DWord := d.getD i 0#64
  { id := id, st := .free, root := (g 0).extractLsb' 0 57, rkey := g 1, wkey := g 2, tvec := (g 3).extractLsb' 0 54, nrg := descNrg d,
    svcthr := (g 5).extractLsb' 0 8, mlock := (g 5).extractLsb' 8 6, htab := (g 6).extractLsb' 0 57, hset := (d.drop 8).take 8,
    ksp := [(g 17).toNat, (g 19).toNat, (g 21).toNat],
    kspBase := [(g 16).extractLsb' 0 57, (g 18).extractLsb' 0 57, (g 20).extractLsb' 0 57],
    saveBase := (g 22).extractLsb' 0 57, saveSize := (g 23).toNat, decode := 0, notify := [] }

/-! ## Named regions (04_pipeline R146; R441) -/

/-- The clusters on which a context reserves its named regions. -/
def Ctx.resvClusters (c : Ctx) : List (Nat × Nat) :=
  if c.nrg.sum = 0 then []
  else (List.range Config.dies).flatMap fun d => ((List.range Config.clusters).filter fun k => (c.hset.getD d 0#64).getLsbD k).map fun k => (d, k)

/-- Bytes reserved on a cluster. -/
def State.resvSpans (s : State) (d k : Nat) : List (Nat × Nat) :=
  (s.resvs.filter fun r => r.die == d && r.clu == k).map fun r => (r.base, r.size)

def State.teamSpans (s : State) (d k : Nat) : List (Nat × Nat) := (s.clusterTeams d k).map fun t => (t.scrBase, t.scratchSize)

/-- A reservation on one cluster: the lowest bytes that no team holds, or bytes that teams still hold and no other team takes. -/
def State.reserveOn (s : State) (c : Ctx) (d k : Nat) : State :=
  if s.resvs.any fun r => r.ctx == c.id && r.die == d && r.clu == k then s
  else
    let size := 4096 * c.nrg.sum
    let free := (freeSpan size Config.scratch 4096 (s.resvSpans d k ++ s.teamSpans d k)).orElse
      fun _ => freeSpan size Config.scratch 4096 (s.resvSpans d k)
    match free with
    | some a => { s with resvs := s.resvs ++ [⟨c.id, d, k, a, size⟩] }
    | none => s

def State.reserveAll (s : State) (c : Ctx) : State := c.resvClusters.foldl (fun s x => s.reserveOn c x.1 x.2) s

/-- Every reservation of a context is made and free of teams. -/
def State.reserved? (s : State) (c : Ctx) : Bool :=
  c.resvClusters.all fun x => s.resvs.any fun r => r.ctx == c.id && r.die == x.1 && r.clu == x.2 &&
    (s.teamSpans x.1 x.2).all fun t => t.1 + t.2 ≤ r.base || r.base + r.size ≤ t.1

/-! ## Context commands (R441) -/

def State.setCtx (s : State) (c : BitVec 12) (st : CtxState) : State := s.modCtx c fun x => { x with st := st }

/-- CTXNEW: the context stands FREE until its reservations are made. -/
def cmdCtxnew : CmdFn := fun s c =>
  let id := cmdCtx c
  if id == 0#12 || (s.ctx? id).isSome then (s, some .refused)
  else match s.readDescriptor (HubCmdDw c 1) with
    | none => (s, some .refused)
    | some d =>
      let x := ctxOf id d
      ({ s with ctxs := s.ctxs ++ [x], nrgs := s.nrgs.filter fun e => e.1.1 != id.toNat }.reserveAll x, none)

/-- A key set that loses a lock. -/
def narrows (old new : DWord) : Bool := old &&& ~~~new != 0#64

/-- RUN cleared in every window of a context. -/
def State.clearRuns (s : State) (id : BitVec 12) : State :=
  let wave (w : Wave) : Wave :=
    if w.ctx == id then
      { w with thr := w.thr.shoot 0 (2 ^ 54), lanes := w.lanes.map fun l => { l with own := l.own.map (Thread.shoot 0 (2 ^ 54)) } }
    else w
  { s with waves := s.waves.map wave, saved := s.saved.map fun v => { v with waves := v.waves.map wave } }

/-- A bit of a field that a mask names (bit `i`) is malformed (R440); bit 7 names the four areas. -/
def fieldMalformed (d : List DWord) (i : Nat) : Bool :=
  let g (i : Nat) : DWord := d.getD i 0#64
  match i with
  | 0 => (g 0).extractLsb' 0 12 != 0#12 || !homeOk (g 0).toNat
  | 3 => (g 3).extractLsb' 0 2 != 0#2 || (g 3).extractLsb' 54 10 != 0#10
  | 4 | 5 => (g 5).extractLsb' 14 50 != 0#50
  | 6 => (g 6).extractLsb' 0 11 != 0#11 || !homeOk (g 6).toNat
  | 7 => areaBad (g 16) (g 17) || areaBad (g 18) (g 19) || areaBad (g 20) (g 21) || areaBad (g 22) (g 23)
  | _ => false

/-- A descriptor that a mask's fields can be taken from: at a proper address, and no field that the mask names malformed. -/
def State.readFields (s : State) (a m : DWord) : Option (List DWord) :=
  if a.extractLsb' 0 8 != 0#8 || 2 ^ 45 ≤ a.toNat || !homeOk a.toNat then none
  else
    let d := s.descriptor a.toNat
    if (List.range 8).any fun i => m.getLsbD i && fieldMalformed d i then none else some d

/-- CTXSET: the fields come into force, or the command is refused, when it completes (log 101). -/
def cmdCtxset : CmdFn := fun s _ => (s, none)

/-- What a CTXSET does: the masked fields, and no other is read. -/
def State.setFields (s : State) (c : HubCmd) : State × Status :=
  let id := cmdCtx c
  let m := HubCmdDw c 2
  match s.ctx? id with
  | none => (s, .torn)
  | some x =>
    if x.st = .teardown || x.st = .free then (s, .torn)
    else if m.extractLsb' 8 56 != 0#56 || (id == 0#12 && (m.getLsbD 1 || m.getLsbD 2)) then (s, .refused)
    else match s.readFields (HubCmdDw c 1) m with
      | none => (s, .refused)
      | some d =>
        let y := ctxOf id d
        let shrinks := y.kspBase != x.kspBase || y.saveBase != x.saveBase || y.saveSize < x.saveSize ||
          (List.zip y.ksp x.ksp).any fun p => p.1 < p.2
        if m.getLsbD 7 && shrinks then (s, .refused)
        else
          let b (i : Nat) : Bool := m.getLsbD i
          let s := s.modCtx id fun x =>
            { x with
              root := if b 0 then y.root else x.root, rkey := if b 1 then y.rkey else x.rkey, wkey := if b 2 then y.wkey else x.wkey,
              tvec := if b 3 then y.tvec else x.tvec, svcthr := if b 4 then y.svcthr else x.svcthr,
              mlock := if b 5 then y.mlock else x.mlock, htab := if b 6 then y.htab else x.htab,
              ksp := if b 7 then y.ksp else x.ksp, saveSize := if b 7 then y.saveSize else x.saveSize }
          let s := if b 0 then s.shootDown id 0 spillBase else s
          let s := if (b 1 && narrows x.rkey y.rkey) || (b 2 && narrows x.wkey y.wkey) then s.clearRuns id else s
          (if b 4 then s.testSwaps id else s, .ok)

/-- R253: the records of a context move to its spill areas. -/
def State.spillCtx (s : State) (id : BitVec 12) : State :=
  { s with keyrings := s.keyrings.map fun e => (e.1, { e.2 with recs := e.2.recs.map fun r =>
      if r.ctx == id && !r.dispatched then { r with spilled := true } else r }) }

def cmdCtxsusp : CmdFn := fun s c =>
  match s.ctx? (cmdCtx c) with
  | some x => if x.st = .live then ((s.setCtx x.id .suspended).spillCtx x.id, none) else (s, some .refused)
  | none => (s, some .refused)

/-- Whether a wave's threads still run a clause. -/
def Wave.issuing (w : Wave) : Bool :=
  let run (t : Thread) : Bool := t.st = .owning || t.ending
  let owns := w.lanes.filterMap (·.own)
  if owns = [] then run w.thr else owns.any run

/-- R113: the most bytes a wave's save record takes. -/
def Wave.saveBound (w : Wave) : Nat :=
  let q := w.bregs + w.xregs
  1024 + (q + 3) / 4 + w.width * (4 * q + (q + 1) / 2 + 1280)

/-- What the save area must hold: the waves, tiles, state regions and named regions (log 28). -/
def State.saveNeed (s : State) (c : Ctx) : Nat :=
  ((s.waves.filter (·.ctx == c.id)).map Wave.saveBound).sum +
  ((s.teams.filter fun t => t.ctx == c.id && !t.gone).map fun t => 65536 * t.tiles + 1024 * t.stKiB).sum +
  4096 * c.nrg.sum * c.resvClusters.length

/-- CTXSWAP: the context stops, and its teams leave one by one. -/
def cmdCtxswap : CmdFn := fun s c =>
  match s.ctx? (cmdCtx c) with
  | some x =>
    if x.st ≠ .live && x.st ≠ .suspended then (s, some .refused)
    else if x.saveSize < s.saveNeed x then (s, some .full)
    else ((s.setCtx x.id .suspended).spillCtx x.id, none)
  | none => (s, some .refused)

/-- CTXRES: a suspended context is LIVE at once; a swapped one has its reservations made again first. -/
def cmdCtxres : CmdFn := fun s c =>
  match s.ctx? (cmdCtx c) with
  | some x =>
    if x.st = .suspended then (s.setCtx x.id .live, some .ok)
    else if x.st = .swapped then (s.reserveAll x, none)
    else (s, some .refused)
  | none => (s, some .refused)

/-- CTXTEAR: undispatched records and unplaced or swapped-out teams go at once; grids in status mode owe TORN. -/
def cmdCtxtear : CmdFn := fun s c =>
  let id := cmdCtx c
  match s.ctx? id with
  | none => (s, some .refused)
  | some x =>
    if id == 0#12 || x.st = .teardown || x.st = .free then (s, some .refused)
    else
      let s := s.setCtx id .teardown
      -- an accepted LAUNCH record in status mode that is discarded still owes its word
      let owed := (s.keyrings.flatMap (·.2.recs) ++ s.replays.flatMap fun r => r.recs.map (·.2)).filter fun r =>
        r.ctx == id && r.cls == clsLaunch && r.accepted && r.grid.isNone && (dw r.payload 7).getLsbD 8
      let more := owed.mapIdx fun i r => r.newGrid (s.uid + i)
      ({ s with
          uid := s.uid + owed.length
          keyrings := s.keyrings.map fun e => (e.1, { e.2 with recs := e.2.recs.filter fun r => r.ctx != id || r.dispatched })
          scheds := s.scheds.map fun e => (e.1, { e.2 with ready := e.2.ready.filter fun x => x.ctx != id })
          saved := s.saved.filter fun v => v.team.ctx != id
          replays := s.replays.map fun r =>
            { r with recs := r.recs.filter fun x => x.2.ctx != id, entries := r.entries.filter fun e => e.ctx != id }
          grids := (s.grids ++ more).map fun (g : Grid) => if g.ctx == id then
            { g with counter := 0, parent := none, caddr := if g.cmode then g.caddr else 0#54, code := 0x80000000#32 ||| Status.torn.word,
                     swapping := false, swapped := false } else g }, none)

/-! ## Commands that take time -/

/-- CTXSWAP's progress: each team that can leave does; with the last, the named regions are kept and their bytes freed. -/
def State.swapCtx (s : State) (id : BitVec 12) : State × Option Status :=
  let ready := (s.teams.filter fun t => t.ctx == id && !t.gone).filter fun t => s.teamQuiet t && (s.teamWaves t.uid).all Wave.swappable
  let s := ready.foldl (fun s t => s.swapTeam t true) s
  if (s.waves.any fun w => w.ctx == id) || (s.jobs.any fun j => j.d.ctx == id) then (s, none)
  else ({ s.setCtx id .swapped with resvs := s.resvs.filter fun r => r.ctx != id }, some .ok)

/-- CTXRES of a swapped context: LIVE with its reservations; its teams re-enter the ready queues. -/
def State.resumeCtx (s : State) (c : Ctx) : State × Option Status :=
  if c.st ≠ .swapped then (s, some .refused)
  else if !s.reserved? c then (s.reserveAll c, none)
  else
    let s := s.setCtx c.id .live
    let back := s.saved.filter fun v => v.team.ctx == c.id && v.ofCtx
    let s := { s with saved := s.saved.map fun (v : Saved) => if v.team.ctx == c.id then { v with ofCtx := false } else v }
    (back.foldl State.readmit s, some .ok)

/-- A grid of a context in teardown writes what it owes; an update that cannot be made is dropped. -/
def State.tearGrid (s : State) (g : Grid) : State :=
  let s := State.finishGrid 1 g.uid s
  match s.grid? g.uid with
  | none => s
  | some x => if x.cstall then State.finishGrid 1 g.uid (s.modGrid g.uid fun y => { y with cdrop := true }) else s

/-- CTXTEAR's progress: waves end at a clause boundary or parked; when none is left and every job has ended, all is freed. -/
def State.tearCtx (s : State) (id : BitVec 12) : State × Option Status :=
  let s := (s.waves.filter fun w => w.ctx == id && !w.issuing).foldl (fun (s : State) (w : Wave) => s.endWave w) s
  if (s.waves.any fun w => w.ctx == id) || (s.jobs.any fun j => j.d.ctx == id) then (s, none)
  else
    let s := (s.grids.filter (·.ctx == id)).foldl State.tearGrid s
    if s.grids.any (·.ctx == id) then (s, none)
    else
      ({ s with
          ctxs := s.ctxs.filter fun x => x.id != id
          teams := s.teams.filter fun t => t.ctx != id
          keyrings := s.keyrings.map fun e => (e.1, { e.2 with recs := e.2.recs.filter fun r => r.ctx != id || !r.dispatched || r.taker ≠ .scheduler })
          resvs := s.resvs.filter fun r => r.ctx != id
          nrgs := s.nrgs.filter fun e => e.1.1 != id.toNat
          tlb := s.tlb.filter fun e => e.ctx != id
          icache := s.icache.filter fun l => l.ctx != id }, some .ok)

/-- The status that a command in progress has earned, with what it does meanwhile. -/
def State.cmdProgress (s : State) (c : Cmd) : State × Option Status :=
  let x : HubCmd := ⟨c.hart, c.dw⟩
  let id := cmdCtx x
  match c.status, cmdOp x with
  | some st, _ => (s, some st)
  | none, 3 =>
    match s.ctx? id with
    | some y => if s.reserved? y then (s.setCtx id .live, some .ok) else (s.reserveAll y, none)
    | none => (s, some .refused)
  | none, 4 =>
    let r := s.setFields x
    (r.1, some r.2)
  | none, 5 => if s.waves.any fun w => w.ctx == id && w.issuing then (s, none) else (s, some .ok)
  | none, 6 => s.swapCtx id
  | none, 7 =>
    match s.ctx? id with
    | some y => s.resumeCtx y
    | none => (s, some .refused)
  | none, 8 => s.tearCtx id
  | none, _ => (s, none)

/-- HUB_COMMAND_COMPLETE: the status goes to notify register N of context 0x000, as NSET writes it. -/
def execHubCommandComplete (hart : Nat) (s : State) : Host.Outcome State Fault Refusal :=
  match s.cmds.find? fun c => c.hart == hart with
  | none => .next s
  | some c =>
    match s.cmdProgress c with
    | (s, none) => .next s
    | (s, some st) =>
      let n := ((c.dw.getD 0 0#64).extractLsb' 8 8).toNat
      .next ({ s with cmds := s.cmds.filter fun x => x.hart != hart }.notifyWrite 0#12 n (BitVec.ofNat 64 st.code))

/-! ## Migration (05_memory R166) -/

/-- The cells of a range moved to another base, over cleared bytes. -/
def copyCells (m : List Host.Cell) (src dst n : Nat) : List Host.Cell :=
  let clear := m.filter fun c => !(dst ≤ c.1 && c.1 < dst + n)
  (m.filter fun c => src ≤ c.1 && c.1 < src + n).foldl (fun m c => memPut m (c.1 - src + dst) c.2) clear

/-- A part of F0, from offset `o`, copied to F1 with its uncorrectable bytes. -/
def State.copyPart (s : State) (m : Migration) (o n : Nat) : State :=
  let src := m.f0.toNat + o
  let dst := m.f1.toNat + o
  { s with
    mem := copyCells s.mem src dst n
    l2 := s.l2.filter fun e => !(dst ≤ 128 * e.line && 128 * e.line < dst + n)
    bad := (s.bad.filter fun a => !(dst ≤ a && a < dst + n)) ++ (s.bad.filter fun a => src ≤ a && a < src + n).map fun a => a - src + dst }

/-- Lines of F0 copied to F1. -/
def State.copyLines (s : State) (m : Migration) : State := m.marked.foldl (fun s l => s.copyPart m (l * 128 - m.f0.toNat) 128) s

def State.modMigration (s : State) (k : Nat) (f : Migration → Migration) : State :=
  { s with migrations := s.migrations.map fun m => if m.k == k then f m else m }

/-- A frame that a page of a level can move to. -/
def State.frameOk (s : State) (a level : Nat) : Bool :=
  a % pageSize level == 0 && a < 2 ^ 57 && pkgOf a == s.pkgid && a % 2 ^ 45 / 2 ^ 37 < Config.dies && a % 2 ^ 37 + pageSize level ≤ heapSize

/-- MIGRATE: round 1 copies every line; what is written from then on is marked. -/
def cmdMigrate : CmdFn := fun s c =>
  let id := cmdCtx c
  let va := (HubCmdDw c 1).toNat
  let f1 := (HubCmdDw c 2).toNat
  match s.ctx? id with
  | none => (s, some .refused)
  | some x =>
    if 2 ^ 54 ≤ va then (s, some .refused)
    else match s.walk x va with
      | .fault _ => (s, some .refused)
      | .leaf l p =>
        let f0 := pteFrame p
        let n := pageSize l
        if attrRepl (p.extractLsb' 0 17) || !s.frameOk f1 l || (f0 < f1 + n && f1 < f0 + n) ||
            s.migrations.any (fun m => m.f0.toNat < f0 + n && f0 < m.f0.toNat + m.size) then (s, some .refused)
        else
          let m : Migration := { k := s.uid, ctx := id, va := BitVec.ofNat 54 va, level := l, f0 := BitVec.ofNat 57 f0,
                                 f1 := BitVec.ofNat 57 f1, size := n, marked := [], round := 1, frozen := false, hart := c.hart }
          ({ s with uid := s.uid + 1, migrations := s.migrations ++ [m] }.copyPart m 0 n, none)

/-- MIGRATION_ROUND_END: with 64 or fewer lines marked, or after round 8, the page freezes; else the marked lines are copied in the
next round. -/
def execMigrationRoundEnd (k : Nat) (s : State) : Host.Outcome State Fault Refusal :=
  match s.migrations.find? (·.k == k) with
  | none => .next s
  | some m =>
    if m.frozen then .next s
    else if m.marked.length ≤ 64 || 8 ≤ m.round then .next (s.modMigration k fun x => { x with frozen := true })
    else .next ((s.copyLines m).modMigration k fun x => { x with marked := [], round := x.round + 1 })

/-- Step 5 of R166: physical accesses that stalled at a page are performed in its new frame. -/
def State.moveHeld (s : State) (f0 f1 n : Nat) : State :=
  let hart (x : Hart) : Hart :=
    { x with held := x.held.map fun e => if f0 ≤ e.2 && e.2 < f0 + n then (e.1, e.2 - f0 + f1) else e }
  { s with held := s.held.map fun h => h.moved f0 f1 n, harts := s.harts.map fun e => (e.1, hart e.2) }

/-- MIGRATION_SWITCH: lines of the page that L1s hold dirty are written back, the remaining lines are copied, the entry names F1 and a
shoot-down follows. -/
def execMigrationSwitch (k : Nat) (s : State) : Host.Outcome State Fault Refusal :=
  match s.migrations.find? (·.k == k) with
  | none => .next s
  | some m0 =>
    if !m0.frozen then .next s
    else
      let inside (l : L1Line) : Bool := m0.f0.toNat ≤ l.line * 128 && l.line * 128 < m0.f0.toNat + m0.size
      let s := (s.l1.filter inside).foldl State.writeBack s
      let s := { s with l1 := s.l1.filter fun (l : L1Line) => !inside l }
      let m := (s.migrations.find? (·.k == k)).getD m0
      let s := { s.copyLines m with migrations := s.migrations.filter (·.k != k) }
      let s := { s with cmds := s.cmds.map fun (c : Cmd) => if c.hart == m.hart && c.status.isNone then { c with status := some .ok } else c }
      let s := s.moveHeld m.f0.toNat m.f1.toNat m.size
      match (s.ctx? m.ctx).bind fun c => leafEntryFrom s.mem m.va.toNat c.root.toNat 3 with
      | none => .next s
      | some a =>
        let pte : DWord := BitVec.ofNat 64 (s.physNat a 8)
        let new := BitVec.ofNat 64 (pte.toNat - pteFrame pte + m.f1.toNat)
        let va := m.va.toNat / m.size * m.size
        .next ((s.physWrite a (leBytes 8 new.toNat)).shootDown m.ctx va (va + m.size))

/-! ## The command events -/

/-- The command of an OP; an unknown one, or a reserved bit, is REFUSED. -/
def cmdFor (c : HubCmd) : CmdFn :=
  if cmdReserved c then fun s _ => (s, some .refused)
  else match cmdOp c with
    | 1 => cmdShoot
    | 2 => cmdGwstart
    | 3 => cmdCtxnew
    | 4 => cmdCtxset
    | 5 => cmdCtxsusp
    | 6 => cmdCtxswap
    | 7 => cmdCtxres
    | 8 => cmdCtxtear
    | 9 => cmdMigrate
    | 10 => cmdClreset
    | _ => fun s _ => (s, some .refused)

def execShoot (c : HubCmd) (s : State) : Host.Outcome State Fault Refusal := s.cmdEvent c 1 cmdShoot
def execGwstart (c : HubCmd) (s : State) : Host.Outcome State Fault Refusal := s.cmdEvent c 2 cmdGwstart
def execCtxnew (c : HubCmd) (s : State) : Host.Outcome State Fault Refusal := s.cmdEvent c 3 cmdCtxnew
def execCtxset (c : HubCmd) (s : State) : Host.Outcome State Fault Refusal := s.cmdEvent c 4 cmdCtxset
def execCtxsusp (c : HubCmd) (s : State) : Host.Outcome State Fault Refusal := s.cmdEvent c 5 cmdCtxsusp
def execCtxswap (c : HubCmd) (s : State) : Host.Outcome State Fault Refusal := s.cmdEvent c 6 cmdCtxswap
def execCtxres (c : HubCmd) (s : State) : Host.Outcome State Fault Refusal := s.cmdEvent c 7 cmdCtxres
def execCtxtear (c : HubCmd) (s : State) : Host.Outcome State Fault Refusal := s.cmdEvent c 8 cmdCtxtear
def execMigrate (c : HubCmd) (s : State) : Host.Outcome State Fault Refusal := s.cmdEvent c 9 cmdMigrate
def execClreset (c : HubCmd) (s : State) : Host.Outcome State Fault Refusal := s.cmdEvent c 10 cmdClreset

/-- HUB_COMMAND_UNKNOWN: an OP that is no command, or a reserved bit set. -/
def execHubCommandUnknown (c : HubCmd) (s : State) : Host.Outcome State Fault Refusal :=
  .next (if s.cmdFree c && (cmdReserved c || cmdOp c = 0 || 10 < cmdOp c) then s.issueCmd c fun s _ => (s, some .refused) else s)

/-- A store to a command area: doublewords 1 to 7 stand there; doubleword 0 issues the command, or stalls behind an incomplete one. -/
def State.areaStore (a : HartAccess) (s : State) (h k : Nat) : State :=
  let set (s : State) : State := s.modHart h fun x => { x with area := x.area.setIfInBounds k a.data }
  if k != 0 then set s
  else
    let s1 := set s
    let c : HubCmd := ⟨h, (s1.hart h).area.toList⟩
    if s.cmdFree c then s1.issueCmd c (cmdFor c) else s

/-- HART_PHYS_ACCESS: the physical window, the command areas, and addresses outside the map (R429). -/
def execHartPhysAccess (a : HartAccess) (s : State) : Host.Outcome State Fault Refusal :=
  .next (if hartAperture ≤ a.addr && a.addr < hartAperture + 2 ^ 54 then s else s.hartAccess a (State.areaStore a))

end Sys2Proof.Machine
end

