-- ==== Sys2Proof/Machine/Pipeline.lean ====
section
/-! DEFINITION. How pipelines issue: instruction fetch and caches, clause headers, the selection of the next clause, reservations of
fused groups (spec/02_encoding R41 to R47, 04_pipeline R99 to R105, 06_group R215, R216), power gating (04_pipeline R147, R148), and
what a hart fetches (14_hub R429). -/

namespace Sys2Proof.Machine

/-! ## Clause headers (R42) -/

/-- A decoded header. -/
structure Header where
  count : Nat
  allow : BitVec 4
  wait : BitVec 8
  yieldBit : Bool
  deriving DecidableEq, Repr

/-- R42: COUNT 0 or a reserved bit is no header. -/
def decodeHeader (w : Word) : Option Header :=
  if w.extractLsb' 28 4 == 0#4 || w.extractLsb' 0 15 != 0#15 then none
  else some { count := (w.extractLsb' 28 4).toNat, allow := w.extractLsb' 24 4, wait := w.extractLsb' 16 8, yieldBit := w.getLsbD 15 }

/-! ## Instruction caches (R99, R105, R215) -/

/-- The pipeline through which a party fetches: lane 0's, or a lane's own. -/
def View.fetchPipe (v : View) : PipeId := v.w.pipeOf (v.lane.getD 0)

/-- The pipelines a party issues on. -/
def View.pipes (v : View) : List PipeId :=
  match v.lane with
  | none => v.w.pipes
  | some i => [v.w.pipeOf i]

/-- The line of an address as a party's instruction cache holds it. -/
def State.codeLineOf (s : State) (v : View) (a : BitVec 54) : Option (List Word) :=
  (s.icache.find? fun l => l.pipe = v.fetchPipe && l.ctx == v.w.ctx && l.line.toNat == a.toNat / 64).map (·.words)

/-- A word of code as a party's instruction cache holds it. The words of a clause that lies in one line come with its header (R105). -/
def State.codeWord (s : State) (v : View) (a : BitVec 54) : Option Word :=
  match (if v.thr.slot != 0 && !v.thr.redecode then v.thr.line else none).filter fun l => l.1.toNat == a.toNat / 64 with
  | some l => l.2[a.toNat % 64 / 4]?
  | none => (s.codeLineOf v a).bind fun l => l[a.toNat % 64 / 4]?

/-- The address of the word `k` of the clause at a thread's header. -/
def Thread.wordAddr (t : Thread) (k : Nat) : BitVec 54 := t.hdr + BitVec.ofNat 54 (4 * k)

/-- R53: the number of literal words that follow an instruction word. -/
def litCount (w : Word) : Nat := ((decodeWord w [0#32, 0#32]).map fun i => (literalsOf i).length).getD 0

/-- Slots of the literal words of the instruction at a thread's slot, as far as its header's count reaches. -/
def Thread.litSlots (t : Thread) (w : Word) : List Nat := ((List.range (litCount w)).map (t.slot + 1 + ·)).filter (· ≤ t.count)

/-- The words of code that a party needs next: its header, or the words of its slot. -/
def State.codeNeeds (s : State) (v : View) : List (BitVec 54) :=
  if v.thr.slot = 0 then [v.thr.hdr]
  else (if v.thr.redecode then [v.thr.hdr] else []) ++
    (if v.thr.st = .owning then
      v.thr.wordAddr v.thr.slot :: (match s.codeWord v (v.thr.wordAddr v.thr.slot) with
        | some w => (v.thr.litSlots w).map v.thr.wordAddr
        | none => [])
     else [])

/-- The first of them that the instruction cache does not hold. -/
def State.codeMissing (s : State) (v : View) : Option (BitVec 54) := (s.codeNeeds v).find? fun a => (s.codeWord v a).isNone

/-- R41: a trap of a fetch, at the instruction that led to the clause. -/
def State.fetchTrap (s : State) (v : View) (c : Cause) : State :=
  s.trap v { lanes := v.act, cause := c, addr := v.thr.hdr.setWidth 64, trapaddr := v.thr.hdr.extractLsb' 0 32, hdr := v.thr.orgHdr,
             slot := v.thr.orgSlot, kind := accessCode .fetch }

/-- R41, R164: a fetch whose page is missing parks the party; the record names the header, and the point that led to it. -/
def State.fetchFault (s : State) (v : View) (malformed : Bool) : State :=
  let v1 : View := { v with thr := { v.thr with hdr := v.thr.orgHdr, slot := v.thr.orgSlot } }
  let s := s.postPageFault v1 v.thr.hdr malformed (accessCode .fetch) v.act
  let s := v.act.foldl (fun s i => s.modLane v.w.uid i fun l => { l with traplanes := v.mask v.act }) s
  s.modThr v.iss fun t => { t with st := .parked, wait := .pageFault, faultAddr := v.thr.hdr, faultKind := BitVec.ofNat 4 (accessCode .fetch) }

/-- A 64-byte line of code in memory. -/
def State.codeLine (s : State) (attr : BitVec 17) (pa : Nat) : Option (List Word) :=
  (allSome ((List.range 64).map fun i => s.pageByte attr (pa / 64 * 64 + i))).map fun l => leWords l 16

/-- A line joins its pipeline's instruction cache; a full one lets a line go (log 4). -/
def State.fillCode (s : State) (l : ILine) : State :=
  let own := s.icache.filter fun x => x.pipe = l.pipe
  let s := if own.length < Config.codeLines then s
    else match own[(Config.freeVictim s.freeCtr).toNat % own.length]? with
      | some v => { s with icache := s.icache.filter (fun x => !(x.pipe = v.pipe && x.ctx == v.ctx && x.line == v.line)),
                           freeCtr := s.freeCtr + 1 }
      | none => s
  { s with icache := s.icache ++ [l] }

/-- The line of an address brought into a party's instruction cache, or what stops it: no code lies in the spill range (R150), nor in the
scratchpad aperture (log 86). -/
def State.fetchLine (s : State) (v : View) (a : BitVec 54) : State :=
  match s.ctx? v.w.ctx with
  | none => s
  | some c =>
    if spillBase ≤ a.toNat then s.fetchTrap v .prot else
    match s.translate v.w.die v.w.ctx a.toNat with
    | (s, .fault m) => s.fetchFault v m
    | (s, .leaf l p) =>
      let attr := p.extractLsb' 0 17
      let pa := replicaAddr v.w.die attr (leafAddr l p a.toNat)
      if !permits c .fetch attr then s.fetchTrap v .prot
      else if s.isFenced pa then s.fetchTrap v .data
      else if s.frozenIn (pa / 64 * 64) 64 then s
      else match s.codeLine attr pa with
        | none => s.fetchTrap v .data
        | some ws => s.fillCode ⟨v.fetchPipe, v.w.ctx, BitVec.ofNat 48 (a.toNat / 64), ws⟩

/-- HEADER_FETCH_COMPLETE (R105): the line that a ready or stalled party misses arrives. -/
def execHeaderFetchComplete (i : Issuer) (s : State) : Host.Outcome State Fault Refusal :=
  match s.view i with
  | none => .next s
  | some v =>
    if !s.running.contains v.w.die || v.thr.ending || (v.thr.st ≠ .ready && v.thr.st ≠ .owning) then .next s
    else match s.codeMissing v with
      | some a => .next (s.fetchLine v a)
      | none => .next s

/-! ## Parties of a pipeline -/

def Wave.covers (w : Wave) (p : PipeId) : Bool :=
  w.die == p.die && w.gw == p.gw && w.clu == p.clu && w.base ≤ p.pipe && p.pipe < w.base + w.width

/-- The parties with a slot on a pipeline: attached waves, and the pipeline's lanes of detached ones. -/
def State.partiesOn (s : State) (p : PipeId) : List View :=
  (s.waves.filter (·.covers p)).filterMap fun w => s.view ⟨w.uid, if w.detach then some (p.pipe - w.base) else none⟩

/-- The party's slot number on a pipeline of its wave. -/
def View.slotOn (v : View) (p : PipeId) : Nat := ((v.w.lanes[p.pipe - v.w.base]?).map (·.slotNo.toNat)).getD 0

/-- A fused group, attached. -/
def View.fused (v : View) : Bool := v.lane.isNone && 1 < v.w.width

/-- No clause owns the pipeline, it is not gated, no banking switch holds it, and its die's cores run. -/
def State.pipeOpen (s : State) (p : PipeId) : Bool :=
  s.running.contains p.die && (s.pipe p).gate = .off && !(s.pipe p).switching && (p.gw || (s.cluster p.die p.clu).gate = .off) &&
  (s.partiesOn p).all fun v => v.thr.st ≠ .owning

/-- R104: what a parked party awaits has occurred. The waits not named here end by events of their own. -/
def State.waitHolds (s : State) (v : View) : Bool :=
  match v.thr.wait with
  | .ports l => (State.popAll v.w l s).isSome
  | .records l => (State.popRecs v.w l s).isSome
  | .wfm l => l.head?.any fun e => wfmMask s v e.2 != 0#32
  | .barWt b p => phasePassed (s.barrier v b).phase (BitVec.ofNat 31 p)
  | .ring r n => (s.team? v.w.team).any fun t => (ringWait t (BitVec.ofNat 32 r) (BitVec.ofNat 32 n)).isSome
  | .copyCount c x => (s.team? v.w.team).any fun t => t.ccAt c ≤ x
  | .drained _ => s.queueEmpty v.w
  | .counter va => match s.wordOf v.w.ctx va.toNat with | none => true | some w => w == 0#32
  | .blockQueue => ((s.ring (.die v.w.die)).select (queuedBlock v.w)).isSome
  | _ => false

/-- A READY party (R100). -/
def View.stirs (v : View) : Bool := v.thr.st = .ready && v.w.thr.st ≠ .suspended

/-- R16, R380: the party may issue: its context is LIVE and its grid is not being swapped out. -/
def State.mayIssue (s : State) (v : View) : Bool :=
  v.stirs && !v.thr.ending && (s.ctx? v.w.ctx).any (fun c => c.st = .live) &&
  !((v.w.gridOf s).bind s.grid?).any (fun g => g.swapping)

/-- R172: a read of an earlier clause is outstanding. -/
def Thread.reading (t : Thread) : Bool := t.ops.any fun o => o.kind = .load || o.kind = .acquire

/-- R42: the tokens that WAIT names are clear. -/
def Thread.tokensClear (t : Thread) (wait : BitVec 8) : Bool :=
  (List.range 8).all fun j => !wait.getLsbD j || (t.toks[j]?).getD 0 == 0

/-- R102, R215: the party is eligible: its header is fetched, and WAIT is met where a clause begins. A known read error is taken
first. -/
def State.eligible (s : State) (v : View) : Bool :=
  s.mayIssue v &&
  (v.thr.dataErr ≠ [] ||
    if v.thr.slot = 0 then
      !v.thr.reading && match s.codeWord v v.thr.hdr with
        | none => false
        | some w => (decodeHeader w).all fun h => v.thr.tokensClear h.wait
    else !v.thr.redecode || (s.codeWord v v.thr.hdr).isSome)

/-! ## Selection (R102, R215, R216) -/

/-- R216: the wave reserves its pipelines. -/
def Wave.reserving (w : Wave) : Bool := w.resv || 8 ≤ w.passed

/-- R216: another group's reservation keeps the party off one of its pipelines. -/
def State.barred (s : State) (v : View) : Bool :=
  v.pipes.any fun p => (s.partiesOn p).any fun r =>
    r.fused && r.w.uid != v.w.uid && r.w.reserving && s.mayIssue r && !(v.fused && v.w.reserving && v.w.age < r.w.age)

/-- The party is eligible, and every pipeline of it is free for it. -/
def State.mayTake (s : State) (v : View) : Bool := s.eligible v && v.pipes.all s.pipeOpen && !s.barred v

/-- R216: an older group that may take its pipelines shares one with a group. -/
def State.outranked (s : State) (v : View) : Bool :=
  v.fused && v.pipes.any fun p => (s.partiesOn p).any fun r => r.fused && r.w.uid != v.w.uid && r.w.age < v.w.age && s.mayTake r

/-- The eligible parties of a pipeline that may take every pipeline of theirs. -/
def State.candidates (s : State) (p : PipeId) : List View := (s.partiesOn p).filter fun v => s.mayTake v && !s.outranked v

/-- The oldest of some waves. -/
def oldestOf : List View → Option View
  | [] => none
  | v :: l => match oldestOf l with
    | none => some v
    | some x => if x.w.age < v.w.age then some x else some v

/-- R102: the party that a pipeline grants. -/
def State.pick (s : State) (p : PipeId) : Option View :=
  let cs := s.candidates p
  match oldestOf (cs.filter View.fused) with
  | some v => some v
  | none =>
    let rr := (s.pipe p).rrptr.toNat
    let solo := (List.range 8).filterMap fun k => cs.find? fun v => v.slotOn p == (rr + 1 + k) % 8
    match solo.find? fun v => !v.thr.yielding with
    | some v => some v
    | none => solo.head?

/-- R172: the DATA trap of known read errors, at the first slot not yet issued; the address is the lowest erring lane's (R189). -/
def State.dataTrap (s : State) (v : View) (errs : List (Nat × BitVec 54)) : State :=
  let v1 : View := { v with thr := { v.thr with dataErr := [] } }
  let lanes := lanesOf (maskOf (errs.map (·.1))) v.w.width
  let a := assocGet errs (lanes.headD 0) 0#54
  (s.modThr v.iss fun t => { t with dataErr := [] }).trap v1
    { lanes := lanes, cause := .data, addr := a.setWidth 64, trapaddr := a.extractLsb' 0 32, hdr := v.thr.hdr, slot := v.thr.slot }

/-- R62 step 1, R142: ILLCLS at a header. -/
def State.headerTrap (s : State) (v : View) (w : Word) : State :=
  s.trap v { lanes := v.act, cause := .illcls, addr := 0#64, trapaddr := w, hdr := v.thr.hdr, slot := 0 }

/-- R137: the d of a WFM that has ended its wait, as the ports stand when its party resumes. -/
def State.payWfm (s : State) (v : View) : State :=
  match v.thr.owed with
  | none => s
  | some (w, l) =>
    let f := decodeR 0x04A w []
    let m := ((l.find? fun e => v.act.contains e.1).map (·.2)).getD 0#8
    (s.writeLanes v.w.uid v.act f.d.toNat f.nw f.hd (regI32 (wfmMask s v m))).modThr v.iss fun t => { t with owed := none }

/-- The line of a clause that lies in one, at the thread's header. -/
def State.wholeLine (s : State) (v : View) (h : Header) : Option (BitVec 48 × List Word) :=
  if v.thr.hdr.toNat % 64 / 4 + h.count < 16 then
    (s.codeLineOf v v.thr.hdr).map fun l => (BitVec.ofNat 48 (v.thr.hdr.toNat / 64), l)
  else none

/-- R102: what a party's selection does to itself: its clause owns its pipelines, or a trap is taken instead. -/
def State.begin (s0 : State) (v : View) : State :=
  let s := s0.payWfm v
  match v.thr.dataErr with
  | e :: es => s.dataTrap v (e :: es)
  | [] =>
    if v.thr.slot != 0 && !v.thr.redecode then s.modThr v.iss fun t => { t with st := .owning, wait := .nothing, woken := false }
    else match s.codeWord v v.thr.hdr with
      | none => s
      | some w =>
        match decodeHeader w with
        | none => s.headerTrap v w
        | some h =>
          if h.count < v.thr.slot then s.headerTrap v w
          else (if v.thr.slot = 0 then s.emptyLatches v.iss else s).modThr v.iss fun t =>
            { t with st := .owning, slot := if t.slot = 0 then 1 else t.slot, count := h.count, allow := h.allow, yieldBit := h.yieldBit,
                     wait := .nothing, redecode := false, woken := false, line := s.wholeLine v h,
                     willYield := t.slot != 0 && t.willYield }

/-- R216: a group that was ready and is passed over by a younger group or a solo clause on its pipelines. -/
def State.passOver (s0 s : State) (v : View) : State :=
  let us := (v.pipes.flatMap fun p => ((s0.partiesOn p).filter fun r =>
    r.fused && r.w.uid != v.w.uid && s0.eligible r && (!v.fused || r.w.age < v.w.age)).map (·.w.uid)).dedup
  us.foldl (fun s u => s.modWave u fun w => { w with passed := w.passed + 1 }) s

/-- The grant of a party by a pipeline: R102 steps 3 and 4, and R216. -/
def State.grant (s0 : State) (p : PipeId) (v : View) : State :=
  let s := s0.passOver s0 v
  let s := (v.pipes.flatMap s0.partiesOn).foldl
    (fun s x => if x.fused then s else s.modThr x.iss fun t => { t with yielding := false }) s
  let s := if v.fused then s else s.setPipe p { s.pipe p with rrptr := BitVec.ofNat 3 (v.slotOn p) }
  let s := if v.lane.isNone then
      s.modWave v.w.uid fun w => { w with passed := 0, resv := false, thr := { w.thr with yielding := false } } else s
  match s.view v.iss with
  | some v => s.begin v
  | none => s

/-- CLAUSE_SELECT. -/
def execClauseSelect (p : PipeId) (s : State) : Host.Outcome State Fault Refusal :=
  if !s.pipeOpen p then .next s
  else match s.pick p with
    | some v => .next (s.grant p v)
    | none => .next s

/-- GROUP_RESERVE (R216). -/
def execGroupReserve (w : Nat) (s : State) : Host.Outcome State Fault Refusal :=
  .next (s.modWave w fun x => if 8 ≤ x.passed then { x with resv := true } else x)

/-! ## The turn of an owning clause -/

/-- What a party's turn comes to: a state, or an instruction to execute. -/
inductive SlotTurn where
  | done (s : State)
  /-- A slot that issues with a word of no instruction (R62). -/
  | ill (s : State)
  | run (i : Instr)
  deriving DecidableEq, Repr

/-- R62 step 2: a word of no map. -/
def State.illegalWord (s : State) (v : View) (w : Word) : State :=
  s.trap v { lanes := v.act, cause := .illop, addr := 0#64, trapaddr := w, hdr := v.thr.hdr, slot := v.thr.slot }

/-- R105: the instruction at the slot of an owning party, once its words are in the instruction cache. Nothing issues on a pipeline in
a banking switch (06_group R214). -/
def State.slotTurn (s : State) (i : Issuer) : SlotTurn :=
  match s.view i with
  | none => .done s
  | some v =>
    if v.thr.st ≠ .owning || v.thr.ending then .done s
    else if v.pipes.any fun p => (s.pipe p).switching then .done s
    else match v.thr.dataErr with
      | e :: es => .done (s.dataTrap v (e :: es))
      | [] =>
        match s.codeWord v (v.thr.wordAddr v.thr.slot) with
        | none => .done s
        | some w =>
          match allSome ((v.thr.litSlots w).map fun k => s.codeWord v (v.thr.wordAddr k)) with
          | none => .done s
          | some lits =>
            match decodeWord w lits with
            | none => .ill (s.illegalWord v w)
            | some x => .run x

/-- R112: a slot of a party has issued on some pipelines; the requests of others that are blocked in REGX on them count the cycle. -/
def State.countIssue (s : State) (i : Issuer) (ps : List PipeId) : State :=
  let tick (who : Issuer) (lanes : List PipeId) (t : Thread) : Thread :=
    match t.wait with
    | .regx x d hd c => if t.st = .parked && who ≠ i && lanes.any ps.contains then { t with wait := .regx x d hd (c + 1) } else t
    | _ => t
  { s with waves := s.waves.map fun w =>
      { w with thr := tick ⟨w.uid, none⟩ w.pipes w.thr,
               lanes := w.lanes.mapIdx fun k l => { l with own := l.own.map (tick ⟨w.uid, some k⟩ [w.pipeOf k]) } } }

/-- Where a party stands in its code. -/
def State.point (s : State) (i : Issuer) : Option (SlotState × BitVec 54 × Nat) := (s.view i).map fun v => (v.thr.st, v.thr.hdr, v.thr.slot)

/-- The end of a turn in which a party executed an instruction: a slot that did not wait at issue counts. -/
def State.endTurn (s0 s : State) (i : Issuer) : State :=
  let s1 := { s with cur := none }
  match s0.view i with
  | none => s1
  | some v => if s1.point i = s0.point i then s1 else s1.countIssue i v.pipes

/-! ## The turn of a hart -/

/-- R429: the word at a hart's pc, from the physical window; `none` for an access fault, which every other address is, or a page that
stalls. -/
def State.hartFetch (s : State) (h : Nat) : State × Option Word :=
  let x := s.hart h
  if 2 ^ 45 < x.pc + 4 then (s.hartExc h .fetchAccess (BitVec.ofNat 64 x.pc) none, none)
  else match s.hartReach h .fetch x.pc 4 with
  | (s, .ok (.phys a)) =>
    match s.hartBytes (.phys a) 4 with
    | some l => (s, some (BitVec.ofNat 32 (leNat l)))
    | none => (s.hartExc h .fetchAccess (BitVec.ofNat 64 x.pc) (some 5), none)
  | (s, .error .wait) => (s, none)
  | _ => (s.hartExc h .fetchAccess (BitVec.ofNat 64 x.pc) none, none)

/-- R436: a custom-0 word that is none of the four. -/
def State.hartIllegal (s : State) (h : Nat) (w : Word) : State := s.hartExc h .illegal (w.setWidth 64) none

/-! ## Power gating (R147, R148) -/

/-- A CTXSWAP of a context is under way. -/
def Cmd.swaps (c : Cmd) (ctx : BitVec 12) : Bool :=
  let x : HubCmd := ⟨c.hart, c.dw⟩
  c.status.isNone && cmdOp x = 6 && cmdCtx x == ctx

/-- The pre-emption and swap requests that stand against a party: of its context, by a hub command for it, and of its grid. -/
def State.presses (s : State) (v : View) : List Bool :=
  [(s.ctx? v.w.ctx).all (fun c => c.st ≠ .live), s.cmds.any (·.swaps v.w.ctx), ((v.w.gridOf s).bind s.grid?).any fun g => g.swapping]

/-- R148: between two states an event has made a party READY that was PARKED or SUSPENDED or not there, or a request against it has come. -/
def State.wokenSince (s0 s : State) (v : View) : Bool :=
  match s0.view v.iss with
  | none => v.stirs
  | some x => (x.thr.st ≠ .owning && !x.stirs && v.stirs) || ((s.presses v).zip (s0.presses x)).any fun e => e.1 && !e.2

/-- R147 for a pipeline. -/
def State.pipeIdle (s : State) (p : PipeId) : Bool :=
  !(s.pipe p).switching && (s.partiesOn p).all fun v =>
    (v.thr.st = .parked || v.thr.st = .suspended || v.w.thr.st = .suspended) && v.thr.st ≠ .owning && !v.stirs &&
    v.thr.toks.toList.all (· == 0)

/-- A record of a cluster keyring, resident or spilled, that some consumer could take: an engine, the die's scheduler, a message handler
with a pipeline for it, or a bound port of a resident wave. -/
def State.couldDispatch (s : State) (die clu : Nat) (r : Rec) : Bool :=
  (s.ring (.cluster die clu)).eligible r && (s.ctx? r.ctx).any (fun c => c.st = .live) &&
  ([clsMjob, clsCjob, clsSjob, clsSpawn].contains r.cls || (r.cls == clsCount && r.car && r.target.getLsbD 23) ||
    (s.handlerRec die clu r && (s.handlerPipe die clu).isSome) ||
    s.waves.any fun w => w.die == die && !w.gw && w.clu == clu && w.lanes.any fun l => l.ports.toList.any fun q =>
      q.bound && !q.lvl && q.takes w.ctx r)

/-- The engines of a cluster have jobs, or its keyring a record that could dispatch. -/
def State.clusterBusy (s : State) (die clu : Nat) : Bool :=
  (s.jobs.any fun j => j.die == die && j.clu == clu && j.d.eng ≠ .stack) ||
  (s.ring (.cluster die clu)).recs.any (s.couldDispatch die clu)

/-- R381, R384: a swapped-out wave whose awaited condition holds keeps that it did, whatever follows. -/
def State.latchSaved (s : State) : State :=
  let latch (c : BitVec 12) (t : Thread) : Thread := { t with woken := t.woken || s.awaits c t }
  { s with saved := s.saved.map fun v => { v with waves := v.waves.map fun w =>
      { w with thr := latch w.ctx w.thr, lanes := w.lanes.map fun l => { l with own := l.own.map (latch w.ctx) } } } }

/-- The pipelines of the waves that a scheduler has swapped out between two states (11_schedulers R379). -/
def State.leftSince (s0 s : State) : List PipeId :=
  (s0.waves.filter fun w => s.saved.any fun v => v.waves.any fun x => x.uid == w.uid).flatMap Wave.pipes

/-- R148: the pipelines and clusters that an event between two states concerns set WAKE. -/
def State.latchWakes (s0 s : State) : State :=
  let ps := ((s.waves.flatMap Wave.pipes).dedup.filter (fun p => (s.partiesOn p).any (s0.wokenSince s)) ++ s0.leftSince s).dedup
  let fresh (e : KrId × Keyring) : Option (Nat × Nat) :=
    match e.1 with
    | .cluster d c =>
      if e.2.recs.any fun r => s.couldDispatch d c r && !((s0.ring e.1).recs.any fun x => x.uid == r.uid && s0.couldDispatch d c x) then
        some (d, c)
      else none
    | _ => none
  let cs := (((ps.filter fun p => !p.gw).map fun p => (p.die, p.clu)) ++ s.keyrings.filterMap fresh).dedup
  let s := ps.foldl (fun s p => s.setPipe p { s.pipe p with wake := true }) s
  (cs.foldl (fun s c => s.modCluster c.1 c.2 fun x => { x with wake := true }) s).latchSaved

def clusterPipes (die clu : Nat) : List PipeId := (List.range Config.pipes).map fun p => ⟨die, false, clu, p⟩

/-- WAKE of a unit. -/
def State.unitWakes (s : State) (u : GateUnit) : Bool :=
  match u with
  | .pipe p => (s.pipe p).wake
  | .cluster d c => (s.cluster d c).wake

def State.unitIdle (s : State) (u : GateUnit) : Bool :=
  match u with
  | .pipe p => s.pipeIdle p
  | .cluster d c => (clusterPipes d c).all (fun p => (s.pipe p).gate = .gated) && !s.clusterBusy d c

def State.unitGate (s : State) (u : GateUnit) : GatePhase :=
  match u with
  | .pipe p => (s.pipe p).gate
  | .cluster d c => (s.cluster d c).gate

def State.setGate (s : State) (u : GateUnit) (g : GatePhase) (wake : Bool) : State :=
  match u with
  | .pipe p => s.setPipe p { s.pipe p with gate := g, wake := wake }
  | .cluster d c => s.modCluster d c fun x => { x with gate := g, wake := wake }

/-- Entry begins: a cluster writes back and invalidates its L1. -/
def State.enterGate (s : State) (u : GateUnit) : State :=
  match u with
  | .pipe _ => s
  | .cluster d c => s.flushSlices (clusterPipes d c)

/-- A gated pipeline's instruction cache is invalidated. -/
def State.gated (s : State) (u : GateUnit) : State :=
  match u with
  | .pipe p => { s with icache := s.icache.filter fun l => l.pipe ≠ p }
  | .cluster _ _ => s

/-- POWER_GATE_ENTRY: check 1 cancels the entry when WAKE is set. -/
def execPowerGateEntry (u : GateUnit) (s : State) : Host.Outcome State Fault Refusal :=
  if s.unitGate u ≠ .off || !s.unitIdle u then .next s
  else if s.unitWakes u then .next (s.setGate u .off false)
  else .next ((s.enterGate u).setGate u .entering false)

/-- POWER_GATE_COMMIT_CHECK: check 2. -/
def execPowerGateCommitCheck (u : GateUnit) (s : State) : Host.Outcome State Fault Refusal :=
  if s.unitGate u ≠ .entering then .next s
  else if s.unitWakes u then .next (s.setGate u .aborting true)
  else .next ((s.gated u).setGate u .gated false)

/-- POWER_GATE_WAKE: a gated unit wakes for the event that has set WAKE. -/
def execPowerGateWake (u : GateUnit) (s : State) : Host.Outcome State Fault Refusal :=
  if s.unitGate u = .gated && s.unitWakes u then .next (s.setGate u .waking true) else .next s

/-- POWER_GATE_READY: the sequence ends and WAKE is cleared. -/
def execPowerGateReady (u : GateUnit) (s : State) : Host.Outcome State Fault Refusal :=
  match s.unitGate u with
  | .waking | .aborting => .next (s.setGate u .off false)
  | _ => .next s

end Sys2Proof.Machine
end

