-- ==== Sys2Proof/Machine/Dispatch.lean ====
section
/-! DEFINITION. Every instruction and its meaning. -/

namespace Sys2Proof.Machine

/-- The meaning of an instruction: a word executed by the party or hart whose turn it is, or an event. -/
def exec (i : Instr) (s : State) : Host.Outcome State Fault Refusal :=
  match i with
  | .mov f => Sys2Proof.Machine.execMov f s
  | .add f => Sys2Proof.Machine.execAdd f s
  | .sub f => Sys2Proof.Machine.execSub f s
  | .mul f => Sys2Proof.Machine.execMul f s
  | .mulh f => Sys2Proof.Machine.execMulh f s
  | .mulhu f => Sys2Proof.Machine.execMulhu f s
  | .fma f => Sys2Proof.Machine.execFma f s
  | .div f => Sys2Proof.Machine.execDiv f s
  | .divu f => Sys2Proof.Machine.execDivu f s
  | .rem f => Sys2Proof.Machine.execRem f s
  | .remu f => Sys2Proof.Machine.execRemu f s
  | .min f => Sys2Proof.Machine.execMin f s
  | .max f => Sys2Proof.Machine.execMax f s
  | .minu f => Sys2Proof.Machine.execMinu f s
  | .maxu f => Sys2Proof.Machine.execMaxu f s
  | .abs f => Sys2Proof.Machine.execAbs f s
  | .neg f => Sys2Proof.Machine.execNeg f s
  | .and f => Sys2Proof.Machine.execAnd f s
  | .or f => Sys2Proof.Machine.execOr f s
  | .xor f => Sys2Proof.Machine.execXor f s
  | .andn f => Sys2Proof.Machine.execAndn f s
  | .shl f => Sys2Proof.Machine.execShl f s
  | .shr f => Sys2Proof.Machine.execShr f s
  | .sra f => Sys2Proof.Machine.execSra f s
  | .rot f => Sys2Proof.Machine.execRot f s
  | .clz f => Sys2Proof.Machine.execClz f s
  | .popc f => Sys2Proof.Machine.execPopc f s
  | .bfx f => Sys2Proof.Machine.execBfx f s
  | .bfxs f => Sys2Proof.Machine.execBfxs f s
  | .bfi f => Sys2Proof.Machine.execBfi f s
  | .sel f => Sys2Proof.Machine.execSel f s
  | .cmpEq f => Sys2Proof.Machine.execCmpEq f s
  | .cmpNe f => Sys2Proof.Machine.execCmpNe f s
  | .cmpLt f => Sys2Proof.Machine.execCmpLt f s
  | .cmpLe f => Sys2Proof.Machine.execCmpLe f s
  | .cmpLtu f => Sys2Proof.Machine.execCmpLtu f s
  | .cmpLeu f => Sys2Proof.Machine.execCmpLeu f s
  | .cmpUn f => Sys2Proof.Machine.execCmpUn f s
  | .sqrt f => Sys2Proof.Machine.execSqrt f s
  | .rcp f => Sys2Proof.Machine.execRcp f s
  | .exp2 f => Sys2Proof.Machine.execExp2 f s
  | .log2 f => Sys2Proof.Machine.execLog2 f s
  | .cvtF32 f => Sys2Proof.Machine.execCvtF32 f s
  | .cvtI32 f => Sys2Proof.Machine.execCvtI32 f s
  | .cvtBf16x2 f => Sys2Proof.Machine.execCvtBf16x2 f s
  | .cvtF16x2 f => Sys2Proof.Machine.execCvtF16x2 f s
  | .cvtE4m3x4 f => Sys2Proof.Machine.execCvtE4m3x4 f s
  | .cvtE4m3x4Sat f => Sys2Proof.Machine.execCvtE4m3x4Sat f s
  | .cvtE5m2x4 f => Sys2Proof.Machine.execCvtE5m2x4 f s
  | .cvtI8x4 f => Sys2Proof.Machine.execCvtI8x4 f s
  | .cvtI16x2 f => Sys2Proof.Machine.execCvtI16x2 f s
  | .qmax f => Sys2Proof.Machine.execQmax f s
  | .qntB8 f => Sys2Proof.Machine.execQntB8 f s
  | .qntB4 f => Sys2Proof.Machine.execQntB4 f s
  | .qntB2 f => Sys2Proof.Machine.execQntB2 f s
  | .deq f => Sys2Proof.Machine.execDeq f s
  | .tagset f => Sys2Proof.Machine.execTagset f s
  | .tagget f => Sys2Proof.Machine.execTagget f s
  | .cwr f => Sys2Proof.Machine.execCwr f s
  | .cww f => Sys2Proof.Machine.execCww f s
  | .regx f => Sys2Proof.Machine.execRegx f s
  | .regxNb f => Sys2Proof.Machine.execRegxNb f s
  | .regrel f => Sys2Proof.Machine.execRegrel f s
  | .br f => Sys2Proof.Machine.execBr f s
  | .brc f => Sys2Proof.Machine.execBrc f s
  | .call f => Sys2Proof.Machine.execCall f s
  | .ret f => Sys2Proof.Machine.execRet f s
  | .jmpr f => Sys2Proof.Machine.execJmpr f s
  | .brl f => Sys2Proof.Machine.execBrl f s
  | .trap f => Sys2Proof.Machine.execTrap f s
  | .eret f => Sys2Proof.Machine.execEret f s
  | .svc f => Sys2Proof.Machine.execSvc f s
  | .brk f => Sys2Proof.Machine.execBrk f s
  | .wfm f => Sys2Proof.Machine.execWfm f s
  | .retire f => Sys2Proof.Machine.execRetire f s
  | .yield f => Sys2Proof.Machine.execYield f s
  | .dmap f => Sys2Proof.Machine.execDmap f s
  | .nop f => Sys2Proof.Machine.execNop f s
  | .addp f => Sys2Proof.Machine.execAddp f s
  | .ldI32 f => Sys2Proof.Machine.execLdI32 f s
  | .ldF32 f => Sys2Proof.Machine.execLdF32 f s
  | .ldBf16x2 f => Sys2Proof.Machine.execLdBf16x2 f s
  | .ldF16x2 f => Sys2Proof.Machine.execLdF16x2 f s
  | .ldE4m3x4 f => Sys2Proof.Machine.execLdE4m3x4 f s
  | .ldE5m2x4 f => Sys2Proof.Machine.execLdE5m2x4 f s
  | .ldI8x4 f => Sys2Proof.Machine.execLdI8x4 f s
  | .ldI16x2 f => Sys2Proof.Machine.execLdI16x2 f s
  | .ldBfp8x4 f => Sys2Proof.Machine.execLdBfp8x4 f s
  | .ldBfp4x8 f => Sys2Proof.Machine.execLdBfp4x8 f s
  | .ldBfp2x16 f => Sys2Proof.Machine.execLdBfp2x16 f s
  | .ldScale f => Sys2Proof.Machine.execLdScale f s
  | .ldAddr f => Sys2Proof.Machine.execLdAddr f s
  | .ldSb f => Sys2Proof.Machine.execLdSb f s
  | .ldZb f => Sys2Proof.Machine.execLdZb f s
  | .ldSh f => Sys2Proof.Machine.execLdSh f s
  | .ldZh f => Sys2Proof.Machine.execLdZh f s
  | .ldqI32 f => Sys2Proof.Machine.execLdqI32 f s
  | .ldqF32 f => Sys2Proof.Machine.execLdqF32 f s
  | .ldwI32 f => Sys2Proof.Machine.execLdwI32 f s
  | .ldwF32 f => Sys2Proof.Machine.execLdwF32 f s
  | .ldwRoI32 f => Sys2Proof.Machine.execLdwRoI32 f s
  | .ldwRoF32 f => Sys2Proof.Machine.execLdwRoF32 f s
  | .ldwRoI32Edfen1 f => Sys2Proof.Machine.execLdwRoI32Edfen1 f s
  | .ldwRoF32Edfen1 f => Sys2Proof.Machine.execLdwRoF32Edfen1 f s
  | .lda f => Sys2Proof.Machine.execLda f s
  | .st f => Sys2Proof.Machine.execSt f s
  | .stB8 f => Sys2Proof.Machine.execStB8 f s
  | .stB16 f => Sys2Proof.Machine.execStB16 f s
  | .stq f => Sys2Proof.Machine.execStq f s
  | .stw f => Sys2Proof.Machine.execStw f s
  | .str f => Sys2Proof.Machine.execStr f s
  | .aadd f => Sys2Proof.Machine.execAadd f s
  | .aaddF32 f => Sys2Proof.Machine.execAaddF32 f s
  | .amin f => Sys2Proof.Machine.execAmin f s
  | .amax f => Sys2Proof.Machine.execAmax f s
  | .aminu f => Sys2Proof.Machine.execAminu f s
  | .amaxu f => Sys2Proof.Machine.execAmaxu f s
  | .aand f => Sys2Proof.Machine.execAand f s
  | .aor f => Sys2Proof.Machine.execAor f s
  | .axor f => Sys2Proof.Machine.execAxor f s
  | .axchg f => Sys2Proof.Machine.execAxchg f s
  | .acas f => Sys2Proof.Machine.execAcas f s
  | .fenceAcq f => Sys2Proof.Machine.execFenceAcq f s
  | .fenceRel f => Sys2Proof.Machine.execFenceRel f s
  | .fenceAr f => Sys2Proof.Machine.execFenceAr f s
  | .win f => Sys2Proof.Machine.execWin f s
  | .winq f => Sys2Proof.Machine.execWinq f s
  | .pfetch f => Sys2Proof.Machine.execPfetch f s
  | .clean f => Sys2Proof.Machine.execClean f s
  | .inval f => Sys2Proof.Machine.execInval f s
  | .fuseW8 f => Sys2Proof.Machine.execFuseW8 f s
  | .fuseW16 f => Sys2Proof.Machine.execFuseW16 f s
  | .fuseW32 f => Sys2Proof.Machine.execFuseW32 f s
  | .split f => Sys2Proof.Machine.execSplit f s
  | .wpt f => Sys2Proof.Machine.execWpt f s
  | .brd f => Sys2Proof.Machine.execBrd f s
  | .join f => Sys2Proof.Machine.execJoin f s
  | .ballot f => Sys2Proof.Machine.execBallot f s
  | .vany f => Sys2Proof.Machine.execVany f s
  | .vall f => Sys2Proof.Machine.execVall f s
  | .shflIdx f => Sys2Proof.Machine.execShflIdx f s
  | .shflUp f => Sys2Proof.Machine.execShflUp f s
  | .shflDn f => Sys2Proof.Machine.execShflDn f s
  | .shflXor f => Sys2Proof.Machine.execShflXor f s
  | .rdxAdd f => Sys2Proof.Machine.execRdxAdd f s
  | .rdxMin f => Sys2Proof.Machine.execRdxMin f s
  | .rdxMax f => Sys2Proof.Machine.execRdxMax f s
  | .scanAdd f => Sys2Proof.Machine.execScanAdd f s
  | .laneid f => Sys2Proof.Machine.execLaneid f s
  | .maskrd f => Sys2Proof.Machine.execMaskrd f s
  | .bar f => Sys2Proof.Machine.execBar f s
  | .barArr f => Sys2Proof.Machine.execBarArr f s
  | .barWt f => Sys2Proof.Machine.execBarWt f s
  | .kpush f => Sys2Proof.Machine.execKpush f s
  | .kpushAck f => Sys2Proof.Machine.execKpushAck f s
  | .kpop f => Sys2Proof.Machine.execKpop f s
  | .kpopNb f => Sys2Proof.Machine.execKpopNb f s
  | .kbind f => Sys2Proof.Machine.execKbind f s
  | .kunbind f => Sys2Proof.Machine.execKunbind f s
  | .kqry f => Sys2Proof.Machine.execKqry f s
  | .msend f => Sys2Proof.Machine.execMsend f s
  | .msendEdfen2 f => Sys2Proof.Machine.execMsendEdfen2 f s
  | .kdec f => Sys2Proof.Machine.execKdec f s
  | .kdecEdfen2 f => Sys2Proof.Machine.execKdecEdfen2 f s
  | .mjobMma f => Sys2Proof.Machine.execMjobMma f s
  | .mjobMmz f => Sys2Proof.Machine.execMjobMmz f s
  | .mjobWld f => Sys2Proof.Machine.execMjobWld f s
  | .mjobAco f => Sys2Proof.Machine.execMjobAco f s
  | .mjobAci f => Sys2Proof.Machine.execMjobAci f s
  | .mjobZero f => Sys2Proof.Machine.execMjobZero f s
  | .mwait f => Sys2Proof.Machine.execMwait f s
  | .mqry f => Sys2Proof.Machine.execMqry f s
  | .mcancel f => Sys2Proof.Machine.execMcancel f s
  | .live f => Sys2Proof.Machine.execLive f s
  | .ringPub f => Sys2Proof.Machine.execRingPub f s
  | .ringWt f => Sys2Proof.Machine.execRingWt f s
  | .sscan f => Sys2Proof.Machine.execSscan f s
  | .ssld f => Sys2Proof.Machine.execSsld f s
  | .ssst f => Sys2Proof.Machine.execSsst f s
  | .sswait f => Sys2Proof.Machine.execSswait f s
  | .ssqry f => Sys2Proof.Machine.execSsqry f s
  | .cpy f => Sys2Proof.Machine.execCpy f s
  | .cpyg f => Sys2Proof.Machine.execCpyg f s
  | .cpys f => Sys2Proof.Machine.execCpys f s
  | .cpyw f => Sys2Proof.Machine.execCpyw f s
  | .cpyq f => Sys2Proof.Machine.execCpyq f s
  | .cpyc f => Sys2Proof.Machine.execCpyc f s
  | .spawn f => Sys2Proof.Machine.execSpawn f s
  | .spawnDep f => Sys2Proof.Machine.execSpawnDep f s
  | .launch f => Sys2Proof.Machine.execLaunch f s
  | .launchNb f => Sys2Proof.Machine.execLaunchNb f s
  | .cwait f => Sys2Proof.Machine.execCwait f s
  | .cqry f => Sys2Proof.Machine.execCqry f s
  | .nwait f => Sys2Proof.Machine.execNwait f s
  | .prio f => Sys2Proof.Machine.execPrio f s
  | .sgath f => Sys2Proof.Machine.execSgath f s
  | .sredAddF32 f => Sys2Proof.Machine.execSredAddF32 f s
  | .sredAddBf16 f => Sys2Proof.Machine.execSredAddBf16 f s
  | .sredMaxF32 f => Sys2Proof.Machine.execSredMaxF32 f s
  | .sredBadd f => Sys2Proof.Machine.execSredBadd f s
  | .sconv f => Sys2Proof.Machine.execSconv f s
  | .swait f => Sys2Proof.Machine.execSwait f s
  | .sqry f => Sys2Proof.Machine.execSqry f s
  | .badd f => Sys2Proof.Machine.execBadd f s
  | .bqpop f => Sys2Proof.Machine.execBqpop f s
  | .lsnd f => Sys2Proof.Machine.execLsnd f s
  | .lstat f => Sys2Proof.Machine.execLstat f s
  | .enrd f => Sys2Proof.Machine.execEnrd f s
  | .enrsv f => Sys2Proof.Machine.execEnrsv f s
  | .enrel f => Sys2Proof.Machine.execEnrel f s
  | .enqry f => Sys2Proof.Machine.execEnqry f s
  | .nset f => Sys2Proof.Machine.execNset f s
  | .nget f => Sys2Proof.Machine.execNget f s
  | .svcpop f => Sys2Proof.Machine.execSvcpop f s
  | .svcdone f => Sys2Proof.Machine.execSvcdone f s
  | .clauseSelect p => Sys2Proof.Machine.execClauseSelect p s
  | .headerFetchComplete k => Sys2Proof.Machine.execHeaderFetchComplete k s
  | .groupReserve w => Sys2Proof.Machine.execGroupReserve w s
  | .memoryAccessComplete j k => Sys2Proof.Machine.execMemoryAccessComplete j k s
  | .regxstall k => Sys2Proof.Machine.execRegxstall k s
  | .groupForm team base => Sys2Proof.Machine.execGroupForm team base s
  | .splitFinish k => Sys2Proof.Machine.execSplitFinish k s
  | .groupRejoin w => Sys2Proof.Machine.execGroupRejoin w s
  | .bankingSwitchComplete die clu base => Sys2Proof.Machine.execBankingSwitchComplete die clu base s
  | .retireFinish k => Sys2Proof.Machine.execRetireFinish k s
  | .powerGateEntry u => Sys2Proof.Machine.execPowerGateEntry u s
  | .powerGateCommitCheck u => Sys2Proof.Machine.execPowerGateCommitCheck u s
  | .powerGateWake u => Sys2Proof.Machine.execPowerGateWake u s
  | .powerGateReady u => Sys2Proof.Machine.execPowerGateReady u s
  | .keyringPushArrival k => Sys2Proof.Machine.execKeyringPushArrival k s
  | .keyringAccept k => Sys2Proof.Machine.execKeyringAccept k s
  | .keyringPromote kr k => Sys2Proof.Machine.execKeyringPromote kr k s
  | .spillRecordReturn kr => Sys2Proof.Machine.execSpillRecordReturn kr s
  | .messageHandlerStart die clu => Sys2Proof.Machine.execMessageHandlerStart die clu s
  | .handlerMsgMove die clu => Sys2Proof.Machine.execHandlerMsgMove die clu s
  | .dieFatalError die stale => Sys2Proof.Machine.execDieFatalError die stale s
  | .journalReplay die => Sys2Proof.Machine.execJournalReplay die s
  | .matrixJobDispatch die clu => Sys2Proof.Machine.execMatrixJobDispatch die clu s
  | .mmaJobEnd die clu k => Sys2Proof.Machine.execMmaJobEnd die clu k s
  | .wldJobEnd die clu k => Sys2Proof.Machine.execWldJobEnd die clu k s
  | .acoJobEnd die clu k => Sys2Proof.Machine.execAcoJobEnd die clu k s
  | .aciJobEnd die clu k => Sys2Proof.Machine.execAciJobEnd die clu k s
  | .zeroJobEnd die clu k => Sys2Proof.Machine.execZeroJobEnd die clu k s
  | .matrixReadDone die clu k => Sys2Proof.Machine.execMatrixReadDone die clu k s
  | .matrixJobSuspend die clu k => Sys2Proof.Machine.execMatrixJobSuspend die clu k s
  | .ssJobDispatch die clu => Sys2Proof.Machine.execSsJobDispatch die clu s
  | .sscanPartComplete die clu k => Sys2Proof.Machine.execSscanPartComplete die clu k s
  | .sscanJobEnd die clu k => Sys2Proof.Machine.execSscanJobEnd die clu k s
  | .ssldJobEnd die clu k => Sys2Proof.Machine.execSsldJobEnd die clu k s
  | .ssstJobEnd die clu k => Sys2Proof.Machine.execSsstJobEnd die clu k s
  | .ssReadDone die clu k => Sys2Proof.Machine.execSsReadDone die clu k s
  | .copyJobDispatch die clu => Sys2Proof.Machine.execCopyJobDispatch die clu s
  | .copyBatchComplete die clu k => Sys2Proof.Machine.execCopyBatchComplete die clu k s
  | .copyJobEnd die clu k => Sys2Proof.Machine.execCopyJobEnd die clu k s
  | .copyPrefetchEnd die clu k => Sys2Proof.Machine.execCopyPrefetchEnd die clu k s
  | .copyReadDone die clu k => Sys2Proof.Machine.execCopyReadDone die clu k s
  | .stackJobEnd k => Sys2Proof.Machine.execStackJobEnd k s
  | .stackReadDone k => Sys2Proof.Machine.execStackReadDone k s
  | .compExpandComplete k => Sys2Proof.Machine.execCompExpandComplete k s
  | .hostLaunchPost port rec => Sys2Proof.Machine.execHostLaunchPost port rec s
  | .launchForward kr => Sys2Proof.Machine.execLaunchForward kr s
  | .pendingLaunchSend team => Sys2Proof.Machine.execPendingLaunchSend team s
  | .schedulerDispatch die => Sys2Proof.Machine.execSchedulerDispatch die s
  | .placementRound die => Sys2Proof.Machine.execPlacementRound die s
  | .entryReserve die k => Sys2Proof.Machine.execEntryReserve die k s
  | .stealRequest die => Sys2Proof.Machine.execStealRequest die s
  | .stealAnswer die => Sys2Proof.Machine.execStealAnswer die s
  | .stealRetryTimer die => Sys2Proof.Machine.execStealRetryTimer die s
  | .spawnCarrierFire die clu => Sys2Proof.Machine.execSpawnCarrierFire die clu s
  | .completionPass die grid => Sys2Proof.Machine.execCompletionPass die grid s
  | .swapOut team => Sys2Proof.Machine.execSwapOut team s
  | .gridSwapOut grid => Sys2Proof.Machine.execGridSwapOut grid s
  | .readmission team => Sys2Proof.Machine.execReadmission team s
  | .cwaitBroken k => Sys2Proof.Machine.execCwaitBroken k s
  | .linkTrain die port t3 half peer => Sys2Proof.Machine.execLinkTrain die port t3 half peer s
  | .laneLoss die port => Sys2Proof.Machine.execLaneLoss die port s
  | .flitRetry die port => Sys2Proof.Machine.execFlitRetry die port s
  | .flitReceive die port => Sys2Proof.Machine.execFlitReceive die port s
  | .heartbeatSend die port => Sys2Proof.Machine.execHeartbeatSend die port s
  | .portSilent die port => Sys2Proof.Machine.execPortSilent die port s
  | .fenceNotice pkg => Sys2Proof.Machine.execFenceNotice pkg s
  | .hartApertureAccess a => Sys2Proof.Machine.execHartApertureAccess a s
  | .hartPhysAccess a => Sys2Proof.Machine.execHartPhysAccess a s
  | .hubCsrWrite hart csr v => Sys2Proof.Machine.execHubCsrWrite hart csr v s
  | .shoot c => Sys2Proof.Machine.execShoot c s
  | .gwstart c => Sys2Proof.Machine.execGwstart c s
  | .ctxnew c => Sys2Proof.Machine.execCtxnew c s
  | .ctxset c => Sys2Proof.Machine.execCtxset c s
  | .ctxsusp c => Sys2Proof.Machine.execCtxsusp c s
  | .ctxswap c => Sys2Proof.Machine.execCtxswap c s
  | .ctxres c => Sys2Proof.Machine.execCtxres c s
  | .ctxtear c => Sys2Proof.Machine.execCtxtear c s
  | .migrate c => Sys2Proof.Machine.execMigrate c s
  | .clreset c => Sys2Proof.Machine.execClreset c s
  | .hubCommandUnknown c => Sys2Proof.Machine.execHubCommandUnknown c s
  | .hubCommandComplete hart => Sys2Proof.Machine.execHubCommandComplete hart s
  | .migrationRoundEnd k => Sys2Proof.Machine.execMigrationRoundEnd k s
  | .migrationSwitch k => Sys2Proof.Machine.execMigrationSwitch k s
  | .semRequest port => Sys2Proof.Machine.execSemRequest port s
  | .semRelease port => Sys2Proof.Machine.execSemRelease port s
  | .hostLinkDown port => Sys2Proof.Machine.execHostLinkDown port s
  | .config src a => Sys2Proof.Machine.execConfig src a s
  | .standby src l => Sys2Proof.Machine.execStandby src l s
  | .lift src pkg => Sys2Proof.Machine.execLift src pkg s
  | .setbudget src b shares => Sys2Proof.Machine.execSetbudget src b shares s
  | .reach src lo hi => Sys2Proof.Machine.execReach src lo hi s
  | .reset src t => Sys2Proof.Machine.execReset src t s
  | .fwupdate src img => Sys2Proof.Machine.execFwupdate src img s
  | .attest src nonce buf => Sys2Proof.Machine.execAttest src nonce buf s
  | .extend src reg digest => Sys2Proof.Machine.execExtend src reg digest s
  | .counters src => Sys2Proof.Machine.execCounters src s
  | .mailboxComplete src => Sys2Proof.Machine.execMailboxComplete src s
  | .hostNotifyWrite port ctx idx v => Sys2Proof.Machine.execHostNotifyWrite port ctx idx v s
  | .hostNotifyRead port ctx idx => Sys2Proof.Machine.execHostNotifyRead port ctx idx s
  | .hostMemoryAccess port addr size data => Sys2Proof.Machine.execHostMemoryAccess port addr size data s
  | .hostUnmappedAccess port write => Sys2Proof.Machine.execHostUnmappedAccess port write s
  | .sidebandCommand m => Sys2Proof.Machine.execSidebandCommand m s
  | .packageReset => Sys2Proof.Machine.execPackageReset s
  | .boot b => Sys2Proof.Machine.execBoot b s
  | .budgetIntervalEnd die => Sys2Proof.Machine.execBudgetIntervalEnd die s
  | .energyMeterUpdate die uj => Sys2Proof.Machine.execEnergyMeterUpdate die uj s
  | .hubFatalError => Sys2Proof.Machine.execHubFatalError s

end Sys2Proof.Machine
end

