-- ==== Sys2Proof/Machine/Turns.lean ====
section
/-! DEFINITION. Whose turn it is (log 1), and how a program comes to run from outside (log 14). -/

namespace Sys2Proof.Machine

/-! ## What events complete (04_pipeline R100, R104; log 13) -/

/-- The context of a party takes part in events: it is LIVE, or SUSPENDED, where a wave becomes READY but takes no record and does not issue
(14_hub R441, 07_keyring R253). -/
def State.stands (s : State) (v : View) : Bool :=
  (s.ctx? v.w.ctx).any fun c => c.st = .live || (c.st = .suspended && v.thr.wait ≠ .blockQueue)

/-- A parked party whose condition holds: its instruction completes, and it is READY behind it. A slot that waits for port sources is made
again (07_keyring R256); a WFM writes d when its party resumes (R137); CWAIT may go on to wait for its counter. An access that has to wait
leaves the party parked. -/
def State.settleParty (s : State) (i : Issuer) : State :=
  match s.view i with
  | none => s
  | some v =>
    let go := s.modThr i fun t => { t with st := .owning, wait := .nothing }
    if v.thr.st ≠ .parked || v.w.thr.st = .suspended || !s.running.contains v.w.die || !s.stands v || !s.waitHolds v then s
    else match v.thr.wait with
      | .ports _ => s.resumeAt i
      | .wfm l => (s.modThr i fun t => { t with owed := some (t.parkWord, l) }).resumeAfter i
      | _ =>
        match (decodeWord v.thr.parkWord v.thr.parkSrc).map fun x => exec x { go with cur := some i } with
        | some (.next s1) =>
          if s1.point i = go.point i then s
          else { s1.modThr i fun t => { t with st := if t.st = .owning then .ready else t.st, woken := t.st ≠ .parked && v.thr.wait.awaited } with
            cur := s.cur }
        | _ => s

/-- Every party whose condition an event has made hold, in the order of the list of waves (log 13). -/
def State.settle (s : State) : State := (s.waves.flatMap Wave.issuers).foldl State.settleParty s

/-! ## Spill areas (07_keyring R251) -/

/-- A context's undispatched spilled records at a level, in arrival order. -/
def State.spillList (s : State) (c : BitVec 12) (level : Nat) : List Rec :=
  (byStamp ((s.keyrings.filter fun e => krLevel e.1 = level).flatMap fun e =>
    (e.2.recs.filter fun r => r.ctx == c && r.spilled && !r.dispatched).map fun r => (e.1, r))).map (·.2)

/-- The 128 bytes of the record that stands `i`th in a spill area: its image and its side state (log 98). -/
def State.storeSpill (base : Nat) (s : State) (x : Nat × Rec) : State :=
  { s.physWrite (base + 128 * x.1) (wordBytes (x.2.image (if x.2.latched then 2#2 else 1#2)) ++ leBytes 64 (Config.freeSide s.freeCtr).toNat) with
    freeCtr := s.freeCtr + 1 }

/-- What a step changes in the spill areas. -/
def State.storeSpills (s0 s : State) : State :=
  s.ctxs.foldl (fun s1 c => [0, 1, 2].foldl (fun s1 n =>
    let old := s0.spillList c.id n
    let new := (s.spillList c.id n).mapIdx fun i r => (i, r)
    (new.filter fun x => old[x.1]? != some x.2).foldl (State.storeSpill ((c.kspBase.getD n 0#57).toNat)) s1) s1) s

/-! ## One turn -/

/-- The outcome of an instruction with a change of its next state. -/
def thenDo (o : Host.Outcome State Fault Refusal) (f : State → State) : Host.Outcome State Fault Refusal :=
  match o with
  | .next s => .next (f s)
  | .fault r => .fault r
  | .refused r => .refused r

/-- The turn of an owning party. -/
def State.slotStep (s : State) (i : Issuer) : Host.Outcome State Fault Refusal :=
  match s.slotTurn i with
  | .done s1 => .next s1
  | .ill s1 => .next (s.endTurn s1 i)
  | .run x => thenDo (exec x { s with cur := some i }) fun s1 => s.endTurn s1 i

/-- The turn of a hart: its next word, if it is one of the hub's four (14_hub R436). -/
def State.hartStep (s : State) (h : Nat) : Host.Outcome State Fault Refusal :=
  if !s.hubUp || Config.harts ≤ h then .next s
  else if (s.hart h).exc.isSome then .refused .riscvBase
  else match s.hartFetch h with
    | (s1, none) => .next s1
    | (s1, some w) =>
      match decodeHub w with
      | some x => thenDo (exec x { s1 with curHart := some h }) fun s2 => { s2 with curHart := none }
      | none => if w.extractLsb' 0 7 == 0x0B#7 then .next (s1.hartIllegal h w) else .refused .riscvBase

/-- A cache's move; the dirty bytes of a line let go are written back first. -/
def State.cacheMove (s : State) : CacheMove → State
  | .line p n keep =>
    let mine (l : L1Line) : Bool := l.pipe = p && l.line == n
    let s := (s.l1.filter mine).foldl State.writeBack s
    if keep then { s with l1 := s.l1.map fun l => if mine l then { l with dirty := 0#128 } else l }
    else { s with l1 := s.l1.filter fun l => !mine l }
  | .code p c n => { s with icache := s.icache.filter fun l => !(l.pipe = p && l.ctx == c && l.line == n) }
  | .l2 d n =>
    if s.lineErred n then
      if s.l2.any (fun e => e.die == d && e.line == n) then { s with lost := s.lost ++ [(d, n)] } else s
    else { s with l2 := s.l2.filter fun e => !(e.die == d && e.line == n) }
  | .ro u n => { s with ro := s.ro.filter fun l => !(l.wave == u && l.line == n) }
  | .leaf d c k n => { s with tlb := s.tlb.filter fun e => !(e.die == d && e.ctx == c && e.level == k && e.page == n) }

/-- An error in an array (05_memory R172): a corrected one is counted, an uncorrectable one shows where the byte is read. -/
def State.meetError (s : State) : ErrEvent → State
  | .corrected => { s with sext := { s.sext with corrected := s.sext.corrected + 1 } }
  | .memory a => { s with bad := (a :: s.bad).dedup }
  | .cell c => { s with errs := (c :: s.errs).dedup }

/-- 05_memory R173: the dies whose write-backs met an error fail, with the lines logged. -/
def State.fenceErred (s : State) : State :=
  let s1 := ((s.lost.map (·.1)).dedup).foldl (fun s d => s.failFatal d fun _ => true) { s with lost := [] }
  if s.lost = [] then s else { s1 with sext := { s1.sext with dirtyLog := (s1.sext.dirtyLog ++ s.lost.map (·.2)).dedup } }

/-- One turn. -/
def State.perform (s : State) (t : Turn) : Host.Outcome State Fault Refusal :=
  match t with
  | .slot i => s.slotStep i
  | .hart h => s.hartStep h
  | .event x => exec x s
  | .cache m => .next (s.cacheMove m)
  | .error e => .next (s.meetError e)
  | .unit j e => .next (s.stackTurn j e)
  | .quiet d p n => .next (s.modTildor d p fun t => { t with silence := t.silence + n })
  | .csrRead h csr rd => .next (s.csrRead h csr rd)
  | .bar port off op => s.barAccess port off op

/-- What a step adds around the turn that it takes from `s0`: a die whose write-back met an error fails (05_memory R173), parties whose
condition an event made hold go on (04_pipeline R100, R104), the spill areas take what was spilled (07_keyring R251), host requests that
stalled are tried again (05_memory R160, R166), and what the step wakes sets WAKE (04_pipeline R148). -/
def State.after (s0 s : State) : State :=
  let s1 := s.fenceErred.settle
  s0.latchWakes (s0.storeSpills s1).retryHeld

/-! ## What an empty agenda leaves to the device -/

/-- Something that the device does of its own accord: an event's meaning, or a slot. -/
abbrev Move := State → Host.Outcome State Fault Refusal

/-- What a party can do: fetch, issue, complete an operation, and end what it waits for. -/
def View.moves (v : View) : List Move :=
  (match v.thr.st with
    | .owning => [fun s => s.slotStep v.iss, execHeaderFetchComplete v.iss]
    | .ready => [execHeaderFetchComplete v.iss]
    | .parked => [execRegxstall v.iss, execSplitFinish v.iss, execRetireFinish v.iss, execCwaitBroken v.iss]
    | .suspended => []) ++
  v.thr.ops.map fun o => execMemoryAccessComplete v.iss o.k

/-- What waves and their pipelines can do. -/
def State.waveMoves (s : State) : List Move :=
  ((s.waves.flatMap fun w => (w.issuers.filterMap s.view).flatMap View.moves) ++
    s.waves.map fun w => execGroupRejoin w.uid) ++
  ((s.waves.flatMap Wave.pipes).dedup.map fun p => execClauseSelect p) ++
  (s.teams.flatMap fun t => t.rendezvous.map fun r => execGroupForm t.uid r.base) ++
  ((s.pipes.filter fun e => e.2.switching).map fun e => execBankingSwitchComplete e.1.die e.1.clu (e.1.pipe / 8 * 8))

/-- What keyrings and pushes can do. -/
def State.ringMoves (s : State) : List Move :=
  (s.flights.flatMap fun f => [execKeyringPushArrival f.k, execKeyringAccept f.k]) ++
  s.keyrings.flatMap fun e => execSpillRecordReturn e.1 :: execLaunchForward e.1 ::
    ((e.2.recs.filter fun r => !r.dispatched && 2 ^ 16 ≤ r.age && r.prio != 3#2).map fun r => execKeyringPromote e.1 r.uid) ++
    match e.1 with
    | .cluster d c => [execMessageHandlerStart d c, execMatrixJobDispatch d c, execSsJobDispatch d c, execCopyJobDispatch d c,
        execSpawnCarrierFire d c]
    | .die d => (List.range Config.clusters).map fun c => execHandlerMsgMove d c
    | .hub => []

/-- What an engine's job can do. -/
def Job.moves (j : Job) : List Move :=
  match j.d.eng with
  | .matrix => [execMatrixReadDone j.die j.clu j.k, execMmaJobEnd j.die j.clu j.k, execWldJobEnd j.die j.clu j.k,
      execAcoJobEnd j.die j.clu j.k, execAciJobEnd j.die j.clu j.k, execZeroJobEnd j.die j.clu j.k]
  | .sspace => [execSsReadDone j.die j.clu j.k, execSscanPartComplete j.die j.clu j.k, execSscanJobEnd j.die j.clu j.k,
      execSsldJobEnd j.die j.clu j.k, execSsstJobEnd j.die j.clu j.k]
  | .copy => [execCopyReadDone j.die j.clu j.k, execCopyBatchComplete j.die j.clu j.k, execCopyPrefetchEnd j.die j.clu j.k,
      execCopyJobEnd j.die j.clu j.k]
  | .stack => [execStackReadDone j.k, execStackJobEnd j.k]

/-- What the schedulers, the hub and the sextant can finish. -/
def State.schedMoves (s : State) : List Move :=
  (s.jobs.flatMap Job.moves) ++ (s.expands.map fun e => execCompExpandComplete e.k) ++
  (s.teams.map fun t => execPendingLaunchSend t.uid) ++
  ((List.range Config.dies).flatMap fun d => [execSchedulerDispatch d, execPlacementRound d, execJournalReplay d]) ++
  (s.grids.flatMap fun g => execGridSwapOut g.uid :: ((if g.counter = 0 then [execCompletionPass 0 g.uid] else []) ++
    (g.done ++ g.due).map fun e => execCompletionPass e.1 g.uid)) ++
  (s.teams.map fun t => execSwapOut t.uid) ++
  (s.scheds.flatMap fun e => (e.2.ready.filter fun x => 256 ≤ x.passed && !x.reserving).map fun x => execEntryReserve e.1 x.k) ++
  (s.saved.map fun v => execReadmission v.team.uid) ++
  (s.cmds.map fun c => execHubCommandComplete c.hart) ++
  (s.migrations.flatMap fun m => [execMigrationRoundEnd m.k, execMigrationSwitch m.k]) ++
  (s.sext.mails.map fun m => execMailboxComplete m.src) ++ if s.sext.booted then [] else [execBoot s.sext.stored]

/-- What a gated unit does next (04_pipeline R148). -/
def gateMoves (u : GateUnit) : List Move := [execPowerGateCommitCheck u, execPowerGateWake u, execPowerGateReady u]

/-- The units that are not powered go on. -/
def State.powerMoves (s : State) : List Move :=
  ((s.pipes.filter fun e => e.2.gate ≠ .off).flatMap fun e => gateMoves (.pipe e.1)) ++
  (s.clusters.filter fun e => e.2.gate ≠ .off).flatMap fun e => gateMoves (.cluster e.1.1 e.1.2)

/-- Dirty lines written back: every store becomes visible after a finite time (05_memory R175). -/
def State.lineMoves (s : State) : List Move :=
  (s.l1.filter fun l => l.dirty != 0#128).map fun l => fun s => .next (s.cacheMove (.line l.pipe l.line true))

def State.moves (s : State) : List Move := s.waveMoves ++ s.ringMoves ++ s.schedMoves ++ s.powerMoves ++ s.lineMoves

/-- The first of some moves that changes the state; `n` of the list have been tried. -/
def State.firstMove (s : State) : List Move → Nat → Host.Outcome State Fault Refusal
  | [], _ => .next s
  | m :: l, n =>
    match m s with
    | .next s1 => if s1 = s then State.firstMove s l (n + 1) else .next { s1 with turn := s.turn + n + 1 }
    | o => o

/-- The moves with the one where the search begins in front. -/
def State.movesFrom (s : State) : List Move :=
  let l := s.moves
  let n := s.turn % l.length
  l.drop n ++ l.take n

/-! ## A word placed where the next step fetches (log 14) -/

/-- A clause header. -/
def encodeHeader (h : Header) : Word :=
  BitVec.ofNat 4 h.count ++ h.allow ++ h.wait ++ BitVec.ofBool h.yieldBit ++ 0#15

/-- The clause that holds a word and its literal words, every class allowed. -/
def loadedHeader (w : Word) : Header := ⟨1 + litCount w, 15#4, 0#8, false⟩

/-- Whether a word's opcode is executed by gateway cores alone. -/
def gatewayWord (w : Word) : Bool := gatewayOps.contains (w.extractLsb' 22 10).toNat

/-- The decode map that holds a word's opcode: Edfen-3 where it does. -/
def mapFor (w : Word) : Nat :=
  let op := (w.extractLsb' 22 10).toNat
  if edfen2Added.contains op then 1 else if edfen1Added.contains op then 2 else 0

/-- A wave of one lane, just created, of context 0x000, on the first pipeline of cluster 0 or on gateway core 0 of die 0. -/
def State.loadWave (s : State) (gw : Bool) : State :=
  let (s, t) := s.fresh
  let (s, u) := s.fresh
  let (s, lu) := s.fresh
  let size := if gw then 0 else 4096
  let lane := Lane.fresh lu (((s.ctx? 0#12).map (·.tvec)).getD 0#54) 0#5 ((s.freeSlot ⟨0, gw, 0, 0⟩).getD 0#3)
  let w := Wave.fresh u 0#12 t 0 0 0 32 gw [lane] (Thread.start 0#54 (freshWins size)) 1#15 ⟨u, 0, 0⟩
  { s with teams := s.teams ++ [{ Team.fresh t 0#12 0 0 with bregs := 32, scratchSize := size }], waves := s.waves ++ [{ w with age := s.youngest }] }

/-- The wave of `loadWave` with a clause of a word and its literal words in its instruction cache, owning its pipeline at slot 1. -/
def State.loadClause (s : State) (w : Word) (lits : List Word) : State :=
  let gw := gatewayWord w
  let i : Issuer := ⟨s.uid + 1, none⟩
  let h := loadedHeader w
  let s := (s.loadWave gw).modCtx 0#12 fun c => { c with decode := mapFor w }
  let s := s.modThr i fun t => { t with st := .owning, slot := 1, count := h.count, allow := h.allow }
  let p : PipeId := ⟨0, gw, 0, 0⟩
  let line : ILine := ⟨p, 0#12, 0#48, encodeHeader h :: w :: (lits ++ List.replicate (14 - lits.length) 0#32)⟩
  { s with icache := line :: s.icache.filter (fun l => !(l.pipe = p && l.ctx == 0#12 && l.line == 0#48)), agenda := [.slot i] }

/-- A word at hart 0's pc, in the physical window that M mode may fetch from. -/
def State.loadHart (s : State) (w : Word) : State :=
  let s := s.modHart 0 fun x => { x with mode := .m, exc := none }
  { s.physWrite (s.localAddr (s.hart 0).pc) (leBytes 4 w.toNat) with agenda := [.hart 0], hubUp := true }

end Sys2Proof.Machine
end

