-- ==== Sys2Proof/Machine/Step.lean ====
section
/-! DEFINITION. One step of the machine. -/

namespace Sys2Proof.Machine

/-- One step: the turn at the head of the agenda, or with an empty agenda the first move of the device that changes the state, with what
follows from it. -/
def step (s : State) : Host.Outcome State Fault Refusal :=
  thenDo (match s.agenda with
    | t :: l => { s with agenda := l }.perform t
    | [] => s.firstMove s.movesFrom 0) s.after

/-- An instruction, numbered as spec/opcode_table.json numbers its bits, placed where the next step fetches it: a hub word at
hart 0's pc, any other in a clause of a wave just created (log 14). Bits above `nbits` are zero. -/
def State.withFetchWord (s : State) (nbits w : Nat) : State :=
  let x := w % 2 ^ nbits
  let word := BitVec.ofNat 32 x
  if word.extractLsb' 22 10 == 0#10 then s.loadHart word
  else s.loadClause word [BitVec.ofNat 32 (x >>> 32), BitVec.ofNat 32 (x >>> 64)]

end Sys2Proof.Machine
end

