-- ==== Sys2Proof/Safety.lean ====
section
/-! DEFINITION. What counts as a safe run of the machine, and the terms in which the statements speak of it. -/

namespace Sys2Proof.Machine

/-- A state from which no run of the machine stops with a fault. -/
def State.safe (s : State) : Prop := ∀ k r, Host.Core.run Sys2Proof.core k s ≠ .fault r

/-- Memory, the teams' scratchpads and the named regions are in their canonical form. -/
def State.memOk (s : State) : Bool :=
  Memory.wf s.mem && s.teams.all (fun t => Memory.wf t.scratch) && s.saved.all (fun v => Memory.wf v.team.scratch) &&
    s.nrgs.all fun e => Memory.wf e.2

/-! ## A slot that issues -/

/-- The issuer whose slot is performed sees `v` and owns its pipelines; no check of steps 2 to 5 of spec/02_encoding R62 stops the
slot, no source of an active lane is an empty latch or an unbound port (of the lowest active lane alone, where the slot reads no other's),
and no wait of R59 or R60 holds it. -/
structure Issues (s : State) (v : View) (sl : Slot) : Prop where
  view : s.cur.bind s.view = some v
  owns : v.thr.st = .owning
  lanes : v.act ≠ []
  word : checkWord s v sl = none
  srcs : ∀ i ∈ v.act, (sl.lowest = true → i = v.low) → ∀ l, v.w.lanes[i]? = some l → ∀ x ∈ sl.srcs, laneSrcBad l x = false
  priv : sl.priv = true → v.w.ctx = 0#12
  free : v.thr.busy sl = false

/-- The elements that the slot's port sources take in some lanes (07_keyring R256), and the state once they are taken; none where a
port cannot be supplied and the slot parks. A slot without port sources takes nothing. -/
def State.takes (s : State) (v : View) (sl : Slot) (lanes : List Nat) : Option (State × List (Nat × Word × Word)) :=
  if sl.ports = [] then some (s, lanes.map fun i => (i, 0#32, 0#32))
  else (State.popAll v.w (sl.ports.flatMap fun q => lanes.map fun i => (i, q)) s).map fun e =>
    (e.1, lanes.mapIdx fun j i => (i, lanePops sl e.2 lanes.length j))

/-- Lane `i` of the wave named `u`. -/
def State.lane? (s : State) (u i : Nat) : Option Lane := (s.wave? u).bind (·.lanes[i]?)

/-- The lanes that took elements changed by `g`, which is given its number and those elements, and nothing else; the slot is then done. -/
def State.laneStep (s : State) (v : View) (sl : Slot) (l : List (Nat × Word × Word))
    (g : Nat → Word → Word → Lane → Lane) : State :=
  (s.setLanes v.w.uid (l.filterMap fun e => (s.lane? v.w.uid e.1).map fun x => (e.1, g e.1 e.2.1 e.2.2 x))).advance v.iss (1 + sl.nlits)

/-- An instruction completes by changing each active lane by `g`, wherever its slot issues, its ports can be supplied, every active
lane meets `ok`, and with the elements it took `val`. -/
def CompletesWhen (i : Instr) (sl : Slot) (ok : Lane → Prop) (val : Word → Word → Lane → Prop) (g : Word → Word → Lane → Lane) : Prop :=
  ∀ (s s' : State) (v : View) (l : List (Nat × Word × Word)), Issues s v sl → s.takes v sl v.act = some (s', l) →
    (∀ k ∈ v.act, ∀ x, s.lane? v.w.uid k = some x → ok x) →
    (∀ e ∈ l, ∀ x, s'.lane? v.w.uid e.1 = some x → val e.2.1 e.2.2 x) → exec i s = .next (s'.laneStep v sl l fun _ => g)

/-- The same with no condition on the elements taken. -/
def Completes (i : Instr) (sl : Slot) (ok : Lane → Prop) (g : Word → Word → Lane → Lane) : Prop :=
  CompletesWhen i sl ok (fun _ _ _ => True) g

/-! ## Instructions that lanes perform -/

/-- The lane's source carries a tag where the instruction reads it in the consuming format `t` (02_encoding R51 to R53). -/
def Lane.carries (l : Lane) (fmt : Tag) (x : Src) (p : Tag → Prop) : Prop := ∃ r, l.src fmt 0#32 x = .ok r ∧ p r.tag

/-- The bits of a source, `p` being the element popped for a port. -/
def Lane.bits (l : Lane) (fmt : Tag) (p : Word) (x : Src) : Word :=
  match l.src fmt p x with
  | .ok r => r.bits
  | .error _ => 0#32

/-- The tag of a source. -/
def Lane.tagOf (l : Lane) (x : Src) : Tag := (l.srcTag x).getD .i32

/-- The common tag of some sources is `t` and each of them carries it (03_numbers R86). -/
def Lane.agree (l : Lane) (srcs : List Src) (t : Tag) : Prop := l.polyTag srcs = t ∧ ∀ x ∈ srcs, l.carries t x (· = t)

/-- The sources of a tag-polymorphic instruction: its own and, for FMA, register d. -/
def polySrcs (op : Nat) (f : RFmt) : List Src := usedSrcs op f ++ if op = 0x007 then [.reg f.d] else []

/-- A tag-polymorphic instruction: element e of the result is `h` of the elements e of the sources, its tag is `res`, and its flags
are raised (04_pipeline R116). -/
def PolyCompletes (op : Nat) (i : RFmt → Instr) (f : RFmt) (t res : Tag) (h : NumEnv → List Nat → Nat × Flags) : Prop :=
  Completes (i f) (slotR op f) (fun x => x.agree (polySrcs op f) t) fun pa pb x =>
    let ws := ((polySrcs op f).zip [pa, pb, 0#32]).map fun e => x.bits t e.2 e.1
    let r := pack t.width ((List.range t.elems).map fun k => h x.env (ws.map fun w => elem t w k))
    (x.write f.d.toNat f.nw f.hd ⟨BitVec.ofNat 32 r.1, res⟩).raise r.2

/-- An entry of a list of numbers, 0 where there is none. -/
def nth (l : List Int) (k : Nat) : Int := l.getD k 0

/-- 04_pipeline R115 on INT tags but for division: opcode, constructor and the exact integer result of the sources' signed elements. -/
def intTable : List (Nat × (RFmt → Instr) × (List Int → Int)) := [
  (0x002, .add, fun l => nth l 0 + nth l 1), (0x003, .sub, fun l => nth l 0 - nth l 1), (0x004, .mul, fun l => nth l 0 * nth l 1),
  (0x007, .fma, fun l => nth l 0 * nth l 1 + nth l 2), (0x00C, .min, fun l => min (nth l 0) (nth l 1)),
  (0x00D, .max, fun l => max (nth l 0) (nth l 1)), (0x010, .abs, fun l => |nth l 0|), (0x011, .neg, fun l => -nth l 0)]

/-- R115, R118 on INT tags, of the sources' elements as unsigned numbers of `w` bits: opcode, constructor, result and whether DZ is
set. -/
def divTable : List (Nat × (RFmt → Instr) × (Nat → Nat → Nat → Int × Bool)) := [
  (0x008, .div, fun w x y => if y = 0 then (-1, true) else ((toSigned w x).tdiv (toSigned w y), false)),
  (0x009, .divu, fun _ x y => if y = 0 then (-1, true) else ((x / y : Nat), false)),
  (0x00A, .rem, fun w x y => if y = 0 then ((x : Int), true) else ((toSigned w x).tmod (toSigned w y), false)),
  (0x00B, .remu, fun _ x y => if y = 0 then ((x : Int), true) else ((x % y : Nat), false)),
  (0x00E, .minu, fun _ x y => ((min x y : Nat), false)), (0x00F, .maxu, fun _ x y => ((max x y : Nat), false))]

/-- R115, R117 on FLT tags: opcode, constructor and the exact result of the sources' values, with the flags of a special case. -/
def fltTable : List (Nat × (RFmt → Instr) × (Mode → List Val → Exact × Flags)) := [
  (0x002, .add, fun md l => (exactSum md (l.take 2), 0#6)),
  (0x003, .sub, fun md l => (exactSum md [l.headD .nan, (l.getD 1 .nan).neg], 0#6)),
  (0x004, .mul, fun _ l => (((l.headD .nan).mul (l.getD 1 .nan)).exact, 0#6)),
  (0x007, .fma, fun md l => (exactSum md [(l.headD .nan).mul (l.getD 1 .nan), l.getD 2 .nan], 0#6)),
  (0x008, .div, fun _ l => (l.headD .nan).div (l.getD 1 .nan)),
  (0x011, .neg, fun _ l => ((l.headD .nan).neg.exact, 0#6)),
  (0x027, .sqrt, fun _ l => ((l.headD .nan).sqrt, 0#6)),
  (0x028, .rcp, fun _ l => (Val.fin false 1 0).div (l.headD .nan)),
  (0x029, .exp2, fun _ l => ((l.headD .nan).exp2, 0#6)),
  (0x02A, .log2, fun _ l => (l.headD .nan).log2)]

/-- R117: MIN, MAX and ABS on FLT tags: opcode, constructor and the value chosen, NaN where an operand is. -/
def fltPickTable : List (Nat × (RFmt → Instr) × (List Val → Val)) := [
  (0x00C, .min, fun l => match (l.headD .nan).less (l.getD 1 .nan) with
    | none => .nan | some true => l.headD .nan | some false => l.getD 1 .nan),
  (0x00D, .max, fun l => match (l.headD .nan).less (l.getD 1 .nan) with
    | none => .nan | some true => l.getD 1 .nan | some false => l.headD .nan),
  (0x010, .abs, fun l => match l.headD .nan with | .nan => .nan | .inf _ => .inf false | .fin _ n e => .fin false n e)]

/-- R119 on BLK tags: the exact result of the mantissas. -/
def blkTable : List (Nat × (RFmt → Instr) × (List Int → Int)) := [
  (0x002, .add, fun l => nth l 0 + nth l 1), (0x003, .sub, fun l => nth l 0 - nth l 1), (0x011, .neg, fun l => -nth l 0),
  (0x00C, .min, fun l => min (nth l 0) (nth l 1)), (0x00D, .max, fun l => max (nth l 0) (nth l 1))]

/-- R119 on the tag SCALE: bits 8:0 compared as unsigned numbers. -/
def scaleTable : List (Nat × (RFmt → Instr) × (Nat → Nat → Nat)) := [
  (0x00C, .min, min), (0x00D, .max, max), (0x00E, .minu, min), (0x00F, .maxu, max)]

/-- R122: opcode, constructor, admitted classes, and when the relation holds of two elements of a tag, with the flags. -/
def cmpTable : List (Nat × (RFmt → Instr) × (Tag → Bool) × (NumEnv → Tag → Nat → Nat → Bool × Flags)) :=
  let lt (x y : Val) : Bool := !x.eqv y && x.less y == some true
  let un (x y : Val) : Bool := x == .nan || y == .nan
  let v (e : NumEnv) (t : Tag) (x : Nat) : Val := t.fmt.decode e.ftz x
  [(0x020, .cmpEq, admitI, fun _ _ x y => (decide (x = y), 0#6)),
   (0x021, .cmpNe, admitI, fun _ _ x y => (decide (x ≠ y), 0#6)),
   (0x022, .cmpLt, admitI, fun _ t x y => (decide (toSigned t.width x < toSigned t.width y), 0#6)),
   (0x023, .cmpLe, admitI, fun _ t x y => (decide (toSigned t.width x ≤ toSigned t.width y), 0#6)),
   (0x024, .cmpLtu, admitI, fun _ _ x y => (decide (x < y), 0#6)),
   (0x025, .cmpLeu, admitI, fun _ _ x y => (decide (x ≤ y), 0#6)),
   (0x020, .cmpEq, admitF, fun e t x y => ((v e t x).eqv (v e t y), 0#6)),
   (0x021, .cmpNe, admitF, fun e t x y => (!(v e t x).eqv (v e t y), 0#6)),
   (0x022, .cmpLt, admitF, fun e t x y => (lt (v e t x) (v e t y), flagIf (un (v e t x) (v e t y)) flagInv)),
   (0x023, .cmpLe, admitF, fun e t x y =>
     (lt (v e t x) (v e t y) || (v e t x).eqv (v e t y), flagIf (un (v e t x) (v e t y)) flagInv)),
   (0x026, .cmpUn, admitF, fun e t x y => (un (v e t x) (v e t y), 0#6))]

/-- R120: the field of `a` that `b` names: position and width. -/
def fieldPos (b : Word) : Nat := b.toNat % 32
def fieldWidth (b : Word) : Nat := min (b.toNat / 32 % 64) 32

/-- A word given by its bits. -/
def wordOf (g : Nat → Bool) : Word := BitVec.ofFnLE fun i : Fin 32 => g i.val

/-- R120, two sources: opcode, constructor, whether b is a count, the result's tag where it is not that of a, and the result. -/
def bitTable : List (Nat × (RFmt → Instr) × Bool × Option Tag × (Word → Word → Word)) := [
  (0x012, .and, false, none, fun a b => a &&& b), (0x013, .or, false, none, fun a b => a ||| b),
  (0x014, .xor, false, none, fun a b => a ^^^ b), (0x015, .andn, false, none, fun a b => a &&& ~~~b),
  (0x016, .shl, true, none, fun a b => a <<< (b.toNat % 32)), (0x017, .shr, true, none, fun a b => a >>> (b.toNat % 32)),
  (0x018, .sra, true, none, fun a b => a.sshiftRight (b.toNat % 32)),
  (0x019, .rot, true, none, fun a b => wordOf fun i => a.getLsbD ((i + b.toNat) % 32)),
  (0x01C, .bfx, true, some .i32, fun a b => wordOf fun i => i < fieldWidth b && a.getLsbD (fieldPos b + i)),
  (0x01D, .bfxs, true, some .i32, fun a b => wordOf fun i =>
    0 < fieldWidth b && a.getLsbD (fieldPos b + min i (fieldWidth b - 1)))]

/-- A source read as 32-bit words: any tag but NONE, or I32 where it is a count. -/
def Lane.readable (l : Lane) (count : Bool) (x : Src) : Prop := l.carries .i32 x fun t => if count then t = .i32 else t ≠ .none

/-- R124, R128: the element that an index names. -/
def pickElem (t : Tag) (a b : Word) : Nat := elem t a (b.toNat % t.elems)

/-- R125: opcode, constructor, element width, tag, whether d is shifted up, and c on an element of I32 or F32 with its flags. -/
def packTable : List (Nat × (RFmt → Instr) × Nat × Tag × Bool × (NumEnv → Tag → Nat → Nat × Flags)) :=
  let v (e : NumEnv) (t : Tag) (x : Nat) : Val :=
    if t = .f32 then fp32.decode e.ftz x else .fin (toSigned 32 x < 0) (toSigned 32 x).natAbs 0
  let i (w : Nat) (e : NumEnv) (t : Tag) (x : Nat) : Nat × Flags :=
    if t = .f32 then (wrap w (toInt e.md w (fp32.decode e.ftz x)).1, (toInt e.md w (fp32.decode e.ftz x)).2)
    else (wrap w (clamp w (toSigned 32 x)).1, flagIf (clamp w (toSigned 32 x)).2 flagSat)
  [(0x02D, .cvtBf16x2, 16, .bf16x2, false, fun e t x => toFloat bf16 e.md e.ftz false (v e t x)),
   (0x02E, .cvtF16x2, 16, .f16x2, false, fun e t x => toFloat fp16 e.md e.ftz false (v e t x)),
   (0x033, .cvtI16x2, 16, .i16x2, false, i 16),
   (0x02F, .cvtE4m3x4, 8, .e4m3x4, true, fun e t x => toFloat e4m3 e.md e.ftz false (v e t x)),
   (0x030, .cvtE4m3x4Sat, 8, .e4m3x4, true, fun e t x => toFloat e4m3 e.md e.ftz true (v e t x)),
   (0x031, .cvtE5m2x4, 8, .e5m2x4, true, fun e t x => toFloat e5m2 e.md e.ftz false (v e t x)),
   (0x032, .cvtI8x4, 8, .i8x4, true, i 8)]

/-! ## Instructions that the wave performs once, and control transfer -/

/-- A slot that issues and whose elements, where its sources are ports, are taken in the lowest active lane, which is then `x`. -/
structure Reads (s : State) (v : View) (sl : Slot) (s' : State) (pa pb : Word) (x : Lane) : Prop where
  issues : Issues s v sl.once
  takes : s.takes v sl [v.low] = some (s', [(v.low, pa, pb)])
  lane : s'.lane? v.w.uid v.low = some x

/-- Every active lane changed by `g`. -/
def State.eachLane (s : State) (v : View) (g : Lane → Lane) : State := v.act.foldl (fun s i => s.modLane v.w.uid i g) s

/-- R106: the control words that a lane owns, by number, as CWR reads them. -/
def laneWords : List (Nat × (Lane → Word)) := [
  (0x00, Lane.frm), (0x01, Lane.flags), (0x02, Lane.qsc), (0x03, Lane.ftz), (0x10, Lane.trapvec), (0x11, Lane.trapcause),
  (0x12, Lane.trapaddr), (0x13, Lane.traplanes), (0x14, Lane.epc), (0x15, Lane.divthr), (0x17, Lane.regxwait), (0x19, Lane.msgsrc)]

/-- A TRAPCAUSE with bits 11:0 of a word and the RO bits 13:12 of another. -/
def keepRo (w old : Word) : Word := wordOf fun i => if i < 12 then w.getLsbD i else i < 14 && old.getLsbD i

/-- R106, R108: the control words that a CWW writes in its lane: number, the values allowed, and what is written. The RO fields of
TRAPCAUSE are kept. -/
def cwwTable : List (Nat × (Word → Bool) × (Word → Lane → Lane)) := [
  (0x00, fun w => w.toNat < 4, fun w x => { x with frm := w }), (0x01, fun w => w.toNat < 64, fun w x => { x with flags := w }),
  (0x02, fun w => w.toNat < 512, fun w x => { x with qsc := w }), (0x03, fun w => w.toNat < 2, fun w x => { x with ftz := w }),
  (0x10, fun w => w.toNat % 4 = 0, fun w x => { x with trapvec := w }),
  (0x11, fun w => w.toNat < 2 ^ 14, fun w x => { x with trapcause := keepRo w x.trapcause }),
  (0x12, fun _ => true, fun w x => { x with trapaddr := w }), (0x13, fun _ => true, fun w x => { x with traplanes := w }),
  (0x14, fun w => w.toNat % 4 = 0, fun w x => { x with epc := w }), (0x15, fun w => w.toNat < 16, fun w x => { x with divthr := w }),
  (0x17, fun _ => true, fun w x => { x with regxwait := w })]

/-- The entry of a control word's number that a value may be written to. -/
def cwwEntry (n : Nat) (w : Word) : Option (Nat × (Word → Bool) × (Word → Lane → Lane)) :=
  cwwTable.find? fun e => e.1 == n && e.2.1 w

/-- R57: the test of a condition on the bits of a register. -/
def condTest (cond : BitVec 4) (x : Word) : Prop :=
  match cond.toNat with
  | 1 => x = 0#32
  | 2 => x ≠ 0#32
  | 3 => x.toInt < 0
  | 4 => 0 ≤ x.toInt
  | 5 => 0 < x.toInt
  | 6 => x.toInt ≤ 0
  | _ => False

/-- R131: the address of the word after the last slot of the current clause. -/
def Thread.nextInSequence (t : Thread) : BitVec 54 := t.hdr + BitVec.ofNat 54 (4 * (t.count + 1))

/-- R132: why a lane cannot go to the address in its pair at register `r`. -/
def Lane.jumpFail (x : Lane) (r : Nat) : Option Fail :=
  let a : DWord := (x.reg (r + 1)).bits ++ (x.reg r).bits
  if (x.reg r).tag ≠ .addr ∨ (x.reg (r + 1)).tag ≠ .addr then some ⟨.fmt, none, true⟩
  else if a.toNat % 4 ≠ 0 then some ⟨.align, some a, true⟩
  else if 2 ^ 54 ≤ a.toNat then some ⟨.prot, some a, true⟩
  else none

/-- R133: the point after the current slot of `n` words: the next slot of the clause, or the next header. -/
def Thread.pointAfter (t : Thread) (n : Nat) : BitVec 54 × Nat :=
  if t.count < t.slot + n then (t.nextInSequence, 0) else (t.hdr, t.slot + n)

/-- The trap of every active lane for a fail. -/
def State.allTrap (s : State) (v : View) (sl : Slot) (c : Cause) : State := s.trapAll v sl ⟨c, none, false⟩

/-! ## Memory instructions -/

/-- The lanes that a memory slot performs with the elements they took: those left after a page fault with the elements kept for them
(05_memory R165), or every active lane. -/
def State.memTakes (s : State) (v : View) (sl : Slot) : Option (State × List (Nat × Word × Word)) :=
  if v.thr.replay = 0#32 then s.takes v sl v.act else some (s, v.todo.map fun i => (i, assocGet v.thr.replayVals i 0#32, 0#32))

/-- 02_encoding R56: the offset of a lane, its source shifted by sc unless the access synchronises, plus the offset word's displacement. -/
def Lane.offset (x : Lane) (f : MFmt) (sync : Bool) (p : Word) : Word :=
  (if sync then x.bits .i32 p (offsetSrc f) else x.bits .i32 p (offsetSrc f) <<< f.sc.toNat) +
    match f.a with | .lit (some w) => BitVec.ofInt 32 (w.extractLsb' 0 25).toInt | _ => 0#32

/-- A memory slot that issues: no WIN of its window and no acquire or fence of its thread is outstanding (05_memory R190, R197), its elements are taken, and its lanes' data registers and offset
source pass step 6 of R62. The offsets of its lanes are `offs`. -/
structure MemIssues (s : State) (v : View) (sl : Slot) (f : MFmt) (sync : Bool) (ok : Lane → Prop) (s' : State)
    (l : List (Nat × Word × Word)) (offs : List (Nat × Word)) : Prop where
  issues : Issues s v sl
  free : v.thr.winBusy f.w.toNat = false
  order : v.thr.acquiring = false
  takes : s.memTakes v sl = some (s', l)
  ok : ∀ e ∈ l, ∀ x, v.w.lanes[e.1]? = some x → ok x ∧ x.readable true (offsetSrc f)
  offs : offs = l.filterMap fun e => (v.w.lanes[e.1]?).map fun x => (e.1, x.offset f sync e.2.1)

/-- What a memory slot does once the checks of 05_memory R189 have answered for its lanes, in ascending order. Every access passes: the
lanes are performed and the slot is done; a tokened operation stands until it completes, its destinations are pending, and the addresses it
reaches in another package are kept with it. A check fails:
the failing lanes trap with nothing performed. An access stalls at a page that is frozen or being expanded: the slot waits at issue, and a
write to a COMP page has its expansion begun (R160, R166). Some addresses find an invalid or malformed entry: the other lanes are performed
and the thread parks with a FAULT record (R164). -/
def MemDoes (i : Instr) (f : MFmt) (sl : Slot) (m : MemOp) (ok : Lane → Prop) : Prop :=
  ∀ (s s' s1 : State) (v : View) (l : List (Nat × Word × Word)) (offs : List (Nat × Word)) (rs : List (Nat × Resolved)),
    MemIssues s v sl f m.sync ok s' l offs → resolveLanes v f m offs s' = (s1, rs) →
    let traps := rs.filterMap fun e => match e.2 with | .trap x => some (e.1, x) | _ => none
    let ts := rs.filterMap fun e => match e.2 with | .ok t a => some (e.1, t, a) | _ => none
    let faults := rs.filterMap fun e => match e.2 with | .fault a b => some (e.1, a, b) | _ => none
    let p := performLanes v m ts s1
    let stalls := rs.filterMap fun e => match e.2 with | .wait a ps => some (a, ps) | _ => none
    (traps ≠ [] → exec i s = .next (s.trapLanes v sl traps)) ∧
    (traps = [] → stalls ≠ [] → exec i s = .next (if m.kind = .read then s
      else stalls.foldl (fun s e => State.startExpands v.w.ctx e.2 e.1.toNat s) s)) ∧
    (rs.length = ts.length → exec i s = .next
      (((p.1.complete v f.tk (m.opKind (rs.map (·.2))) m.dest p.2.1 p.2.2 (remotes s.pkgid rs)).modThr v.iss fun t =>
        { t with replay := 0#32, replayVals := [] }).advance v.iss (1 + sl.nlits))) ∧
    ∀ (k : Nat) (a : BitVec 54) (bad : Bool) (fs : List (Nat × BitVec 54 × Bool)), faults = (k, a, bad) :: fs →
      rs.length = ts.length + faults.length → exec i s = .next
      ((p.1.complete v 8#4 .load m.dest p.2.1 p.2.2).pageFault v sl a bad
        (match m.kind with | .read => 0 | .write => 1 | .atomic => 2 | .fetch => 3) (k :: fs.map (·.1))
        ((l.filter fun e => (k :: fs.map (·.1)).contains e.1).map fun e => (e.1, e.2.1)))

/-- Little-endian words of some bytes. -/
def wordAt (b : List Byte) (j : Nat) : Word :=
  (b.getD (4 * j + 3) 0#8) ++ (b.getD (4 * j + 2) 0#8) ++ (b.getD (4 * j + 1) 0#8) ++ (b.getD (4 * j) 0#8)

/-- Little-endian halfword of some bytes. -/
def halfAt (b : List Byte) : BitVec 16 := (b.getD 1 0#8) ++ (b.getD 0 0#8)

/-- 05_memory R191, R192, loads of whole words: opcode, constructor, words, tag, and whether the read-only path gives them (LDW.RO). -/
def loadTable : List (Nat × (MFmt → Instr) × Nat × Tag × Bool) := [
  (0x080, .ldI32, 1, .i32, false), (0x081, .ldF32, 1, .f32, false), (0x082, .ldBf16x2, 1, .bf16x2, false), (0x083, .ldF16x2, 1, .f16x2, false),
  (0x084, .ldE4m3x4, 1, .e4m3x4, false), (0x085, .ldE5m2x4, 1, .e5m2x4, false), (0x086, .ldI8x4, 1, .i8x4, false),
  (0x087, .ldI16x2, 1, .i16x2, false), (0x088, .ldBfp8x4, 1, .bfp8x4, false), (0x089, .ldBfp4x8, 1, .bfp4x8, false),
  (0x08A, .ldBfp2x16, 1, .bfp2x16, false), (0x091, .ldqI32, 4, .i32, false), (0x092, .ldqF32, 4, .f32, false),
  (0x093, .ldwI32, 8, .i32, false), (0x094, .ldwF32, 8, .f32, false), (0x095, .ldwRoI32, 8, .i32, true),
  (0x096, .ldwRoF32, 8, .f32, true), (0x0A1, .ldwRoI32Edfen1, 8, .i32, true), (0x0B2, .ldwRoF32Edfen1, 8, .f32, true)]

/-- R191, loads of a byte or a halfword: opcode, constructor, bytes, tag and the register's bits. -/
def narrowTable : List (Nat × (MFmt → Instr) × Nat × Tag × (List Byte → Word)) := [
  (0x08B, .ldScale, 2, .scale, fun b => (halfAt b).setWidth 32 &&& 511#32), (0x08D, .ldSb, 1, .i32, fun b => (b.getD 0 0#8).signExtend 32),
  (0x08E, .ldZb, 1, .i32, fun b => (b.getD 0 0#8).setWidth 32), (0x08F, .ldSh, 2, .i32, fun b => (halfAt b).signExtend 32),
  (0x090, .ldZh, 2, .i32, fun b => (halfAt b).setWidth 32)]

/-- A load of `n` bytes into the registers that `regs` gives. -/
def loadSpec (n align : Nat) (path : View → ReadPath) (dest : List Nat) (regs : List Byte → List (Nat × Reg)) : MemOp :=
  { bytes := n, align := align, kind := .read, sync := false, dest := dest, check := fun _ => .ok (),
    perform := fun s v i _ t => ((s.readTarget v i (path v) n t).1, (s.readTarget v i (path v) n t).2.map regs) }

/-- R193, R194: opcode, constructor, words, bytes stored, whether d may be NONE, and whether the store is a release. -/
def storeTable : List (Nat × (MFmt → Instr) × Nat × Nat × Bool × Bool) := [
  (0x098, .st, 1, 4, true, false), (0x099, .stB8, 1, 1, false, false), (0x09A, .stB16, 1, 2, false, false), (0x09B, .stq, 4, 16, false, false),
  (0x09C, .stw, 8, 32, false, false), (0x09D, .str, 1, 4, false, true)]

/-- The first `n` bytes of the registers from d up. -/
def Lane.data (x : Lane) (d words n : Nat) : List Byte :=
  ((List.range words).flatMap fun j => (List.range 4).map fun b => (x.reg (d + j)).bits.extractLsb' (8 * b) 8).take n

/-- A store of `n` bytes, which a release writes the lane's L1 back before. -/
def storeSpec (d words n : Nat) (release : Bool) : MemOp :=
  { bytes := n, align := min n 4, kind := .write, sync := release, dest := [], check := fun _ => .ok (),
    perform := fun s v i x t =>
      if s.targetFenced t then (s, none)
      else ((if release ∧ t.unordered = false then s.l1Release [v.w.pipeOf i] else s).writeTarget v i release (x.data d words n) t, some []) }

/-- R195: opcode, constructor, the tag v must carry (any but NONE otherwise), the tag of d after, and the new value from the old one. -/
def atomicTable : List (Nat × (MFmt → Instr) × Option Tag × (Tag → Tag) × (Word → Word → Word)) := [
  (0x09E, .aadd, some .i32, fun _ => .i32, fun old v => old + v),
  (0x09F, .aaddF32, some .f32, fun _ => .f32, fun old v =>
    BitVec.ofNat 32 (fp32.deliver .rne false (exactSum .rne [fp32.decode false old.toNat, fp32.decode false v.toNat])).1),
  (0x0A0, .amin, some .i32, fun _ => .i32, fun old v => if v.toInt < old.toInt then v else old),
  (0x0A2, .amax, some .i32, fun _ => .i32, fun old v => if old.toInt < v.toInt then v else old),
  (0x0A3, .aminu, some .i32, fun _ => .i32, fun old v => if v.toNat < old.toNat then v else old),
  (0x0A4, .amaxu, some .i32, fun _ => .i32, fun old v => if old.toNat < v.toNat then v else old),
  (0x0A5, .aand, none, fun _ => .i32, fun old v => old &&& v), (0x0A6, .aor, none, fun _ => .i32, fun old v => old ||| v),
  (0x0A7, .axor, none, fun _ => .i32, fun old v => old ^^^ v), (0x0A8, .axchg, none, fun t => t, fun _ v => v)]

/-- The bytes that a write to some pieces of pages stores to: with REPL all eight replicas (R159). -/
def storedBytes (ps : List Piece) : List Nat :=
  ps.flatMap fun x => (if attrRepl x.attr then List.range 8 else [0]).flatMap fun k => (List.range x.len).map fun j => x.pa + k * 2 ^ 37 + j

/-- Memory outside some addresses changes only by the write-back of bytes that L1 lines hold dirty (R167). -/
def State.onlyWritesBack (s t : State) (stored : List Nat) : Prop :=
  ∀ a, a ∉ stored → memGet t.mem a = memGet s.mem a ∨
    ∃ l ∈ s.l1, l.line = a / 128 ∧ l.dirty.getLsbD (a % 128) = true ∧ memGet t.mem a = l.data.extractLsb' (8 * (a % 128)) 8

/-! ## Cross-lane instructions -/

/-- The values of a by lane, in the lanes that took elements (06_group R230). -/
def State.tookVals (s : State) (v : View) (f : RFmt) (l : List (Nat × Word × Word)) : List (Nat × Word) :=
  l.filterMap fun e => (s.lane? v.w.uid e.1).map fun x => (e.1, x.bits .i32 e.2.1 f.a)

/-- 06_group R232: BALLOT, VANY and VALL: opcode, constructor and the result from the active lanes' values. -/
def voteTable : List (Nat × (RFmt → Instr) × (List (Nat × Word) → Word)) := [
  (0x0C7, .ballot, fun l => wordOf fun i => l.any fun e => e.1 == i && e.2 != 0#32),
  (0x0C8, .vany, fun l => if ∃ e ∈ l, e.2 ≠ 0#32 then 0xFFFFFFFF#32 else 0#32),
  (0x0C9, .vall, fun l => if ∀ e ∈ l, e.2 ≠ 0#32 then 0xFFFFFFFF#32 else 0#32)]

/-- R233: the shuffles: opcode, constructor and the source lane of lane i for b in a wave of W lanes, where it lies in the wave. -/
def shuffleTable : List (Nat × (RFmt → Instr) × (Nat → Nat → Nat → Option Nat)) := [
  (0x0CA, .shflIdx, fun _ b w => some (b % w)), (0x0CB, .shflUp, fun i b _ => if b ≤ i then some (i - b) else none),
  (0x0CC, .shflDn, fun i b w => if i + b < w then some (i + b) else none),
  (0x0CD, .shflXor, fun i b w => if i ^^^ b < w then some (i ^^^ b) else none)]

/-- R233: the lane that lane i takes its value from: s where it is an active lane, else itself. -/
def View.shuffleFrom (v : View) (src : Nat → Nat → Nat → Option Nat) (i b : Nat) : Nat :=
  match src i b v.w.width with
  | some k => if k ∈ v.act then k else i
  | none => i

/-- The element that a lane took for a. -/
def tookA (l : List (Nat × Word × Word)) (k : Nat) : Word := ((l.find? (·.1 == k)).map (·.2.1)).getD 0#32

/-- R234: the reductions: opcode, constructor, admitted tags and the result at one element position of the lanes' elements. -/
def rdxTable : List (Nat × (RFmt → Instr) × (Tag → Bool) × LaneFold) := [
  (0x0CE, .rdxAdd, admitIF, sumElem), (0x0CF, .rdxMin, fun t => admitIF t || t == .scale, extremeElem false),
  (0x0D0, .rdxMax, fun t => admitIF t || t == .scale, extremeElem true)]

/-- The lanes of a mask of an attached wave's members: bit i for each i. -/
def fullMask (n : Nat) : Word := wordOf fun i => i < n

/-! ## Pushes and keyrings -/

/-- 07_keyring R265: a push's descriptors 1 and 2 are in order, for the classes that its instruction admits. -/
def descLegal (classes : List (BitVec 4)) (d1 d2 : Word) : Bool :=
  let cls := d1.extractLsb' 16 4
  let op := d1.extractLsb' 20 4
  d1.extractLsb' 28 4 == 0#4 && classes.contains cls && op.toNat < 14 && (op == 13#4) == (cls == 3#4) && (!d1.getLsbD 26 || cls == 3#4) &&
    if cls == 2#4 then d2.extractLsb' 8 15 == 0#15 else d2.extractLsb' 0 24 == 0#24

/-- R265: dest0 is in order. -/
def destLegal (d : Word) : Bool :=
  d.extractLsb' 10 6 == 0#6 && d.extractLsb' 28 4 == 0#4 && (!d.getLsbD 6 || d.extractLsb' 0 6 == 0#6)

/-- R239, R265, 01_ties R29: the push of lane `k` of a wave with descriptors d0 to d2: the durable classes carry the wave's identity and
push sequence number. -/
def pushOf (s : State) (w : Wave) (k : Nat) (ctx : BitVec 12) (d0 d1 d2 : Word) (words : List Word) : Push :=
  let cls := d1.extractLsb' 16 4
  let sel := (d2.extractLsb' 24 8).toNat
  { key := d1.extractLsb' 0 16 ++ d0, cls := cls, op := d1.extractLsb' 20 4, prio := d1.extractLsb' 24 2, car := d1.getLsbD 26,
    stream := if sel = 0 then 0#15 else if sel = 1 then w.stream else BitVec.ofNat 15 sel, target := d2.extractLsb' 0 24, words := words,
    ctx := ctx, ident := if durable cls then some (w.ident, w.seq) else none, attempt := w.attempt, sender := senderWord s w k,
    origin := none, parent := (s.team? w.team).bind (·.grid), counts := false, job := none, spawn := none }

/-- R267: where a push with dest0 goes: NOPEER outside the domain, LINKDOWN to a fenced package (with 13_gateways R421's standby in its
place), else to the keyring it names. -/
def sendBy (s : State) (d : Word) (p : Push) : Sent :=
  let pkg := s.standbyOf (d.extractLsb' 16 12)
  let die := (d.extractLsb' 7 3).toNat
  if !(pkg == s.pkgid || s.domain.contains pkg) then .status .nopeer
  else if s.fenced.contains pkg then .status .linkdown
  else .push (if d.getLsbD 6 then .die die else .cluster die (d.extractLsb' 0 6).toNat) p (if pkg == s.pkgid then none else some pkg)

/-- What a push instruction does: lanes whose record block is not in order trap ILLFLD at step 7 of 02_encoding R62; otherwise every
active lane in ascending order takes its status at once or launches its push, and the slot is done; the pushes launched stand
outstanding until they have their statuses (R59, R60). -/
def PushDoes (i : Instr) (f : EFmt) (sl : Slot) (ret : Returns) (ok : List Word → Bool) (g : State → Wave → Nat → List Word → Sent) : Prop :=
  ∀ (s : State) (v : View), Issues s v sl →
    let bad := v.act.filter fun k => !(v.w.lanes[k]?).any fun x => ok (x.block f)
    let r := pushLanes f v ret (fun s w k x => g s w k (x.block f)) v.act s
    (bad ≠ [] → exec i s = .next (s.trapLanes v sl (bad.map fun k => (k, ⟨.illfld, none, true⟩)))) ∧
    (bad = [] → exec i s = .next ((r.1.awaitPush v f.tk f.d.toNat false r.2).advance v.iss 1))

/-- R241: the operators that fold word by word and raise no flag: code and fold of push word v into record word x. -/
def foldTable : List (BitVec 4 × (Word → Word → Word)) := [
  (1#4, fun x v => x + v), (3#4, fun x v => if v.toInt < x.toInt then v else x), (4#4, fun x v => if x.toInt < v.toInt then v else x),
  (5#4, fun x v => x ||| v), (6#4, fun x v => x &&& v), (9#4, fun _ v => v), (10#4, fun x _ => x)]

/-- R21, R238: the classes that a keyring holds, by number. -/
def heldClasses : KrId → List Nat
  | .cluster _ _ => [1, 2, 3, 4, 5, 6, 8]
  | .die _ => [0, 1, 2, 3, 8]
  | .hub => [0, 3, 7, 9]

/-- R249: a record as a selection delivers it: each 2^16 selections that have passed it have raised its level by one. -/
def Rec.risen (r : Rec) : Rec :=
  let level := min 3 (r.prio.toNat + r.age / 65536)
  { r.deliver with prio := BitVec.ofNat 2 level, age := r.age - (level - r.prio.toNat) * 65536 }

/-- A flight that has not arrived, the first of its name, with no earlier push of its pipeline to its keyring still under way (R245). -/
structure Arriving (s : State) (f : Flight) : Prop where
  found : s.flights.find? (·.k == f.k) = some f
  fresh : f.arrived = none
  here : f.remote = none
  first : s.flightBehind f = false

/-! ## Engine jobs -/

/-- The team of a view's wave. -/
def State.teamOf (s : State) (v : View) : Team := (s.team? v.w.team).getD (Team.fresh 0 0#12 0 0)

/-- A byte address inside the 54-bit space and outside the spill range (05_memory R149). -/
def addrOk (a : Int) : Bool := 0 ≤ a && a < 2 ^ 54 && !(0x3F000000000000 ≤ a && a < 0x3FFFFFFFE00000)

/-- One check of a record block: whether it passes, and the trap where it fails. The address or offset in TRAPADDR of a block with several
misaligned fields, and the end that a range reports, are the model's choice (log 49, log 97). -/
abbrev Check := Bool × Fail

/-- A field's check: ILLFLD. -/
def field (ok : Bool) : Check := (ok, ⟨.illfld, none, true⟩)

/-- ALIGN with an address or an offset. -/
def aligned (q a : Nat) : Check := (a % q == 0, ⟨.align, some (BitVec.ofNat 64 a), true⟩)

/-- PROT of a memory range by its first and its last byte. -/
def inSpace (first last : Int) : List Check :=
  [(addrOk first, ⟨.prot, some (BitVec.ofInt 64 first), true⟩), (addrOk last, ⟨.prot, some (BitVec.ofInt 64 last), true⟩)]

/-- `n` bytes of memory from `a`. -/
def inSpaceN (a n : Nat) : List Check := inSpace a (a + n - 1)

/-- PROT of a scratchpad range with its offset. -/
def inScratch (off : Nat) (ok : Bool) : Check := (ok, ⟨.prot, some (BitVec.ofNat 64 off), true⟩)

/-- A block whose checks all pass. -/
def passes (c : State → View → List Word → List Check) (s : State) (v : View) (b : List Word) : Bool := (c s v b).all (·.1)

/-- A word whose bits outside a mask are zero. -/
def only (w mask : Word) : Bool := w &&& ~~~mask == 0#32

/-- 08_matrix R300, MMA and MMZ. -/
def mmaChecks (s : State) (v : View) (b : List Word) : List Check :=
  let w0 := dw b 0
  let off := (dw b 1).toNat
  [field (only w0 0x7F0FFF#32 && only (dw b 2) 0x3F#32 && fld w0 4 4 ≤ 10 && fld w0 0 4 < (s.teamOf v).tiles &&
    if w0.getLsbD 8 then off == 0 else off < 2 ^ 21 && off % 64 == 0)] ++
  if w0.getLsbD 8 then [] else [inScratch off (off + (fld w0 16 7 + 1) * panelSize (fld w0 4 4) ≤ (s.teamOf v).scratchSize)]

/-- R300, WLD. -/
def wldChecks (_ : State) (_ : View) (b : List Word) : List Check :=
  let w0 := dw b 0
  let k := 32 * (fld w0 16 7 + 1)
  let z := imageZ (fld w0 8 4) (fld w0 12 3) k
  let src := addr2 (dw b 1) (dw b 2)
  let stride := (dw b 3).toNat
  [field (only w0 0x7FFF3F#32 && only (dw b 2) 0x3FFFFF#32 && fld w0 8 4 ≤ 10 && fld w0 12 3 ≤ 5 && (fld w0 12 3 == 0 || k % 96 == 0) &&
    fld w0 0 6 + (z + 8191) / 8192 ≤ 64 && if w0.getLsbD 15 then fld w0 12 3 == 0 && stride % 4 == 0 && 512 ≤ stride else stride == 0)] ++
  inSpace src (if w0.getLsbD 15 then src + (k - 1) * stride + 511 else src + z - 1) ++ [aligned 64 src]

/-- R300, ACO and ACI: the formats from `lo`, and the bits that may be set. -/
def tileChecks (aco : Bool) (s : State) (v : View) (b : List Word) : List Check :=
  let w0 := dw b 0
  let fmt := fld w0 4 4
  let stride := (dw b 3).toNat
  let d := addr2 (dw b 1) (dw b 2)
  let row : Int := d + 127 * stride + rowBytes fmt - 1
  [field (only w0 (if aco then 0xFF01FF#32 else 0xFF#32) && only (dw b 2) 0x3FFFFF#32 && fmt ≤ 11 && (aco || 9 ≤ fmt) &&
    fld w0 0 4 < (s.teamOf v).tiles && stride % 4 == 0 && rowBytes fmt ≤ stride)] ++
  inSpace d (if fmt ≤ 6 then max (d + 128 * stride + 1023) row else row) ++ [aligned 4 d]

/-- R300, ZERO. -/
def zeroChecks (s : State) (v : View) (b : List Word) : List Check :=
  [field (only (dw b 0) 0xF#32 && fld (dw b 0) 0 4 < (s.teamOf v).tiles)]

/-- 09_statespace R329. -/
def sscanChecks (s : State) (v : View) (b : List Word) : List Check :=
  let w0 := dw b 0
  let n := 16 * 2 ^ fld w0 0 2
  let l := fld w0 16 16 + 1
  let base := if w0.getLsbD 6 then addr2 (dw b 2) (dw b 3) else 0
  let parts : List (Word × Nat) := [(dw b 4, 128 * l), (dw b 5, (if w0.getLsbD 5 then 4 else 2) * l), (dw b 6, 4 * n * l), (dw b 7, 128 * l)]
  [field (!w0.getLsbD 15 && only (dw b 1) 0x3F#32 && only (dw b 3) 0x3FFFFF#32 && fld w0 2 3 ≤ 4 && fld w0 8 7 ≤ 64 &&
    (w0.getLsbD 6 || (dw b 2 == 0#32 && dw b 3 == 0#32)) && 4096 * fld (dw b 1) 0 6 + 256 * n ≤ 1024 * (s.teamOf v).stKiB)] ++
  parts.map (fun r => (r.1.toNat % 4 == 0, ⟨.align, some (BitVec.ofNat 64 (base + r.1.toNat)), true⟩)) ++ [aligned 64 base] ++
  parts.flatMap fun r => if w0.getLsbD 6 then inSpaceN (base + r.1.toNat) r.2 else [inScratch r.1.toNat (r.1.toNat + r.2 ≤ (s.teamOf v).scratchSize)]

/-- R331. -/
def ssCopyChecks (s : State) (v : View) (b : List Word) : List Check :=
  let w0 := dw b 0
  let len := 4096 * fld w0 8 7
  let a := addr2 (dw b 1) (dw b 2)
  [field (only w0 0x17F3F#32 && only (dw b 2) 0x3FFFFF#32 && (w0.getLsbD 16 || dw b 2 == 0#32) && 0 < len && len ≤ 64 * 4096 &&
    4096 * fld w0 0 6 + len ≤ 1024 * (s.teamOf v).stKiB), aligned 64 a] ++
  if w0.getLsbD 16 then inSpaceN a len else [inScratch (dw b 1).toNat (a + len ≤ (s.teamOf v).scratchSize)]

/-- 12_stack R403: a source in memory or in the scratchpad. -/
def sourceOk (s : State) (v : View) (sp : Bool) (a n : Nat) : List Check := if sp then [inScratch a (a + n ≤ (s.scratchOf v.w).2)] else inSpaceN a n

/-- R403, the sector forms. -/
def sredChecks (s : State) (v : View) (b : List Word) : List Check :=
  let sp := (dw b 0).getLsbD 20
  let n := 32 * (fld (dw b 0) 0 20 + 1)
  [field (only (dw b 0) 0x1FFFFF#32 && only (dw b 2) 0x3FFFFF#32 && only (dw b 4) 0x3FFFFF#32 && (!sp || (dw b 4 == 0#32 && !v.w.gw))),
    aligned 32 (addr2 (dw b 1) (dw b 2)), aligned 32 (addr2 (dw b 3) (dw b 4))] ++
  inSpaceN (addr2 (dw b 1) (dw b 2)) n ++ sourceOk s v sp (addr2 (dw b 3) (dw b 4)) n

/-- R403, BADD. -/
def baddChecks (s : State) (v : View) (b : List Word) : List Check :=
  let sp := (dw b 0).getLsbD 20
  let u := fld (dw b 0) 0 20 + 1
  let n := fld (dw b 0) 24 3 + 2
  [field (only (dw b 0) 0x71FFFFF#32 && [2, 4, 6, 8].all (fun k => only (dw b k) 0x3FFFFF#32) && n ≤ 8 &&
      (!sp || (dw b 4 == 0#32 && dw b 8 == 0#32 && !v.w.gw))), aligned 4 (addr2 (dw b 1) (dw b 2)), aligned 4 (addr2 (dw b 3) (dw b 4)),
    aligned 2 (addr2 (dw b 5) (dw b 6)), aligned 2 (addr2 (dw b 7) (dw b 8))] ++
  inSpaceN (addr2 (dw b 1) (dw b 2)) (4 * n * u) ++ sourceOk s v sp (addr2 (dw b 3) (dw b 4)) (4 * n * u) ++
  inSpaceN (addr2 (dw b 5) (dw b 6)) (2 * u) ++ sourceOk s v sp (addr2 (dw b 7) (dw b 8)) (2 * u)

/-- R404. -/
def sgathChecks (_ : State) (_ : View) (b : List Word) : List Check :=
  let u := fld (dw b 0) 0 16 + 1
  let rl := 32 * (fld (dw b 0) 16 8 + 1)
  let st := (dw b 3).toNat
  [field (only (dw b 0) 0xFFFFFF#32 && [2, 6, 8].all (fun k => only (dw b k) 0x3FFFFF#32)), aligned 32 (addr2 (dw b 1) (dw b 2)), aligned 32 st,
    aligned 4 (addr2 (dw b 5) (dw b 6)), aligned 32 (addr2 (dw b 7) (dw b 8))] ++
  (if dw b 4 = 0#32 then [] else inSpaceN (addr2 (dw b 1) (dw b 2)) (((dw b 4).toNat - 1) * st + rl)) ++
  inSpaceN (addr2 (dw b 5) (dw b 6)) (4 * u) ++ inSpaceN (addr2 (dw b 7) (dw b 8)) (rl * u)

/-- R405. -/
def sconvChecks (_ : State) (_ : View) (b : List Word) : List Check :=
  let u := fld (dw b 0) 0 20 + 1
  let sf := fld (dw b 0) 20 2
  let df := fld (dw b 0) 24 2
  let n := fld (dw b 0) 28 3 + 2
  let bits (f : Nat) : Nat := if f = 0 then 32 else if f = 1 then 16 else n
  [field (only (dw b 0) 0x733FFFFF#32 && [2, 4, 6, 8].all (fun k => only (dw b k) 0x3FFFFF#32) && sf != df && n ≤ 8 &&
      (if sf < 2 && df < 2 then n == 2 else true) && (if sf == 2 || df == 2 then n == 2 || n == 4 || n == 8 else true) &&
      (2 ≤ sf || (dw b 5 == 0#32 && dw b 6 == 0#32)) && (2 ≤ df || (dw b 7 == 0#32 && dw b 8 == 0#32))),
    aligned 4 (addr2 (dw b 1) (dw b 2)), aligned 4 (addr2 (dw b 3) (dw b 4)), aligned 2 (addr2 (dw b 5) (dw b 6)),
    aligned 2 (addr2 (dw b 7) (dw b 8))] ++
  inSpaceN (addr2 (dw b 1) (dw b 2)) (4 * bits sf * u) ++ inSpaceN (addr2 (dw b 3) (dw b 4)) (4 * bits df * u) ++
  (if sf < 2 then [] else inSpaceN (addr2 (dw b 5) (dw b 6)) (2 * u)) ++ if df < 2 then [] else inSpaceN (addr2 (dw b 7) (dw b 8)) (2 * u)

/-- What a job instruction does with the record block of its lowest active lane: the first of its checks to fail traps every active lane
(the model's choice, log 30); a block that passes them waits at issue, or is pushed. -/
def JobDoes (i : Instr) (f : EFmt) (sl : Slot) (gwOk : Bool) (pre : View → List Word → Prop)
    (checks : State → View → List Word → List Check) (waits : State → View → List Word → Bool) (push : State → View → List Word → State) : Prop :=
  ∀ (s : State) (v : View), Issues s v sl → pre v (v.block f) →
    (v.w.gw = true → gwOk = false → exec i s = .next (s.trapAll v sl ⟨.illfld, none, true⟩)) ∧
    ((v.w.gw = true → gwOk = true) →
      (∀ c, (checks s v (v.block f)).find? (fun c => !c.1) = some c → exec i s = .next (s.trapAll v sl c.2)) ∧
      (passes checks s v (v.block f) = true → exec i s = .next (if waits s v (v.block f) then s else push s v (v.block f))))

/-- The record that a job instruction captures: its words, where it runs and, for an SSCAN, the resolved T (09_statespace R311). -/
def capturedJob (s : State) (v : View) (e : Engine) (op n : Nat) (b : List Word) (wins : List Window) : JobDesc :=
  { eng := e, op := op, ctx := v.w.ctx, team := v.w.team, id := 0, serial := 0, desc := b, place := whereWord s v.w v.low, wins := wins, n := n,
    region := (s.team? v.w.team).bind (·.region) }

/-- 10_copy R352, R353: the sides of a copy in order: window, offset, and the size and stride of each dimension. -/
def copyShape (op : Nat) (b : List Word) : List (Nat × Word × List (Nat × Int)) :=
  let w0 := dw b 0
  let dims (k : Nat) := (List.range (fld w0 6 3)).map fun d => (fld (dw b (4 + 3 * d)) 0 17, (dw b (4 + 3 * d + k)).toInt)
  let table (w : Nat) := (w, dw b 1, [((dw b 3).toNat, (dw b 2).toInt)])
  let packed (w : Nat) := (w, dw b 4, [(fld (dw b 8) 0 17, (dw b 5).toInt)])
  if op = 0x110 then (fld w0 0 3, dw b 1, dims 1) :: (if w0.getLsbD 16 then [] else [(fld w0 3 3, dw b 2, dims 2)])
  else if op = 0x111 then [table (fld w0 0 3), packed (fld w0 3 3)] else [packed (fld w0 0 3), table (fld w0 3 3)]

/-- R352, R353: rows, and the bytes of each. -/
def copyCount (op : Nat) (b : List Word) : Nat :=
  if op = 0x110 then ((List.range (fld (dw b 0) 6 3)).map fun d => fld (dw b (4 + 3 * d)) 0 17).prod else fld (dw b 8) 0 17
def copyLen (op : Nat) (b : List Word) : Nat := fld (dw b (if op = 0x110 then 3 else 6)) 0 17

/-- R352, R353: the fields and the count of a descriptor are in order. -/
def copyFieldsLegal (op : Nat) (b : List Word) : Bool :=
  let w0 := dw b 0
  let nd := fld w0 6 3
  let rl := copyLen op b
  let n := copyCount op b
  let pf := w0.getLsbD 16
  let ir := w0.getLsbD 6
  let fv := w0.getLsbD 7
  rl % 4 == 0 && 0 < rl && rl ≤ 65536 && [0, 1, 3, 7, 15].contains (fld w0 12 4) &&
    if op = 0x110 then
      nd < 7 && b.length == 4 + 3 * nd && only w0 0x1FFFF#32 && only (dw b 3) 0x1FFFF#32 && n ≤ 2 ^ 24 &&
      (List.range nd).all (fun d => 0 < (dw b (4 + 3 * d)).toNat && (dw b (4 + 3 * d)).toNat ≤ 65536) &&
      (!pf || (fld w0 3 3 == 0 && fld w0 9 3 == 0 && fld w0 12 4 == 0 && dw b 2 == 0#32 &&
        (List.range nd).all fun d => dw b (6 + 3 * d) == 0#32))
    else
      only w0 (if op = 0x112 then 0xFE7F#32 else 0xFEFF#32) && only (dw b 6) 0x1FFFF#32 && only (dw b 8) 0x1FFFF#32 && 0 < n &&
      n ≤ (if ir then 16 else 65536) && (!ir || dw b 7 == 0#32) && b.length == 9 + (if fv then 1 else 0) + (if ir then n else 0)

/-- R352, R353: the checks of the whole descriptor for the windows it names. -/
def copyChecks (op : Nat) (s : State) (v : View) (b : List Word) : List Check :=
  let sides := copyShape op b
  let wins := sides.map fun x => v.thr.wins[x.1]?.getD Window.invalid
  let pairs := wins.zip sides
  let mask := fld (dw b 0) 12 4
  let rl := copyLen op b
  let address (w : Window) (off : Word) : BitVec 64 := if w.kind then off.setWidth 64 else BitVec.ofInt 64 (w.base.toNat + off.toInt)
  let extent (x : Window × Nat × Word × List (Nat × Int)) : Int × Int :=
    (x.2.2.1.toInt + (x.2.2.2.map fun d => min 0 (((d.1 : Int) - 1) * d.2)).sum,
     x.2.2.1.toInt + (x.2.2.2.map fun d => max 0 (((d.1 : Int) - 1) * d.2)).sum + rl - 1)
  let sized (x : Window × Nat × Word × List (Nat × Int)) : Bool := !x.2.2.2.any fun d => d.1 == 0
  [field (copyFieldsLegal op b), field (mask == 0 || (wins.any (·.kind) && rl % (16 * (mask + 1)) == 0))] ++
  pairs.map (fun x => inScratch x.2.2.1.toNat x.1.valid) ++
  pairs.map (fun x =>
    let q : Nat := if mask != 0 && x.1.kind then 16 else 4
    (x.2.2.1.toNat % q == 0 && x.2.2.2.all (fun d => d.2 % q == 0) && (x.1.kind || x.1.base.toNat % 4 == 0),
      ⟨.align, some (address x.1 x.2.2.1), true⟩)) ++
  (pairs.filter fun x => x.1.kind && sized x).map (fun x =>
    inScratch x.2.2.1.toNat (0 ≤ (extent x).1 && (extent x).2 < x.1.limit.toNat)) ++
  (pairs.filter fun x => !x.1.kind && sized x).flatMap (fun x => inSpace (x.1.base.toNat + (extent x).1) (x.1.base.toNat + (extent x).2)) ++
  if op = 0x110 ∨ (dw b 0).getLsbD 6 = true then [] else
    [aligned 4 (dw b 7).toNat, inScratch (dw b 7).toNat ((dw b 7).toNat + 4 * copyCount op b ≤ (s.scratchOf v.w).2)]

/-- 08_matrix R288: the entry of the most recent job that bore an identifier, where the table still has it: identifiers come again after
65,535 jobs. -/
def JobTab.latest (t : JobTab) (id : Nat) : Option JobEnt := t.ents.reverse.find? fun x => x.id == id && t.issued < x.serial + 65535

/-- 08_matrix R290, R302: what a wait or query finds for identifier `id`: its completion word, EXP or NOJOB. -/
def completionOf (t : JobTab) (e : Engine) (id : Nat) : Word :=
  match t.latest id with
  | some x => x.word e
  | none => if 1 ≤ id ∧ id ≤ t.issued then 8#32 else 16#32

/-- A job instruction of register format whose one action reads a and b. -/
def ReadsAB (s : State) (v : View) (sl : Slot) (f : RFmt) (s' : State) (a b : Word) : Prop :=
  ∃ (pa pb : Word) (x : Lane), Reads s v sl s' pa pb x ∧ x.readable true f.a ∧ x.readable true f.b ∧ a = x.bits .i32 pa f.a ∧
    b = x.bits .i32 pb f.b

/-! ## Engine events -/

/-- A job that an engine's end event may end: past its reads or faulted, not stalled, on a running die, with every earlier job it
conflicts with ended (08_matrix R289). -/
structure Ending (s : State) (die clu k : Nat) (ops : List Nat) (areas : Job → List Area) (j : Job) : Prop where
  found : s.jobs.find? (·.k == k) = some j
  op : j.d.op ∈ ops
  onDie : j.die = die
  onClu : j.clu = clu
  read : j.rd = true ∨ j.fault.isSome = true
  going : j.stalled = false
  up : s.running.contains die = true
  free : s.jobFree areas j = true

/-- A job of an engine that its read event may let read. -/
structure Reading (s : State) (e : Engine) (die clu k : Nat) (areas : Job → List Area) (j : Job) : Prop where
  found : s.jobs.find? (·.k == k) = some j
  eng : j.d.eng = e
  onDie : j.die = die
  onClu : j.clu = clu
  read : j.rd = false
  going : j.stalled = false
  fault : j.fault = none
  up : s.running.contains die = true
  free : s.jobFree areas j = true

/-- 03_numbers R89, R90: the mantissa of element `i` of a block of width `n`: BFP-E (format 2) in element order, BFP-P in bit planes of 32
elements. -/
def mantAt (fmt n : Nat) (l : List Byte) (i : Nat) : Int :=
  toSigned n (if fmt = 2 then leNat l / 2 ^ (n * i) % 2 ^ n
    else ((List.range n).map fun k => if (wordAt l k).getLsbD i then 2 ^ k else 0).sum)

/-! ## Schedulers -/

/-- 11_schedulers R386: a control word: bearing 0 to 10, PRIO and a stream selector. -/
def ctlLegal (w : Word) : Bool := only w 0xFF030F#32 && fld w 0 4 ≤ 10

/-- R357: an entry header's two words. -/
def entryLegal (lo hi : Word) : Bool := lo.toNat % 4 == 0 && only hi 0x3FFFFF#32

/-- R358: FOOT. -/
def footLegal (w : Word) : Bool :=
  w.toNat < 2 ^ 28 && fld w 4 10 ≤ 512 && fld w 14 5 ≤ 16 && fld w 19 9 ≤ 256 && fld w 19 9 % 4 == 0

/-- R358: the payload of a LAUNCH record. -/
def launchLegal (p : List Word) : Bool :=
  entryLegal (dw p 0) (dw p 1) && footLegal (dw p 2) && 0 < (dw p 4).toNat && 0 < (dw p 5).toNat && 0 < (dw p 6).toNat &&
    (dw p 4).toNat * (dw p 5).toNat * (dw p 6).toNat ≤ 2 ^ 32 && only (dw p 7) 0xFFFF011F#32 && only (dw p 9) 0x3FFFFF#32 &&
    (fld (dw p 7) 16 16 == 0 || (dw p 11 ++ dw p 10 : DWord).toNat % 2 ^ 18 == 0)

/-- R10, R359: a footprint that no cluster without named regions could hold. -/
def tooLarge (foot : Word) (waves : Nat) : Bool :=
  let w := [1, 8, 16, 32].getD (fld foot 0 2) 32
  let regs := 8 * (fld foot 2 2 + 1)
  [32, 32, 16, 8].getD (fld foot 0 2) 8 < waves || 32 / w * min 8 (512 / regs) < waves

/-- The record of a SPAWN or a carrier: word 0, the control word, the stream, and from word `k` of the block ENTRY, FOOT, the energy
estimate and the arguments (R374). -/
def spawnWords (w : Wave) (b : List Word) (k : Nat) (w0 : Word) : List Word :=
  let ctl := dw b 0
  let sel := fld ctl 16 8
  let st : BitVec 15 := if sel = 0 then 0#15 else if sel = 1 then w.stream else BitVec.ofNat 15 sel
  [w0, BitVec.ofNat 32 (fld ctl 0 4 + fld ctl 8 2 * 16 + st.toNat * 65536)] ++ (b.drop k).take 4 ++ (b.drop (k + 4) ++ List.replicate 6 0#32).take 6

/-- R374, R387: the push of a SPAWN record or a carrier by a wave. -/
def spawnPush (s : State) (v : View) (b : List Word) (k : Nat) (key : BitVec 48) (cls op : BitVec 4) (car : Bool) (prio : BitVec 2)
    (stream : BitVec 15) (target : BitVec 24) (w0 : Word) : Push :=
  { key := key, cls := cls, op := op, prio := prio, car := car, stream := stream, target := target, words := spawnWords v.w b k w0, ctx := v.w.ctx,
    ident := some (v.w.ident, v.w.seq), attempt := v.w.attempt, sender := senderWord s v.w v.low, origin := none,
    parent := (s.team? v.w.team).bind (·.grid), counts := true, job := none,
    spawn := some ⟨v.w.teamIndex, v.w.gridx, v.w.gridy, v.w.gridz, (b.drop (k + 4)).length, v.w.depth, some (v.w.ident, v.w.seq)⟩ }

/-- The selector's stream. -/
def ctlStream (w : Wave) (ctl : Word) : BitVec 15 :=
  if fld ctl 16 8 = 0 then 0#15 else if fld ctl 16 8 = 1 then w.stream else BitVec.ofNat 15 (fld ctl 16 8)

/-- CQRY's slot: kind 0 reads a pair (R390, 02_encoding R60). -/
def cqrySlot (f : RFmt) : Slot :=
  { slotR 0x125 f with waits := if inlineNonzero f.b then [] else (pairReg f.a).toList.map (· + 1) }

/-! ## Gateway cores -/

/-- `q` is `t / 2^k` rounded to the nearest integer, ties to the even one. -/
def Nearest (t : Int) (k : Nat) (q : Int) : Prop := 2 * |t - q * 2 ^ k| < 2 ^ k ∨ (2 * |t - q * 2 ^ k| = 2 ^ k ∧ q % 2 = 0)

/-- `q` is a mantissa of width `n`. -/
def InWidth (n : Nat) (q : Int) : Prop := -(2 ^ (n - 1)) ≤ q ∧ q < 2 ^ (n - 1)

/-- 03_numbers R96: element i of the exact sum of two blocks, in units of 2^-k, where k is the larger exponent less the smaller. -/
def alignedSum (a b : Block) (i : Nat) : Int :=
  let low := min a.e b.e
  let term (x : Block) : Int := if x.e = 0 then 0 else x.m.getD i 0 * 2 ^ (x.e - low)
  term a + term b

/-- R96: `c` is the sum of blocks `a` and `b` of width `n`, with the flags INV 1, OVF 4 and INX 16. -/
def BlockSum (n : Nat) (a b c : Block) (fl : Flags) : Prop :=
  let k := max a.e b.e - min a.e b.e
  let zero := List.replicate 32 (0 : Int)
  (a.e = 511 ∨ b.e = 511 → c = ⟨511, zero⟩ ∧ fl = 1#6) ∧
  (a.e ≠ 511 → b.e ≠ 511 → ∃ s ≤ 2,
    (∀ i < 32, ∃ q, Nearest (alignedSum a b i) (k + s) q ∧ InWidth n q) ∧
    (∀ u < s, ∃ i < 32, ∀ q, Nearest (alignedSum a b i) (k + u) q → ¬InWidth n q) ∧
    (510 < max a.e b.e + s → c = ⟨511, zero⟩ ∧ fl = 4#6) ∧
    (max a.e b.e + s ≤ 510 → c.e = max a.e b.e + s ∧ c.m.length = 32 ∧ (∀ i < 32, Nearest (alignedSum a b i) (k + s) (c.m.getD i 0)) ∧
      fl = flagIf ((List.range 32).any fun i => c.m.getD i 0 * 2 ^ (k + s) != alignedSum a b i) 16#6))

/-- 07_keyring R243, 03_numbers R90: the block that a header word, with E in bits 8:0, and `n` planes after it hold. -/
def blockIn (n : Nat) (l : List Word) : Block :=
  ⟨fld (dw l 0) 0 9, (List.range 32).map fun i => toSigned n ((List.range n).map fun k => if (dw l (k + 1)).getLsbD i then 2 ^ k else 0).sum⟩

/-- 13_gateways R423: the words of a block in registers from `d` on. -/
def Lane.words (x : Lane) (d n : Nat) : List Word := (List.range n).map fun k => (x.reg (d + k)).bits

/-- 13_gateways R416: a port's status word. -/
def portStatus (t : Tildor) (fenced : Bool) : Word := 0#11 ++ BitVec.ofBool fenced ++ t.peer ++ 0#3 ++ BitVec.ofBool t.half ++ t.gen ++ t.st

/-! ## The hub -/

/-- A hub word is performed by hart `h` in state `x`, whose registers are read with x0 as zero. -/
structure HartRuns (s : State) (h : Nat) (x : Hart) : Prop where
  cur : s.curHart = some h
  hart : s.hart h = x

/-- A register of a hart (RISC-V's x0 reads zero). -/
def Hart.get (x : Hart) (r : BitVec 5) : DWord := if r = 0#5 then 0#64 else (x.regs[r.toNat]?).getD 0#64

/-- A value written to a register of a hart; x0 takes none. -/
def Hart.put (x : Hart) (r : BitVec 5) (v : DWord) : Hart :=
  { x with regs := if r = 0#5 then x.regs else x.regs.setIfInBounds r.toNat v }

/-- 14_hub R428, R436: M and HS mode. -/
def Hart.upper (x : Hart) : Prop := x.mode = .m ∨ x.mode = .hs

/-- R436: the exception of an access that the mode does not permit. -/
def deniedExc (m : HartMode) : HartExc := if m = .vs ∨ m = .vu then .virtual else .illegal

/-- A hart takes an exception and nothing else happens but that an open stval is used up. -/
def HartStops (s t : State) (h : Nat) (e : HartExc) (reason : BitVec 4) : Prop :=
  (t.hart h).exc = some e ∧ (t.hart h).hfstat = reason ∧ (t.hart h).regs = (s.hart h).regs ∧ (t.hart h).pc = (s.hart h).pc ∧
    (∀ k ≠ h, t.hart k = s.hart k) ∧ { t with harts := s.harts, freeCtr := s.freeCtr } = s

/-- rd takes a value and the hart goes on. -/
def State.hartGives (s : State) (h : Nat) (rd : BitVec 5) (v : DWord) : State :=
  s.modHart h fun x => { x with regs := if rd = 0#5 then x.regs else x.regs.setIfInBounds rd.toNat v, pc := x.pc + 4 }

/-- R437: NSET's and NGET's operand is in order for the hart. -/
def notifyLegal (x : Hart) (o : DWord) : Prop := o.toNat < 2 ^ 20 ∧ (x.upper ∨ (x.hcfg.getLsbD 0 = true ∧ o.extractLsb' 8 12 = x.hctx))

/-- R438: the records an SVCPOP filter takes. -/
def filtered (s : State) (o : DWord) (r : Rec) : Bool :=
  ((r.cls == 7#4 && o.getLsbD 13) || (r.cls == 9#4 && o.getLsbD 14)) && (o.getLsbD 12 || r.ctx == o.extractLsb' 0 12) &&
    (!o.getLsbD 15 || r.key.extractLsb' 0 16 == o.extractLsb' 16 16) && r.accepted && (s.ctx? r.ctx).any fun c => c.st = .live

/-- R439: a command of an OP is issued: the hub runs, and the hart has no incomplete command; doubleword 0 has no reserved bit set. -/
structure CmdTakes (s : State) (c : HubCmd) (op : Nat) : Prop where
  up : s.hubUp = true
  hart : c.hart < 24
  free : ∀ x ∈ s.cmds, x.hart ≠ c.hart
  code : ((c.dw.getD 0 0#64).extractLsb' 0 8).toNat = op
  zero : (c.dw.getD 0 0#64).extractLsb' 28 36 = 0#36

/-- A command stands in progress, with its status where it has earned one. -/
def State.issued (s : State) (c : HubCmd) (st : Option Status) : State := { s with cmds := s.cmds ++ [⟨c.hart, c.dw, st⟩] }

/-- R439: the completion of a hart's command. -/
def State.finished (s : State) (c : Cmd) (code : Nat) : State :=
  { s with cmds := s.cmds.filter fun x => x.hart != c.hart }.notifyWrite 0#12 ((c.dw.getD 0 0#64).extractLsb' 8 8).toNat (BitVec.ofNat 64 code)

/-- R440: the context that a descriptor describes, just created. -/
def ctxFrom (id : BitVec 12) (d : List DWord) : Ctx :=
  let g (i : Nat) : DWord := d.getD i 0#64
  { id := id, st := .free, root := (g 0).extractLsb' 0 57, rkey := g 1, wkey := g 2, tvec := (g 3).extractLsb' 0 54,
    nrg := (List.range 8).map fun r => ((g 4).extractLsb' (8 * r) 8).toNat, svcthr := (g 5).extractLsb' 0 8, mlock := (g 5).extractLsb' 8 6,
    htab := (g 6).extractLsb' 0 57, hset := (d.drop 8).take 8, ksp := [(g 17).toNat, (g 19).toNat, (g 21).toNat],
    kspBase := [(g 16).extractLsb' 0 57, (g 18).extractLsb' 0 57, (g 20).extractLsb' 0 57], saveBase := (g 22).extractLsb' 0 57,
    saveSize := (g 23).toNat, decode := 0, notify := [] }

/-- R440: a descriptor stands at a 256-byte-aligned local physical address in the home range of a die. -/
def descAt (a : DWord) : Prop := a.toNat % 256 = 0 ∧ a.toNat < 2 ^ 45 ∧ homeOk a.toNat = true

/-- R440: the fields that a CTXSET mask names are in order. -/
def fieldsOk (d : List DWord) (m : DWord) : Prop :=
  let g (i : Nat) : DWord := d.getD i 0#64
  let area (i : Nat) : Prop := (g i).toNat % 2 ^ 16 = 0 ∧ homeOk (g i).toNat = true ∧ (g (i + 1)).toNat % 2 ^ 16 = 0
  (m.getLsbD 0 = true → (g 0).toNat % 2 ^ 12 = 0 ∧ homeOk (g 0).toNat = true) ∧
  (m.getLsbD 3 = true → (g 3).toNat % 4 = 0 ∧ (g 3).toNat < 2 ^ 54) ∧
  (m.getLsbD 4 = true ∨ m.getLsbD 5 = true → (g 5).toNat < 2 ^ 14) ∧
  (m.getLsbD 6 = true → (g 6).toNat % 2 ^ 11 = 0 ∧ homeOk (g 6).toNat = true) ∧
  (m.getLsbD 7 = true → area 16 ∧ area 18 ∧ area 20 ∧ area 22)

/-- A change of one context. -/
def State.setState (s : State) (id : BitVec 12) (st : CtxState) : State := s.modCtx id fun x => { x with st := st }

/-- R253: every undispatched record of a context goes to its spill areas. -/
def State.spillAll (s : State) (id : BitVec 12) : State :=
  { s with keyrings := s.keyrings.map fun e => (e.1, { e.2 with recs := e.2.recs.map fun r =>
    if r.ctx = id ∧ r.dispatched = false then { r with spilled := true } else r }) }

/-! ## Links and the sextant -/

/-- A change of a port. -/
def State.portChange (s : State) (die port : Nat) (g : Tildor → Tildor) : State :=
  { s with tildors := assocSet s.tildors (die, port) (g (s.tildor die port)) }

/-- 13_gateways R419: what fencing package `x` does to the fence list, the accesses to it under way, the caches and the log of dirty lines; a line dirty in an L2 stays at
its home as it was last written back. -/
def State.fencedOff (s : State) (x : BitVec 12) : State :=
  let homed (line : Nat) : Bool := pkgOf (line * 128) == x
  let gone := s.l2.filter fun e => homed e.line
  let lost := (s.l1.filter fun l => homed l.line && l.dirty != 0#128).map (·.line) ++ gone.map (·.line)
  { s with
    fenced := s.fenced ++ [x]
    waves := s.waves.map (Wave.fenceOps x)
    l1 := s.l1.filter fun (l : L1Line) => !homed l.line
    l2 := s.l2.filter fun e => !homed e.line
    ro := s.ro.filter fun (l : RoLine) => !homed l.line
    mem := gone.foldl (fun m (e : L2Line) => memPuts m (128 * e.line) (leBytes 128 e.old.toNat)) s.mem
    sext := { s.sext with dirtyLog := (s.sext.dirtyLog ++ lost).dedup } }

/-- 15_sextant R449, R451: a source may issue a command: it has none incomplete, and the device is not in recovery. -/
structure MailTakes (s : State) (src : MailSrc) : Prop where
  free : ∀ m ∈ s.sext.mails, m.src ≠ src
  runs : s.sext.recovery = false

/-- R444, R454: the source holds the semaphore. -/
def Holds (s : State) (src : MailSrc) : Prop :=
  match src with
  | .port p => s.sext.owner = some p
  | .sideband => s.sext.owner ≠ none

/-- R449: a command of an OP is issued and has its status; a die's reset may end with its completion. -/
def State.mailed (s : State) (src : MailSrc) (op : Nat) (st : Status) (restart : Option Nat := none) : State :=
  { s with sext := { s.sext with
    mails := s.sext.mails ++ [⟨src, st, restart⟩], box := assocSet s.sext.box src (BitVec.ofNat 64 op) } }

/-- R452: a measurement register is extended by a digest. -/
def Sextant.measured (x : Sextant) (r : Nat) (d : BitVec 256) : Sextant :=
  { x with measure := x.measure.setIfInBounds r (extendMeasure ((x.measure[r]?).getD 0#256) d) }

/-- R451: an image passes. -/
def imageGood (s : State) (x : FwImage) : Prop := x.valid = true ∧ s.sext.fused ≤ x.version

/-- R442: a port may use a context's notify register. -/
def notifyOpen (s : State) (port ctx idx : Nat) : Prop :=
  ctx < 4096 ∧ idx < 256 ∧ s.sext.mayReach port (BitVec.ofNat 12 ctx) = true ∧ s.ctxDead (BitVec.ofNat 12 ctx) = false

/-- 11_schedulers R357, R359: a host record's header and payload are in order, and its completion address aligned. -/
def hostLegal (r : List Word) : Prop :=
  only (dw r 1) 0x0C00FFFF#32 = true ∧ only (dw r 2) 0x7FFF0FFF#32 = true ∧
    (fld (dw r 2) 16 15 = 0 ∨ (2 ≤ fld (dw r 2) 16 15 ∧ fld (dw r 2) 16 15 ≤ 0xFF)) ∧ (dw r 3).toNat ≤ 10 ∧ launchLegal (r.drop 4) = true ∧
    (dw r 12).toNat % 4 = 0

/-! ## Pipelines -/

/-- 02_encoding R42: a header's word has a count and no reserved bit. -/
def headerLegal (w : Word) : Prop := w.extractLsb' 28 4 ≠ 0#4 ∧ w.extractLsb' 0 15 = 0#15

/-- 04_pipeline R147, R148: a unit's gating phase and WAKE latch set. -/
def State.gateSet (s : State) (u : GateUnit) (g : GatePhase) (wake : Bool) : State :=
  match u with
  | .pipe p => s.setPipe p { s.pipe p with gate := g, wake := wake }
  | .cluster d c => s.modCluster d c fun x => { x with gate := g, wake := wake }

/-- 02_encoding R48: the instructions of one result that act on registers alone: opcode and constructor. -/
def plainTable : List (Nat × (RFmt → Instr)) :=
  [(0x001, .mov), (0x002, .add), (0x003, .sub), (0x004, .mul), (0x005, .mulh), (0x006, .mulhu), (0x007, .fma), (0x008, .div), (0x009, .divu),
   (0x00A, .rem), (0x00B, .remu), (0x00C, .min), (0x00D, .max), (0x00E, .minu), (0x00F, .maxu), (0x010, .abs), (0x011, .neg)] ++
  [(0x012, .and), (0x013, .or), (0x014, .xor), (0x015, .andn), (0x016, .shl), (0x017, .shr), (0x018, .sra), (0x019, .rot), (0x01A, .clz),
   (0x01B, .popc), (0x01C, .bfx), (0x01D, .bfxs), (0x01E, .bfi), (0x01F, .sel), (0x020, .cmpEq), (0x021, .cmpNe), (0x022, .cmpLt)] ++
  [(0x023, .cmpLe), (0x024, .cmpLtu), (0x025, .cmpLeu), (0x026, .cmpUn), (0x027, .sqrt), (0x028, .rcp), (0x029, .exp2), (0x02A, .log2),
   (0x02B, .cvtF32), (0x02C, .cvtI32), (0x02D, .cvtBf16x2), (0x02E, .cvtF16x2), (0x039, .tagset), (0x03A, .tagget)]

/-- A slot that reaches the checks of 02_encoding R62 and fails one of steps 2 to 5 with a cause. -/
structure Checked (s : State) (v : View) (sl : Slot) (c : Cause) : Prop where
  view : s.cur.bind s.view = some v
  owns : v.thr.st = .owning
  lanes : v.act ≠ []
  word : checkWord s v sl = some c

end Sys2Proof.Machine
end

