-- ==== Sys2Proof/WellFormed.lean ====
section
/-! DEFINITION. Well-formed instructions: what a word of the Edfen maps can stand for without a reserved or unused bit set
(spec/02_encoding R49, R51, R53, R56 to R59). An ill-formed term is one that traps ILLOP, ILLCLS or ILLFLD on its own bits. -/

namespace Sys2Proof

/-- R51, R53: a source is no reserved value, no latch beyond l2, and a literal has its word. -/
def Src.wf : Src → Bool
  | .reg _ | .port _ | .inl _ => true
  | .latch l => l.toNat < 3
  | .lit w => w.isSome
  | .rsv _ => false

/-- R59: tk names a token or none. -/
def tkWf (tk : BitVec 4) : Bool := tk.toNat ≤ 8

/-- R56: the source of an offset word is a register, a latch or an inline integer. -/
def offsetWordWf (w : Word) : Bool :=
  let v := (w.extractLsb' 25 7).toNat
  v < 67 || 96 ≤ v

/-- R57: cond tests something exactly for the conditional branches BRC and BRD. -/
def condWf (op : Nat) (f : BFmt) : Bool :=
  if op == 0x041 || op == 0x0C5 then 1 ≤ f.cond.toNat && f.cond.toNat ≤ 6 else f.cond == 0#4 && f.c == 0#6

/-- R58: the record block has a register and ends at g63 or below. -/
def blockWf (f : EFmt) : Bool := 1 ≤ f.count.toNat && f.first.toNat + f.count.toNat ≤ 64

/-- The static part of R62's steps 2 to 4: unused fields are zero and no field holds a reserved value. -/
def Instr.wf (i : Instr) : Bool :=
  match formOf i with
  | .r op f => (headWord i).toNat &&& unusedBits op == 0 && f.a.wf && f.b.wf
  | .m op f => (headWord i).toNat &&& unusedBits op == 0 && f.a.wf && tkWf f.tk &&
      (op == 0x0AD || (match f.a with | .lit (some w) => offsetWordWf w | _ => true))
  | .b op f => condWf op f
  | .e _ f => tkWf f.tk && blockWf f
  | .h n f => n < 4 && (n != 1 || f.rs2 == 0#5)
  | .event => false

end Sys2Proof
end

