-- ==== Sys2Proof/Certificates/Slice0/Obligations.lean ====
section
/-! DEFINITION. The statements for the provers. -/

section
open Sys2Proof
open Sys2Proof.Machine

/-- 04_pipeline R116, R118: ADD, SUB, MUL, FMA, MIN, MAX, ABS and NEG on INT tags reduce the exact result of each element modulo
2^width and set no flag; the result carries the common tag.

R115: MULH and MULHU write bits 63:32 of the signed and of the unsigned product of two I32 words.

R118: DIV, DIVU, REM and REMU on INT tags, division by zero setting DZ and nothing else setting a flag; MINU and MAXU.

R116, R117: on FLT tags each element is the exact result of the element values, rounded once to the element format under FRM
and FTZ, with the flags of the special cases and of the rounding. -/
def Obligations.Arithmetic : Prop :=
  (
  ∀ (f : RFmt) (t : Tag), t.cls = .int → ∀ e ∈ intTable,
    PolyCompletes e.1 e.2.1 f t t fun _ l => (wrap t.width (e.2.2 (l.map (toSigned t.width))), 0#6)) ∧
  (
  ∀ f : RFmt,
    PolyCompletes 0x005 .mulh f .i32 .i32 (fun _ l =>
      ((BitVec.ofInt 64 (toSigned 32 (l.headD 0) * toSigned 32 (l.getD 1 0))).extractLsb' 32 32 |>.toNat, 0#6)) ∧
    PolyCompletes 0x006 .mulhu f .i32 .i32 (fun _ l => ((BitVec.ofNat 64 (l.headD 0 * l.getD 1 0)).extractLsb' 32 32 |>.toNat, 0#6))) ∧
  (
  ∀ (f : RFmt) (t : Tag), t.cls = .int → ∀ e ∈ divTable,
    PolyCompletes e.1 e.2.1 f t t fun _ l =>
      (wrap t.width (e.2.2 t.width (l.headD 0) (l.getD 1 0)).1, flagIf (e.2.2 t.width (l.headD 0) (l.getD 1 0)).2 flagDz)) ∧
  (
  ∀ (f : RFmt) (t : Tag), t.cls = .flt →
    (∀ e ∈ fltTable, PolyCompletes e.1 e.2.1 f t t fun n l =>
      let x := e.2.2 n.md (l.map (t.fmt.decode n.ftz))
      ((t.fmt.deliver n.md n.ftz x.1).1, x.2 ||| (t.fmt.deliver n.md n.ftz x.1).2)) ∧
    ∀ e ∈ fltPickTable, PolyCompletes e.1 e.2.1 f t t fun n l =>
      t.fmt.deliver n.md n.ftz (e.2.2 (l.map (t.fmt.decode n.ftz))).exact)

/-- 04_pipeline R122: a comparison writes I32: an element is all ones where the relation holds of the sources' elements and all zeros where it
does not, with INV for CMP.LT and CMP.LE of a NaN; lanes whose sources carry different tags, or one that is not admitted, trap FMT. -/
def Obligations.Comparisons : Prop :=
  (
  ∀ (f : RFmt) (t : Tag), ∀ e ∈ cmpTable, e.2.2.1 t = true →
    PolyCompletes e.1 e.2.1 f t .i32 fun n l =>
      let r := e.2.2.2 n t (l.headD 0) (l.getD 1 0)
      (if r.1 then 2 ^ t.width - 1 else 0, r.2)) ∧
  ∀ e ∈ ([(0x020, .cmpEq, admitIF), (0x021, .cmpNe, admitIF), (0x022, .cmpLt, admitIF), (0x023, .cmpLe, admitIF), (0x024, .cmpLtu, admitI),
      (0x025, .cmpLeu, admitI), (0x026, .cmpUn, admitF)] : List (Nat × (RFmt → Instr) × (Tag → Bool))),
    ∀ (f : RFmt) (s : State) (v : View), Issues s v (slotR e.1 f) →
      let wrong (x : Lane) : Bool := !e.2.2 (x.polyTag [f.a, f.b]) || [f.a, f.b].any fun z => (x.srcTag z).any (· != x.polyTag [f.a, f.b])
      let bad := v.act.filter fun k => (v.w.lanes[k]?).any wrong
      bad ≠ [] → exec (e.2.1 f) s = .next (s.trapLanes v (slotR e.1 f) (bad.map fun k => (k, ⟨.fmt, none, false⟩)))

/-- R119: on BLK tags a mantissa outside its range is clamped and sets SAT; on SCALE the low nine bits are compared. -/
def Obligations.BlockArithmeticClamps : Prop :=
  ∀ f : RFmt,
    (∀ t : Tag, t.cls = .blk → ∀ e ∈ blkTable, PolyCompletes e.1 e.2.1 f t t fun _ l =>
      let c := clamp t.width (e.2.2 (l.map (toSigned t.width)))
      (wrap t.width c.1, flagIf c.2 flagSat)) ∧
    ∀ e ∈ scaleTable, PolyCompletes e.1 e.2.1 f .scale .scale fun _ l => (e.2.2 (l.headD 0 % 512) (l.getD 1 0 % 512), 0#6)

/-- R120: the bitwise, shift and field instructions of two sources, and CLZ and POPC, on 32-bit words of any tag but NONE.

R120, R121: BFI replaces a field of d, and SEL selects by the mask in d; each keeps the tag the rule names.

R123, R129: MOV copies bits and tag, NOP has no effect, TAGSET sets the tag of codes 0 to 13, the lanes with another code
trapping ILLFLD, and TAGGET reads it.

R130: ADDP adds a sign-extended I32 to a whole ADDR pair modulo 2^64; nw suppresses both writes. -/
def Obligations.BitsMovesAndPairs : Prop :=
  (
  ∀ f : RFmt,
    (∀ e ∈ bitTable, Completes (e.2.1 f) (slotR e.1 f) (fun x => x.readable false f.a ∧ x.readable e.2.2.1 f.b) fun pa pb x =>
      x.write f.d.toNat f.nw f.hd ⟨e.2.2.2.2 (x.bits .i32 pa f.a) (x.bits .i32 pb f.b), e.2.2.2.1.getD (x.tagOf f.a)⟩) ∧
    Completes (.clz f) (slotR 0x01A f) (fun x => x.readable false f.a)
      (fun pa _ x => x.write f.d.toNat f.nw f.hd ⟨(x.bits .i32 pa f.a).clz, .i32⟩) ∧
    Completes (.popc f) (slotR 0x01B f) (fun x => x.readable false f.a)
      (fun pa _ x => x.write f.d.toNat f.nw f.hd ⟨(x.bits .i32 pa f.a).cpop, .i32⟩)) ∧
  (
  ∀ f : RFmt,
    Completes (.bfi f) (slotR 0x01E f) (fun x => x.readable false f.a ∧ x.readable true f.b ∧ (x.reg f.d.toNat).tag ≠ .none)
      (fun pa pb x =>
        let b := x.bits .i32 pb f.b
        let d := x.reg f.d.toNat
        x.write f.d.toNat f.nw f.hd ⟨wordOf fun i => if fieldPos b ≤ i ∧ i < fieldPos b + fieldWidth b
          then (x.bits .i32 pa f.a).getLsbD (i - fieldPos b) else d.bits.getLsbD i, d.tag⟩) ∧
    ∀ t : Tag, t ≠ .none → Completes (.sel f) (slotR 0x01F f)
      (fun x => x.agree [f.a, f.b] t ∧ (x.reg f.d.toNat).tag ≠ .none)
      (fun pa pb x =>
        let m := (x.reg f.d.toNat).bits
        x.write f.d.toNat f.nw f.hd ⟨(x.bits t pa f.a &&& m) ||| (x.bits t pb f.b &&& ~~~m), t⟩)) ∧
  (
  ∀ f : RFmt,
    Completes (.mov f) (slotR 0x001 f) (fun x => x.carries .i32 f.a fun _ => True)
      (fun pa _ x => x.write f.d.toNat f.nw f.hd ⟨x.bits .i32 pa f.a, x.tagOf f.a⟩) ∧
    Completes (.nop f) (slotR 0x04E f) (fun _ => True) (fun _ _ x => x) ∧
    Completes (.tagget f) (slotR 0x03A f) (fun x => x.carries .i32 f.a fun _ => True)
      (fun pa _ x => x.write f.d.toNat f.nw f.hd ⟨BitVec.ofNat 32 (x.tagOf f.a).code, .i32⟩) ∧
    CompletesWhen (.tagset f) (slotR 0x039 f) (fun x => x.readable false f.a ∧ x.readable true f.b)
      (fun _ pb x => (x.bits .i32 pb f.b).toNat % 16 < 14)
      (fun pa pb x => x.write f.d.toNat f.nw f.hd
        ⟨x.bits .i32 pa f.a, (Tag.ofCode ((x.bits .i32 pb f.b).toNat % 16)).getD .none⟩) ∧
    ∀ (s s' : State) (v : View) (l : List (Nat × Word × Word)), Issues s v (slotR 0x039 f) → s.takes v (slotR 0x039 f) v.act = some (s', l) →
      (∀ k ∈ v.act, ∀ x, s.lane? v.w.uid k = some x → x.readable false f.a ∧ x.readable true f.b) →
      let bad := l.filter fun e => (s'.lane? v.w.uid e.1).any fun x => 14 ≤ (x.bits .i32 e.2.2 f.b).toNat % 16
      bad ≠ [] → exec (.tagset f) s = .next (s.trapLanes v (slotR 0x039 f) (bad.map fun e => (e.1, ⟨.illfld, none, true⟩)))) ∧
  (
  ∀ (f : RFmt) (r : BitVec 6), f.a = .reg r → r.toNat % 2 = 0 → f.d.toNat % 2 = 0 →
    Completes (.addp f) (slotR 0x04F f [r.toNat + 1, f.d.toNat + 1])
      (fun x => (x.reg r.toNat).tag = .addr ∧ (x.reg (r.toNat + 1)).tag = .addr ∧ x.readable true f.b) fun _ pb x =>
      let p : DWord := (x.reg (r.toNat + 1)).bits ++ (x.reg r.toNat).bits + (x.bits .i32 pb f.b).signExtend 64
      if f.nw then x
      else (x.setReg f.d.toNat ⟨p.extractLsb' 0 32, .addr⟩).setReg (f.d.toNat + 1) ⟨p.extractLsb' 32 32, .addr⟩)

/-- R124: CVT.F32 and CVT.I32 of an element of an INT or FLT source.

R125: the packed conversions of two I32 or two F32 sources; the four-element forms move bits 15:0 of d up.

R127, R128: QNT shifts two quantised mantissas into d, and DEQ gives the F32 of a block element, both with the exponent of QSC. -/
def Obligations.Conversions : Prop :=
  (
  ∀ (f : RFmt) (t : Tag), admitIF t = true →
    Completes (.cvtF32 f) (slotR 0x02B f) (fun x => x.carries .i32 f.a (· = t) ∧ x.readable true f.b) (fun pa pb x =>
      let k := pickElem t (x.bits .i32 pa f.a) (x.bits .i32 pb f.b)
      let r := if t.cls = .int then toFloat fp32 x.env.md x.env.ftz false (.fin (toSigned t.width k < 0) (toSigned t.width k).natAbs 0)
        else if t = .f32 then (if fp32.decode false k = .nan then (fp32.nan, flagInv) else (k, 0#6))
        else toFloat fp32 x.env.md x.env.ftz false (t.fmt.decode x.env.ftz k)
      (x.write f.d.toNat f.nw f.hd ⟨BitVec.ofNat 32 r.1, .f32⟩).raise r.2) ∧
    Completes (.cvtI32 f) (slotR 0x02C f) (fun x => x.carries .i32 f.a (· = t) ∧ x.readable true f.b) (fun pa pb x =>
      let k := pickElem t (x.bits .i32 pa f.a) (x.bits .i32 pb f.b)
      let r := if t.cls = .int then (toSigned t.width k, 0#6) else toInt x.env.md 32 (t.fmt.decode x.env.ftz k)
      (x.write f.d.toNat f.nw f.hd ⟨BitVec.ofInt 32 r.1, .i32⟩).raise r.2)) ∧
  (
  ∀ (f : RFmt) (t : Tag), t = .i32 ∨ t = .f32 → ∀ e ∈ packTable,
    Completes (e.2.1 f) (slotR e.1 f)
      (fun x => x.agree [f.a, f.b] t ∧ (e.2.2.2.2.1 = true → (x.reg f.d.toNat).tag ≠ .none)) fun pa pb x =>
      let a := e.2.2.2.2.2 x.env t (x.bits t pa f.a).toNat
      let b := e.2.2.2.2.2 x.env t (x.bits t pb f.b).toNat
      let low := BitVec.ofNat 32 (a.1 + b.1 * 2 ^ e.2.2.1)
      let d := (x.reg f.d.toNat).bits
      (x.write f.d.toNat f.nw f.hd ⟨if e.2.2.2.2.1 then (d <<< 16) ||| low else low, e.2.2.2.1⟩).raise (a.2 ||| b.2)) ∧
  (
  ∀ f : RFmt,
    (∀ e ∈ ([(0x035, .qntB8, 8, .bfp8x4), (0x036, .qntB4, 4, .bfp4x8), (0x037, .qntB2, 2, .bfp2x16)] :
        List (Nat × (RFmt → Instr) × Nat × Tag)),
      Completes (e.2.1 f) (slotR e.1 f)
        (fun x => x.carries .f32 f.a (· = .f32) ∧ x.carries .f32 f.b (· = .f32) ∧ (x.reg f.d.toNat).tag ≠ .none) fun pa pb x =>
        let q (w : Word) := quantise e.2.2.1 (x.qsc.toNat % 512) (fp32.decode false w.toNat)
        let a := q (x.bits .f32 pa f.a)
        let b := q (x.bits .f32 pb f.b)
        let low := BitVec.ofNat 32 (wrap e.2.2.1 b.1 * 2 ^ e.2.2.1 + wrap e.2.2.1 a.1)
        (x.write f.d.toNat f.nw f.hd ⟨((x.reg f.d.toNat).bits <<< (2 * e.2.2.1)) ||| low, e.2.2.2⟩).raise (a.2 ||| b.2)) ∧
    ∀ t : Tag, t.cls = .blk → Completes (.deq f) (slotR 0x038 f) (fun x => x.carries .i32 f.a (· = t) ∧ x.readable true f.b)
      (fun pa pb x =>
        let k := toSigned t.width (pickElem t (x.bits .i32 pa f.a) (x.bits .i32 pb f.b))
        let r := dequantise x.env.ftz t.width (x.qsc.toNat % 512) k
        (x.write f.d.toNat f.nw f.hd ⟨BitVec.ofNat 32 r.1, .f32⟩).raise r.2))

/-- 04_pipeline R106, R107: CWR writes the control word that bits 7:0 of a name, tagged I32; a reserved number reads 0.

R107, R108: CWW writes the lane's control word from the bits of b; an RO or reserved word or a reserved bit traps ILLFLD, and
SVCTHR is the named context's and privileged. -/
def Obligations.ControlWords : Prop :=
  (
  ∀ (f : RFmt) (s s' : State) (v : View) (l : List (Nat × Word × Word)), Issues s v (slotR 0x03B f) →
    s.takes v (slotR 0x03B f) v.act = some (s', l) → (∀ k ∈ v.act, ∀ x, s.lane? v.w.uid k = some x → x.readable true f.a) →
    exec (.cwr f) s = .next (s'.laneStep v (slotR 0x03B f) l fun i pa _ x =>
      let n := (x.bits .i32 pa f.a).toNat % 256
      x.write f.d.toNat f.nw f.hd ⟨match laneWords.find? (·.1 == n) with
        | some e => e.2 x
        | none => if n < 0x1C then readControl s v i x n else 0#32, .i32⟩) ∧
    ∀ (i : Nat) (x : Lane), ∀ e ∈ ([(0x04, x.waveid.setWidth 32), (0x05, v.w.teamIndex), (0x06, v.w.gridx), (0x07, v.w.gridy),
      (0x08, v.w.gridz), (0x0B, v.w.depth.setWidth 32), (0x0C, v.w.ctx.setWidth 32), (0x0E, BitVec.ofNat 32 v.w.die),
      (0x0F, s.pkgid.setWidth 32), (0x1A, BitVec.ofNat 32 (min v.w.attempt 255))] : List (Nat × Word)), readControl s v i x e.1 = e.2) ∧
  (
  ∀ f : RFmt,
    CompletesWhen (.cww f) (slotR 0x03C f) (fun x => x.readable true f.a ∧ x.readable false f.b)
      (fun pa pb x => (cwwEntry ((x.bits .i32 pa f.a).toNat % 256) (x.bits .i32 pb f.b)).isSome = true)
      (fun pa pb x => match cwwEntry ((x.bits .i32 pa f.a).toNat % 256) (x.bits .i32 pb f.b) with
        | some e => e.2.2 (x.bits .i32 pb f.b) x
        | none => x) ∧
    ∀ (s s' : State) (v : View) (l : List (Nat × Word × Word)), Issues s v (slotR 0x03C f) →
      s.takes v (slotR 0x03C f) v.act = some (s', l) →
      (∀ k ∈ v.act, ∀ x, s.lane? v.w.uid k = some x → x.readable true f.a ∧ x.readable false f.b) →
      ((∀ e ∈ l, ∀ x, s'.lane? v.w.uid e.1 = some x → (x.bits .i32 e.2.1 f.a).toNat % 256 ≠ 0x16 ∧
          cwwEntry ((x.bits .i32 e.2.1 f.a).toNat % 256) (x.bits .i32 e.2.2 f.b) = none) →
        exec (.cww f) s = .next (s.allTrap v (slotR 0x03C f) .illfld)) ∧
      ((∀ e ∈ l, ∀ x, s'.lane? v.w.uid e.1 = some x → (x.bits .i32 e.2.1 f.a).toNat % 256 = 0x16) →
        (v.w.ctx ≠ 0#12 → exec (.cww f) s = .next (s.allTrap v (slotR 0x03C f) .priv)) ∧
        -- the lanes write theirs in ascending order
        (v.w.ctx = 0#12 → exec (.cww f) s = .next ((l.foldl (fun t e => match s'.lane? v.w.uid e.1 with
          | none => t
          | some x =>
            let c := (x.bits .i32 e.2.1 f.a).extractLsb' 8 12
            (t.modCtx c fun y => if y.st = .teardown ∨ y.st = .free then y else { y with svcthr := (x.bits .i32 e.2.2 f.b).setWidth 8 }).testSwaps c)
          (s'.setLanes v.w.uid (l.filterMap fun e => (s'.lane? v.w.uid e.1).map fun x => (e.1, x)))).advance
            v.iss (1 + (slotR 0x03C f).nlits)))))

/-- R111: the answers of REGX and REGX.NB in their order, and REGREL.

R137, R138, R139: WFM answers 0 for an empty mask, the mask of ports with an available record, or parks; RETIRE waits for its
drains; YIELD makes the wave yielding after its clause.

02_encoding R64: DMAP installs the map a names for the context b names, or answers TORN or REFUSED, in each active lane.

R134, R135: SVC in each active lane answers BADSPACE for a pointer into the aperture or the spill range, or posts a record that
its wave waits for; the record's words.

The model's choices among these: WFM's mask is read in the lowest active lane (log 38), a park leaves the port elements it would take untaken
(log 39), and a detached lane's REGX and REGREL act on its wave's block (log 41). -/
def Obligations.SystemInstructions : Prop :=
  (
  (∀ (nb : Bool) (f : RFmt) (s s' : State) (v : View) (pa pb : Word) (x : Lane),
    let i : Instr := if nb then .regxNb f else .regx f
    let sl := slotR (if nb then 0x03E else 0x03D) f
    let n := (x.bits .i32 pa f.a).toInt
    let k := (n.toNat + 7) / 8 * 8
    Reads s v sl s' pa pb x → x.readable true f.a →
      (n ≤ 0 ∨ 32 < n → exec i s = .next (s'.finishWith v sl f (regI32 6#32))) ∧
      (0 < n → n ≤ 32 → v.w.xregs ≠ 0 → exec i s = .next (s'.finishWith v sl f (regI32 10#32))) ∧
      (0 < n → n ≤ 32 → v.w.xregs = 0 → s'.regxFree v.w v.iss k = true →
        exec i s = .next ((s'.modWave v.w.uid (·.takeBlock k)).finishWith v sl f (regI32 0#32))) ∧
      (0 < n → n ≤ 32 → v.w.xregs = 0 → s'.regxFree v.w v.iss k = false →
        exec i s = .next (if nb then s'.finishWith v sl f (regI32 1#32)
          else v.w.pipes.foldl (fun s p => s.setPipe p { s.pipe p with blocked := (s.pipe p).blocked ++ [v.iss] })
            (s'.park v.iss (.regx k (if f.nw then none else some f.d.toNat) f.hd 0) sl)))) ∧
  ∀ (f : RFmt) (s : State) (v : View), Issues s v (slotR 0x03F f) →
    exec (.regrel f) s = .next (((s.modWave v.w.uid fun w => { w with xregs := 0 }).advance v.iss 1).grantRegx)) ∧
  (
  (∀ (f : RFmt) (s s' : State) (v : View) (pa pb : Word) (x : Lane),
    let sl := slotR 0x04A f
    let m := (x.bits .i32 pa f.a).setWidth 8
    Reads s v sl s' pa pb x → x.readable true f.a →
    (∀ k ∈ v.act, ∀ y, v.w.lanes[k]? = some y → ∀ q < 8, m.getLsbD q = true → (y.port q).bound = true) →
    (m = 0#8 → exec (.wfm f) s = .next (s'.finishWith v sl f (regI32 0#32))) ∧
    (wfmMask s' v m ≠ 0#32 → exec (.wfm f) s = .next (s'.finishWith v sl f (regI32 (wfmMask s' v m)))) ∧
    (m ≠ 0#8 → wfmMask s' v m = 0#32 → exec (.wfm f) s = .next (s.park v.iss (.wfm (v.act.map fun i => (i, m))) sl))) ∧
  ∀ (f : RFmt) (s : State) (v : View),
    (Issues s v (slotR 0x04B f) → exec (.retire f) s = .next (s.park v.iss .retire (slotR 0x04B f))) ∧
    (Issues s v (slotR 0x04C f) → exec (.yield f) s = .next ((s.modThr v.iss fun t => { t with willYield := true }).advance v.iss 1))) ∧
  (
  ∀ (f : RFmt) (s s' : State) (v : View) (l : List (Nat × Word × Word)),
    let sl := slotR 0x04D f (priv := true)
    Issues s v sl → s.takes v sl v.act = some (s', l) →
    (∀ k ∈ v.act, ∀ x, s.lane? v.w.uid k = some x → x.readable true f.a ∧ x.readable true f.b) →
    exec (.dmap f) s = .next ((l.foldl (fun t e => match s'.lane? v.w.uid e.1 with
      | none => t
      | some x =>
        let c := (x.bits .i32 e.2.1 f.a).setWidth 12
        let m := (x.bits .i32 e.2.2 f.b).toNat
        let st : Nat := match t.ctx? c with
          | none => 3
          | some y => if y.st = .teardown ∨ y.st = .free then 3
            else if 2 < m ∨ (m = 1 ∧ t.map2 = false) ∨ (m = 2 ∧ t.map1 = false) ∨ t.ctxBusy c = true then 10 else 0
        ((if st = 0 then t.modCtx c fun y => { y with decode := m } else t)).modLane v.w.uid e.1 fun y =>
          y.write f.d.toNat f.nw f.hd ⟨BitVec.ofNat 32 st, .i32⟩) s').advance v.iss (1 + sl.nlits))) ∧
  (
  (∀ (f : RFmt) (s s' : State) (v : View) (l : List (Nat × Word × Word)),
    let sl := slotR 0x048 f (List.range 8)
    let t := l.foldl (svcLane f v) s'
    Issues s v sl → s.takes v sl v.act = some (s', l) →
    (∀ k ∈ v.act, ∀ x, s.lane? v.w.uid k = some x → x.readable true f.a ∧ x.readable true f.b ∧
      ∀ k < 4, (x.reg (2 * k)).tag = .addr ↔ (x.reg (2 * k + 1)).tag = .addr) →
    exec (.svc f) s = .next (if t.flights.any fun y => y.svc && y.src.any fun z => z.1 = v.iss then t.park v.iss .svc sl
      else t.advance v.iss (1 + sl.nlits))) ∧
  ∀ (f : RFmt) (s : State) (v : View) (w : Wave) (k : Nat) (pa pb : Word) (x : Lane), s.wave? v.w.uid = some w →
    w.lanes[k]? = some x → x.readable true f.a → x.readable true f.b →
    (∀ k < 4, (x.reg (2 * k)).tag = .addr ↔ (x.reg (2 * k + 1)).tag = .addr) →
    let a := x.bits .i32 pa f.a
    let b := x.bits .i32 pb f.b
    let p := svcPush s w k x a b
    (svcBad x = true → svcLane f v s (k, pa, pb) = s.modLane w.uid k fun y => y.write f.d.toNat f.nw f.hd ⟨4#32, .i32⟩) ∧
    (svcBad x = false → ∃ fl, (svcLane f v s (k, pa, pb)).flights = s.flights ++ [fl] ∧ fl.kr = .hub ∧ fl.push = p ∧ fl.svc = true ∧
      fl.src = some (v.iss, [k]) ∧ p.cls = 7#4 ∧ p.key = BitVec.ofNat 48 (a.toNat % 65536) ∧ p.stream = w.stream ∧ p.ctx = w.ctx ∧
      p.words.take 8 = (List.range 8).map (fun r => (x.reg r).bits) ∧ p.words[8]? = some (BitVec.ofNat 32 (a.toNat % 65536)) ∧
      (∀ n : Word, p.words[9]? = some n → n.toNat % 256 = b.toNat % 256 ∧
        ∀ k < 4, n.getLsbD (8 + k) = ((x.reg (2 * k)).tag = .addr : Bool)) ∧
      p.words[11]? = some (BitVec.ofNat 32 (x.waveid.toNat + 256 * min w.attempt 255))))

/-- R131, R57: BR goes to the target, BRC as its test says of every active lane or traps DIVG, CALL links in g7 : g6.

R131, R132: RET, JMPR and BRL go to the address in the pair of every active lane, BRL linking in {d+1 : d}; lanes whose pair is
not whole, misaligned or above the space trap, and different targets trap DIVG.

R45, R55: a control transfer ends the clause: an attached wave with no untokened operation is READY at the target's header with
its latches empty, and nothing but the wave has changed.

That nw on BRL keeps the link pair from being written is the model's choice (log 82). -/
def Obligations.Branches : Prop :=
  (
  ∀ (f : BFmt) (s : State) (v : View),
    let target := v.thr.hdr + BitVec.ofInt 54 (4 * f.off.toInt)
    let ra : DWord := v.thr.nextInSequence.setWidth 64
    (Issues s v (slotB 0x040 f) → exec (.br f) s = .next (s.transfer v.iss target)) ∧
    (Issues s v (slotB 0x042 f [6, 7]) → exec (.call f) s = .next ((s.eachLane v fun x =>
      (x.setReg 6 ⟨ra.extractLsb' 0 32, .addr⟩).setReg 7 ⟨ra.extractLsb' 32 32, .addr⟩).transfer v.iss target)) ∧
    (Issues s v (slotB 0x041 f) → (∀ k ∈ v.act, ∀ x, s.lane? v.w.uid k = some x → (x.reg f.c.toNat).tag ≠ .none) →
      ((∀ k ∈ v.act, ∀ x, s.lane? v.w.uid k = some x → condTest f.cond (x.reg f.c.toNat).bits) →
        exec (.brc f) s = .next (s.transfer v.iss target)) ∧
      ((∀ k ∈ v.act, ∀ x, s.lane? v.w.uid k = some x → ¬condTest f.cond (x.reg f.c.toNat).bits) →
        exec (.brc f) s = .next (s.advance v.iss 1)) ∧
      (∀ (j k : Nat) (x y : Lane), j ∈ v.act → k ∈ v.act → s.lane? v.w.uid j = some x → s.lane? v.w.uid k = some y →
        condTest f.cond (x.reg f.c.toNat).bits → ¬condTest f.cond (y.reg f.c.toNat).bits →
        exec (.brc f) s = .next (s.allTrap v (slotB 0x041 f) .divg)))) ∧
  (
  ∀ e ∈ ([(0x043, .ret), (0x044, .jmpr), (0x045, .brl)] : List (Nat × (RFmt → Instr))),
    ∀ (f : RFmt) (r : BitVec 6) (s : State) (v : View), f.a = .reg r → Issues s v (slotIndirect e.1 f) →
      let ra : DWord := v.thr.nextInSequence.setWidth 64
      let fails := v.act.filterMap fun k => (s.lane? v.w.uid k).bind fun x => (x.jumpFail r.toNat).map fun y => (k, y)
      (fails ≠ [] → exec (e.2 f) s = .next (s.trapLanes v (slotIndirect e.1 f) fails)) ∧
      (fails = [] → ∀ a : BitVec 54,
        (∀ k ∈ v.act, ∀ x, s.lane? v.w.uid k = some x → ((x.reg (r.toNat + 1)).bits ++ (x.reg r.toNat).bits).setWidth 54 = a) →
        exec (e.2 f) s = .next ((if e.1 = 0x045 ∧ f.nw = false then s.eachLane v fun x =>
          (x.setReg f.d.toNat ⟨ra.extractLsb' 0 32, .addr⟩).setReg (f.d.toNat + 1) ⟨ra.extractLsb' 32 32, .addr⟩ else s).transfer v.iss a)) ∧
      (fails = [] → ∀ (j k : Nat) (x y : Lane), j ∈ v.act → k ∈ v.act → s.lane? v.w.uid j = some x → s.lane? v.w.uid k = some y →
        ((x.reg (r.toNat + 1)).bits ++ (x.reg r.toNat).bits).setWidth 54 ≠ ((y.reg (r.toNat + 1)).bits ++ (y.reg r.toNat).bits).setWidth 54 →
        exec (e.2 f) s = .next (s.allTrap v (slotIndirect e.1 f) .divg))) ∧
  (
  ∀ (s : State) (u : Nat) (v : View) (a : BitVec 54), s.view ⟨u, none⟩ = some v → v.thr.untokened = false →
    ∃ v', (s.transfer ⟨u, none⟩ a).view ⟨u, none⟩ = some v' ∧ v'.thr.hdr = a ∧ v'.thr.slot = 0 ∧ v'.thr.st = .ready ∧
      v'.thr.toks = v.thr.toks ∧ v'.w.lanes = v.w.lanes.map (fun x => { x with l0 := none, l1 := none, l2 := none }) ∧
      { s.transfer ⟨u, none⟩ a with waves := s.waves } = s)

/-- R133, R142: TRAP and BRK take a trap whose return point is the next slot; ERET returns in a handler and traps PRIV outside.

R142, 02_encoding R55: ERET in a handler of an attached wave restores the latches, clears INH and resumes at EPC and SLOT; at slot 0 a new
clause begins, with its latches empty.

That the port element a trapping TRAP took stays taken is the model's choice (log 39). -/
def Obligations.TrapInstructionsAndReturn : Prop :=
  (
  ∀ (f : RFmt) (s : State) (v : View),
    (∀ (s' : State) (l : List (Nat × Word × Word)) (pa pb : Word) (x : Lane), Issues s v (slotR 0x046 f) →
      s.takes v (slotR 0x046 f) v.act = some (s', l) → l.head? = some (v.low, pa, pb) →
      (∀ k ∈ v.act, ∀ y, s.lane? v.w.uid k = some y → y.readable false f.a) → s.lane? v.w.uid v.low = some x →
      exec (.trap f) s = .next (s'.trap v
        { lanes := v.act, cause := .trapi, addr := 0#64, trapaddr := x.bits .i32 pa f.a,
          hdr := (v.thr.pointAfter (1 + (slotR 0x046 f).nlits)).1, slot := (v.thr.pointAfter (1 + (slotR 0x046 f).nlits)).2 })) ∧
    (Issues s v (slotR 0x049 f) → exec (.brk f) s = .next (s.trap v
      { lanes := v.act, cause := .brk, addr := 0#64, trapaddr := encodeR 0x049 f, hdr := (v.thr.pointAfter 1).1,
        slot := (v.thr.pointAfter 1).2 })) ∧
    (Issues s v (slotR 0x047 f) → exec (.eret f) s = .next (if v.inh then s.eret v else s.allTrap v (slotR 0x047 f) .priv))) ∧
  (
  ∀ (s : State) (u : Nat) (v : View) (x : Lane), s.view ⟨u, none⟩ = some v → v.w.lanes = [x] → v.act = [0] →
    v.thr.untokened = false →
    let keep (k : Option Reg) : Option Reg := if x.trapcause.toNat / 256 % 16 = 0 then none else k
    ∃ v' y, (s.eret v).view ⟨u, none⟩ = some v' ∧ v'.w.lanes = [y] ∧ v'.thr.hdr = x.epcHi ++ x.epc ∧ v'.thr.st = .ready ∧
      v'.thr.slot = x.trapcause.toNat / 256 % 16 ∧ v'.thr.redecode = decide (x.trapcause.toNat / 256 % 16 ≠ 0) ∧
      y = { x with trapcause := wordOf fun i => i != 13 && x.trapcause.getLsbD i, l0 := keep x.sh0, l1 := keep x.sh1, l2 := keep x.sh2 } ∧
      { s.eret v with waves := s.waves } = s)

/-- R141: taking a trap in a solo wave outside a handler: the return point, the cause, TRAPADDR and TRAPLANES are saved, the latches
move to the shadow, and the thread is READY at the header in TRAPVEC; nothing else changes.

06_group R226: a trap in an attached fused wave divides it: each trapping lane enters its own handler with SPLIT set, and every
other live lane goes on as a detached lane at the trapping point.

R143: a trap in a handler, or with a zero TRAPVEC, suspends the wave with all its state and posts a FAULT record to the hub. -/
def Obligations.TrapEntry : Prop :=
  (
  ∀ (s : State) (u : Nat) (v : View) (x : Lane) (t : TrapInfo), s.view ⟨u, none⟩ = some v → v.w.lanes = [x] → t.lanes = [0] →
    t.slot < 16 → x.trapcause.getLsbD 13 = false → x.trapvecHi ++ x.trapvec ≠ 0#54 →
    ∃ v' y, (s.trap v t).view ⟨u, none⟩ = some v' ∧ v'.w.lanes = [y] ∧ v'.thr.hdr = x.trapvecHi ++ x.trapvec ∧ v'.thr.slot = 0 ∧
      v'.thr.st = .ready ∧ v'.thr.toks = v.thr.toks ∧ v'.thr.ops = v.thr.ops ∧ y.epcHi ++ y.epc = t.hdr ∧
      y.trapcause = BitVec.ofNat 32 (t.cause.code + 256 * t.slot + 8192) ∧ y.trapaddr = t.trapaddr ∧ y.traplanes = 1#32 ∧
      (y.sh0, y.sh1, y.sh2) = (x.l0, x.l1, x.l2) ∧ (y.l0, y.l1, y.l2) = (none, none, none) ∧ y.regs = x.regs ∧ y.flags = x.flags ∧
      y.trapvec = x.trapvec ∧ y.ports = x.ports ∧ { s.trap v t with waves := s.waves } = s) ∧
  (
  ∀ (s : State) (u : Nat) (v : View) (t : TrapInfo), s.view ⟨u, none⟩ = some v → 1 < v.w.lanes.length → t.slot < 16 →
    (∀ k ∈ t.lanes, ∀ x, v.w.lanes[k]? = some x → x.trapcause.getLsbD 13 = false ∧ x.trapvecHi ++ x.trapvec ≠ 0#54) →
    ∃ w, (s.trap v t).wave? u = some w ∧ w.detach = true ∧ w.dstk = [] ∧ w.jmask = v.w.memb ∧
      (∀ k ∈ t.lanes, ∀ x, v.w.lanes[k]? = some x → v.w.memb.getLsbD k = true → ∃ y h, w.lanes[k]? = some y ∧ y.own = some h ∧
        h.hdr = x.trapvecHi ++ x.trapvec ∧ h.slot = 0 ∧ h.st = .ready ∧ y.epcHi ++ y.epc = t.hdr ∧ y.traplanes = maskOf t.lanes ∧
        y.trapcause = BitVec.ofNat 32 (t.cause.code + 256 * t.slot + 4096 + 8192) ∧ y.regs = x.regs) ∧
      (∀ k x, v.w.lanes[k]? = some x → k ∉ t.lanes → v.w.live.getLsbD k = true → v.w.memb.getLsbD k = true →
        ∃ y h, w.lanes[k]? = some y ∧ y.own = some h ∧
        h.hdr = t.hdr ∧ h.slot = t.slot ∧ y.regs = x.regs ∧ y.trapcause = x.trapcause) ∧
      { s.trap v t with waves := s.waves } = s) ∧
  (
  ∀ (s : State) (u : Nat) (v : View) (x : Lane) (t : TrapInfo), s.view ⟨u, none⟩ = some v → v.w.lanes = [x] → t.lanes = [0] →
    v.w.thr.st ≠ .suspended → x.trapcause.getLsbD 13 = true ∨ x.trapvecHi ++ x.trapvec = 0#54 →
    ∃ v' fl, (s.trap v t).view ⟨u, none⟩ = some v' ∧ v'.thr = { v.thr with st := .suspended } ∧ v'.w.lanes = v.w.lanes ∧
      (s.trap v t).flights = s.flights ++ [fl] ∧ fl.kr = .hub ∧ fl.push.cls = 9#4 ∧ fl.push.ctx = v.w.ctx ∧
      fl.push.words[2]? = some (BitVec.ofNat 32 (15 + 256 * t.cause.code + 2 ^ 16 * t.kind)) ∧ fl.push.words[3]? = some (v.w.ctx.setWidth 32) ∧
      { s.trap v t with waves := s.waves, flights := s.flights, uid := s.uid } = s)

/-- 05_memory R191, R192, R194: word loads, byte and halfword loads, LD.ADDR and LDA complete with the registers their bytes give; a failed check
traps and an address that does not translate parks the wave.

R193, R194: the stores complete with the bytes of d up, STR behind a release of the lane's L1.

R195, R188: an atomic reads the old value, stores the new one in one event and writes the old value to d; ACAS stores only where
the old value is d's. That an access is performed where its slot issues, and that a tokened one stands until MEMORY_ACCESS_COMPLETE, are the model's choices (log 3, log 12). -/
def Obligations.LoadsStoresAndAtomics : Prop :=
  (
  ∀ f : MFmt,
    let d := f.d.toNat
    (∀ e ∈ loadTable, MemDoes (e.2.1 f) f (slotM e.1 f ((List.range e.2.2.1).map (d + ·)) (d % e.2.2.1 != 0))
      (loadSpec (4 * e.2.2.1) 4 (if e.2.2.2.2 then View.ownPath else View.l1Path) ((List.range e.2.2.1).map (d + ·)) fun b =>
        (List.range e.2.2.1).map fun j => (d + j, ⟨wordAt b j, e.2.2.2.1⟩)) fun _ => True) ∧
    (∀ e ∈ narrowTable, MemDoes (e.2.1 f) f (slotM e.1 f [d] false)
      (loadSpec e.2.2.1 e.2.2.1 View.l1Path [d] fun b => [(d, ⟨e.2.2.2.2 b, e.2.2.2.1⟩)]) fun _ => True) ∧
    MemDoes (.ldAddr f) f (slotM 0x08C f [d, d + 1] (d % 2 != 0))
      (loadSpec 8 8 View.l1Path [d, d + 1] fun b => [(d, ⟨wordAt b 0, .addr⟩), (d + 1, ⟨wordAt b 1, .addr⟩)]) (fun _ => True) ∧
    MemDoes (.lda f) f (slotM 0x097 f [d] false)
      { loadSpec 4 4 (fun _ => .coherent) [d] (fun b => [(d, ⟨wordAt b 0, .i32⟩)]) with
        sync := true
        perform := fun s v i _ t => match s.readTarget v i .coherent 4 t with
          | (s, none) => (s, none)
          | (s, some b) => (if t.unordered then s else s.l1Acquire [v.w.pipeOf i], some [(d, ⟨wordAt b 0, .i32⟩)]) } fun _ => True) ∧
  (
  ∀ f : MFmt, ∀ e ∈ storeTable,
    let d := f.d.toNat
    MemDoes (e.2.1 f) f (slotM e.1 f ((List.range e.2.2.1).map (d + ·)) (d % e.2.2.1 != 0))
      (storeSpec d e.2.2.1 e.2.2.2.1 e.2.2.2.2.2) fun x => e.2.2.2.2.1 = false → ∀ j < e.2.2.1, (x.reg (d + j)).tag ≠ .none) ∧
  (
  ∀ f : MFmt,
    let d := f.d.toNat
    let rmw (tag : Tag → Tag) (g : Lane → Word → Option Word) : MemOp :=
      { bytes := 4, align := 4, kind := .atomic, sync := true, dest := [d], check := fun _ => .ok (),
        perform := fun s v i x t =>
          let p := v.w.pipeOf i
          match ((if t.unordered then s else s.l1Release [p]).dropTarget p t).readTarget v i .coherent 4 t with
          | (s, none) => (s, none)
          | (s, some b) =>
            let s := match g x (wordAt b 0) with
              | some y => (s.writeTarget v i true ((List.range 4).map fun j => y.extractLsb' (8 * j) 8) t).dropTarget p t
              | none => s
            (if t.unordered then s else s.l1Acquire [p], some [(d, ⟨wordAt b 0, tag (x.reg d).tag⟩)]) }
    (∀ e ∈ atomicTable, MemDoes (e.2.1 f) f (slotM e.1 f [d] false)
      (rmw e.2.2.2.1 fun x old => some (e.2.2.2.2 old (x.reg d).bits))
      fun x => match e.2.2.1 with | some t => (x.reg d).tag = t | none => (x.reg d).tag ≠ .none) ∧
    MemDoes (.acas f) f (slotM 0x0A9 f [d, d + 1] (d % 2 != 0))
      (rmw (fun _ => .i32) fun x old => if old = (x.reg d).bits then some (x.reg (d + 1)).bits else none)
      fun x => (x.reg d).tag ≠ .none ∧ (x.reg (d + 1)).tag ≠ .none)

/-- R196: a fence writes the wave's L1 back, FENCE.ACQ and FENCE.AR then invalidating it; it is done at once where it has no token and no
access before it is outstanding, and stands until those have completed otherwise (log 77).

R167, R168, R192: a release leaves no dirty byte in the slices it covers, an acquire leaves no line in them and none of the read-only path
for the waves on its pipelines, and both change memory only by the write-back of dirty bytes.

R197, R198: WIN loads w0 to w6 from a whole ADDR pair: a scratchpad window in the aperture, a memory window elsewhere, a page fault
where its base does not translate, PROT outside the space; WINQ writes LIMIT, or 0 for a window that is not valid.

R199, R200: PFETCH installs the line of each lane's address, CLEAN writes its dirty bytes back, INVAL also lets it go; a lane whose
window is not valid or is the scratchpad's, whose address is outside the space or does not translate, or for PFETCH would trap, is an SO
page or has a line that cannot be read, does nothing; none traps. Which lines a cache lets go of its own accord is the model's choice (log 4), and so is that WIN's PROT trap,
a check the wave makes once, is taken in every active lane and its page fault names the lowest active lane alone (log 30). -/
def Obligations.FencesWindowsAndLines : Prop :=
  (
  ∀ e ∈ ([(0x0AA, .fenceAcq, true, false), (0x0AB, .fenceRel, false, true), (0x0AC, .fenceAr, true, true)] :
      List (Nat × (MFmt → Instr) × Bool × Bool)),
    ∀ (f : MFmt) (s : State) (v : View), Issues s v (slotM0 e.1 f [] [] false) →
      let ps := match v.lane with | some i => [v.w.pipeOf i] | none => (List.range v.w.width).map v.w.pipeOf
      -- accesses before it that have not completed: reads, and for a release stores too
      let earlier := v.thr.ops.any fun o => o.kind = .load || o.kind = .acquire || e.2.2.2 && o.kind = .store
      exec (e.2.1 f) s = .next ((if f.tk = 8#4 ∧ earlier = false then (if e.2.2.1 then s.l1Acquire ps else s.l1Release ps)
        else (if e.2.2.1 then s.l1Acquire ps else s.l1Release ps).stand v f.tk (.fence e.2.2.2)).advance v.iss 1)) ∧
  (
  ∀ (s : State) (ps : List PipeId), s.memOk = true →
    (∀ l ∈ (s.l1Release ps).l1, (ps.flatMap s.slicesOf).contains l.pipe = true → l.dirty = 0#128) ∧
    (∀ l ∈ (s.l1Acquire ps).l1, (ps.flatMap s.slicesOf).contains l.pipe = false) ∧
    (∀ l ∈ (s.l1Acquire ps).ro, (s.wavesOn ps).contains l.wave = false) ∧ (s.l1Release ps).ro = s.ro ∧
    (s.l1Release ps).mem = (s.l1Acquire ps).mem ∧ s.onlyWritesBack (s.l1Acquire ps) [] ∧ (s.l1Release ps).memOk = true ∧
    { s.l1Acquire ps with mem := s.mem, l1 := s.l1, l2 := s.l2, lost := s.lost, ro := s.ro, migrations := s.migrations, harts := s.harts } = s) ∧
  (
  (∀ (f : MFmt) (s s' : State) (v : View) (pa pb : Word) (x : Lane),
    let sl := slotM0 0x0AD f [f.a] [f.d.toNat, f.d.toNat + 1] (f.w.toNat = 7 || f.d.toNat % 2 = 1)
    let a : DWord := (x.reg (f.d.toNat + 1)).bits ++ (x.reg f.d.toNat).bits
    let n := (x.bits .i32 pa f.a).toNat
    let len := if n = 0 ∨ 2 ^ 31 - 1 < n then 2 ^ 31 - 1 else n
    let size := (s'.scratchOf v.w).2
    let load (t : State) (w : Window) : State := if f.tk = 8#4 then t.modThr v.iss fun t => { t with wins := t.wins.setIfInBounds f.w.toNat w }
      else t.complete v f.tk (.win f.w.toNat w) [] [] []
    Reads s v sl s' pa pb x → x.readable true f.a → (x.reg f.d.toNat).tag = .addr → (x.reg (f.d.toNat + 1)).tag = .addr →
    v.thr.winBusy f.w.toNat = false →
    (2 ^ 54 ≤ a.toNat ∨ (0x3F000000000000 ≤ a.toNat ∧ a.toNat < 0x3FFFFFFFE00000) ∨
        (0x3FFFFFFFE00000 ≤ a.toNat ∧ a.toNat < 2 ^ 54 ∧ size ≤ a.toNat - 0x3FFFFFFFE00000) →
      exec (.win f) s = .next (s.trapAll v sl ⟨.prot, some a, true⟩)) ∧
    (0x3FFFFFFFE00000 ≤ a.toNat → a.toNat < 2 ^ 54 → a.toNat - 0x3FFFFFFFE00000 < size →
      exec (.win f) s = .next ((load s' ⟨true, true, BitVec.ofNat 54 (a.toNat - 0x3FFFFFFFE00000),
        BitVec.ofNat 31 (min len (size - (a.toNat - 0x3FFFFFFFE00000))), false, 0#57, 0#17⟩).advance v.iss (1 + sl.nlits))) ∧
    (a.toNat < 0x3F000000000000 →
      (∀ t l p, s'.translate v.w.die v.w.ctx a.toNat = (t, .leaf l p) →
        exec (.win f) s = .next (((load t ⟨true, false, a.setWidth 54, BitVec.ofNat 31 (min len (contRun l p a.toNat)), true,
          BitVec.ofNat 57 (leafAddr l p a.toNat), p.setWidth 17⟩).modThr v.iss fun t => { t with replay := 0#32 }).advance v.iss
            (1 + sl.nlits))) ∧
      (∀ t m, s'.translate v.w.die v.w.ctx a.toNat = (t, .fault m) →
        exec (.win f) s = .next ((s.translate v.w.die v.w.ctx a.toNat).1.pageFault v sl (a.setWidth 54) m 4 [v.low] [])))) ∧
  ∀ (f : MFmt) (s : State) (v : View) (w : Window), Issues s v (slotM0 0x0AE f [] [f.d.toNat] false) →
    v.thr.winBusy f.w.toNat = false → v.thr.wins[f.w.toNat]? = some w →
    exec (.winq f) s = .next ((s.complete v f.tk .load [f.d.toNat]
      (v.act.map fun i => (i, f.d.toNat, ⟨if w.valid then w.limit.setWidth 32 else 0#32, .i32⟩)) []).advance v.iss 1)) ∧
  (
  ∀ e ∈ ([(0x0AF, .pfetch, true, fun s p x => if s.lineReads x.attr (replicaAddr p.die x.attr x.pa / 128)
        then s.l1Fill p x.attr (replicaAddr p.die x.attr x.pa / 128) else s),
      (0x0B0, .clean, false, fun s p x => match s.l1Find p (replicaAddr p.die x.attr x.pa / 128) with
        | none => s
        | some l => { s.writeBack l with l1 := s.l1.map fun y => if y.pipe = l.pipe && y.line == l.line then { y with dirty := 0#128 } else y }),
      (0x0B1, .inval, false, fun s p x => s.l1Drop p (replicaAddr p.die x.attr x.pa / 128))] :
      List (Nat × (MFmt → Instr) × Bool × (State → PipeId → Piece → State))),
    ∀ (f : MFmt) (s s' : State) (v : View) (l : List (Nat × Word × Word)),
      let sl := slotM e.1 f [] false
      Issues s v sl → v.thr.winBusy f.w.toNat = false → s.takes v sl v.act = some (s', l) →
      (∀ k ∈ v.act, ∀ x, s.lane? v.w.uid k = some x → x.readable true (offsetSrc f)) →
      exec (e.2.1 f) s = .next (((l.foldl (fun t a => match v.w.lanes[a.1]? with
        | none => t
        | some x =>
          let o := x.offset f false a.2.1
          let w := (t.thrOf v).wins[f.w.toNat]?.getD Window.invalid
          let va : BitVec 64 := w.base.setWidth 64 + o.signExtend 64
          if w.valid = false ∨ w.kind = true ∨ 0x3F000000000000 ≤ va.toNat then t
          else if w.run = true ∧ 0 ≤ o.toInt ∧ o.toNat < w.limit.toNat ∧ e.2.2.1 = false then
            e.2.2.2 t (v.w.pipeOf a.1) ⟨w.frame.toNat + o.toNat, 1, w.attr⟩
          else match t.pieceAt v va.toNat 1 with
            | (t, .error _) => t
            | (t, .ok p) =>
              if e.2.2.1 && (match t.checkPieces v .read va.toNat 1 [p] with | .ok _ _ => attrSO p.attr | _ => true) then t
              else e.2.2.2 t (v.w.pipeOf a.1) p) s').complete v f.tk .cache [] [] []).advance v.iss (1 + sl.nlits)))

/-- R153, R189 steps 1 to 3: the checks of one lane's access in their order: an invalid window and a scratchpad access outside its window
trap PROT with the offset in TRAPADDR, a misaligned address traps ALIGN, an address outside the space or in the spill range traps PROT,
and the aperture addresses the scratchpad.

R158, R160, R189 step 5: an access that the entry's permissions, the context's key sets, the write region or COMP refuse traps PROT.

R164: what a page fault leaves: the thread parked for the faulting lanes, and a FAULT record with the address, the access kind, the
context and the lanes at the hub.

R190, R196, R59: an operation that completes, a fence once the accesses before it have, writes its registers, lets its token fall by one and
is no longer outstanding. When a parked access is tried again, and that MEMORY_ACCESS_COMPLETE ends a tokened operation, are the model's choices (log 12, log 13). -/
def Obligations.AccessChecksAndPageFaults : Prop :=
  (
  ∀ (s : State) (v : View) (n : Nat) (o : Word) (z al : Nat) (k : Access) (w : Window),
    (s.thrOf v).wins[n]? = some w → 0 < al →
    let r := s.resolve v n o z al k
    let va : BitVec 64 := w.base.setWidth 64 + o.signExtend 64
    let size := (s.scratchOf v.w).2
    (w.valid = false → r = (s, .trap ⟨.prot, some (o.setWidth 64), true⟩)) ∧
    (w.valid = true → w.kind = true →
      (o.toInt < 0 ∨ w.limit.toNat < o.toNat + z → r = (s, .trap ⟨.prot, some (o.setWidth 64), true⟩)) ∧
      (0 ≤ o.toInt → o.toNat + z ≤ w.limit.toNat → (w.base.toNat + o.toNat) % al ≠ 0 →
        r = (s, .trap ⟨.align, some (BitVec.ofNat 64 (w.base.toNat + o.toNat)), true⟩)) ∧
      (0 ≤ o.toInt → o.toNat + z ≤ w.limit.toNat → (w.base.toNat + o.toNat) % al = 0 →
        ∃ a, r = (s, .ok (.scratch (w.base.toNat + o.toNat)) a))) ∧
    (w.valid = true → w.kind = false →
      (va.toNat % al ≠ 0 → r = (s, .trap ⟨.align, some va, true⟩)) ∧
      (va.toNat % al = 0 → 2 ^ 54 ≤ va.toNat ∨ (0x3F000000000000 ≤ va.toNat ∧ va.toNat < 0x3FFFFFFFE00000) →
        r = (s, .trap ⟨.prot, some va, true⟩)) ∧
      (va.toNat % al = 0 → 0x3FFFFFFFE00000 ≤ va.toNat → va.toNat < 2 ^ 54 →
        (size < va.toNat - 0x3FFFFFFFE00000 + z → r = (s, .trap ⟨.prot, some va, true⟩)) ∧
        (va.toNat - 0x3FFFFFFFE00000 + z ≤ size → ∃ a, r = (s, .ok (.scratch (va.toNat - 0x3FFFFFFFE00000)) a))) ∧
      (va.toNat % al = 0 → va.toNat < 0x3F000000000000 → w.run = true → 0 ≤ o.toInt → o.toNat + z ≤ w.limit.toNat → 0 < z →
        r = (s, s.checkPieces v k va.toNat z [⟨w.frame.toNat + o.toNat, z, w.attr⟩])))) ∧
  (
  ∀ (s : State) (v : View) (k : Access) (va n : Nat) (p : Piece) (c : Ctx), s.ctx? v.w.ctx = some c →
    let lock := (p.attr.extractLsb' 5 6).toNat
    let rd := p.attr.getLsbD 2 = true ∧ c.rkey.getLsbD lock = true
    let wr := p.attr.getLsbD 3 = true ∧ c.wkey.getLsbD lock = true
    let store := k = .write ∨ k = .atomic
    (¬((k = .read → rd) ∧ (store → wr) ∧ (k = .atomic → rd) ∧
        (k = .fetch → p.attr.getLsbD 4 = true ∧ c.rkey.getLsbD lock = true) ∧
        (store → s.inRegion v.w va n = true ∧ (p.attr.getLsbD 14 = true → p.attr.getLsbD 15 = true))) →
      s.checkPieces v k va n [p] = .trap ⟨.prot, some (BitVec.ofNat 64 va), true⟩) ∧
    ((k = .read → rd) → (store → wr) → (k = .atomic → rd) →
      (k = .fetch → p.attr.getLsbD 4 = true ∧ c.rkey.getLsbD lock = true) →
      (store → s.inRegion v.w va n = true ∧ p.attr.getLsbD 14 = false) →
      s.checkPieces v k va n [p] = if s.frozenIn p.pa p.len then .wait (BitVec.ofNat 54 va) [p] else .ok (.pages [p]) (BitVec.ofNat 54 va))) ∧
  (
  ∀ (s : State) (v : View) (sl : Slot) (a : BitVec 54) (bad : Bool) (kind : Nat) (lanes : List Nat) (vals : List (Nat × Word)),
    s.view v.iss = some v → v.inh = false →
    ∃ v' fl, (s.pageFault v sl a bad kind lanes vals).view v.iss = some v' ∧ v'.thr.st = .parked ∧ v'.thr.wait = .pageFault ∧
      v'.thr.replay = maskOf lanes ∧ v'.thr.hdr = v.thr.hdr ∧ v'.thr.slot = v.thr.slot ∧
      (s.pageFault v sl a bad kind lanes vals).flights = s.flights ++ [fl] ∧ fl.kr = .hub ∧ fl.push.cls = 9#4 ∧ fl.push.op = 0#4 ∧
      fl.push.ctx = v.w.ctx ∧ fl.push.key = BitVec.ofNat 48 (a.toNat / 2 ^ 18) ∧ fl.push.words[0]? = some (a.setWidth 32) ∧
      fl.push.words[2]? = some (BitVec.ofNat 32 (6 + 2 ^ 16 * kind + if bad then 2 ^ 20 else 0)) ∧
      fl.push.words[3]? = some (v.w.ctx.setWidth 32) ∧ fl.push.words[5]? = some (maskOf lanes) ∧
      fl.push.words[9]? = some (BitVec.ofNat 32 v.thr.slot) ∧
      (s.pageFault v sl a bad kind lanes vals).mem = s.mem ∧ (s.pageFault v sl a bad kind lanes vals).teams = s.teams) ∧
  (
  ∀ (s : State) (u : Nat) (v : View) (o : PendOp), s.view ⟨u, none⟩ = some v → v.thr.ops.find? (·.k == o.k) = some o →
    o.kind ≠ .push →
    (∀ rel, o.kind = .fence rel → ∀ e ∈ v.thr.ops.takeWhile (·.k != o.k),
      e.kind ≠ .load ∧ e.kind ≠ .acquire ∧ (rel = true → e.kind ≠ .store)) →
    exec (.memoryAccessComplete ⟨u, none⟩ o.k) s = .next (s.finishOp u o.k) ∧
    ∃ v', (s.finishOp u o.k).view ⟨u, none⟩ = some v' ∧ v'.thr.ops = v.thr.ops.filter (·.k != o.k) ∧
      (o.tok.toNat < 8 → v'.thr.toks[o.tok.toNat]? = (v.thr.toks[o.tok.toNat]?).map (· - 1)) ∧
      (∀ n w, o.kind = .win n w → v'.thr.wins = v.thr.wins.setIfInBounds n w) ∧
      (s.finishOp u o.k).mem = s.mem ∧ (s.finishOp u o.k).flights = s.flights ∧
      ∀ k r x y, v.w.lanes[k]? = some x → v'.w.lanes[k]? = some y → (∀ e ∈ o.writes, e.1 = k → e.2.1 ≠ r) → y.reg r = x.reg r)

/-- R193: a store through the pages of a lane's target changes memory only at the bytes it stores to, but for the write-back of dirty L1
bytes; a store to the scratchpad changes no memory and in the scratchpad only its own bytes, where it reads back.

R191: what a load reads changes memory only by the write-back of dirty L1 bytes, and no register, scratchpad or other state but the
caches with what they hold back and their choice of a victim; from the scratchpad it takes the bytes there, unless one of them has an
uncorrectable error (R172). Which lines a cache lets go of its own accord is the model's choice (log 4). -/
def Obligations.MemoryFrame : Prop :=
  (
  ∀ (s : State) (v : View) (k : Nat) (home : Bool) (bytes : List Byte), s.memOk = true →
    (∀ ps : List Piece, (ps.map (·.len)).sum = bytes.length →
      s.onlyWritesBack (s.writeTarget v k home bytes (.pages ps)) (storedBytes ps) ∧
      (s.writeTarget v k home bytes (.pages ps)).memOk = true ∧ (s.writeTarget v k home bytes (.pages ps)).waves = s.waves ∧
      (s.writeTarget v k home bytes (.pages ps)).teams = s.teams) ∧
    ∀ (a : Nat) (t : Team), s.team? v.w.team = some t →
      (s.writeTarget v k home bytes (.scratch a)).mem = s.mem ∧
      (s.writeTarget v k home bytes (.scratch a)).waves = s.waves ∧
      ∀ c, memGet ((s.writeTarget v k home bytes (.scratch a)).scratchOf v.w).1 c =
        if a ≤ c ∧ c < a + bytes.length then bytes.getD (c - a) 0#8 else memGet (s.scratchOf v.w).1 c) ∧
  (
  ∀ (s : State) (v : View) (k : Nat) (path : ReadPath) (n : Nat), s.memOk = true →
    (∀ ps : List Piece, s.onlyWritesBack (s.readTarget v k path n (.pages ps)).1 [] ∧
      { (s.readTarget v k path n (.pages ps)).1 with
        mem := s.mem, l1 := s.l1, l2 := s.l2, ro := s.ro, lost := s.lost, errs := s.errs, migrations := s.migrations, harts := s.harts,
        freeCtr := s.freeCtr } = s) ∧
    ∀ a, s.readTarget v k path n (.scratch a) = (s, if s.scratchErred v.w.team a n then none
      else some ((List.range n).map fun j => memGet (s.scratchOf v.w).1 (a + j))))

/-- 06_group R231, R232: BALLOT, VANY, VALL write the same I32 in every active lane; LANEID and MASKRD.

R233: each active lane of a shuffle takes the bits and tag of its source lane's a as read before any lane writes, or its own. That lanes whose a carries differing tags are not trapped
by R230's check is the model's choice (log 94). -/
def Obligations.VotesAndShuffles : Prop :=
  (
  (∀ e ∈ voteTable, ∀ (f : RFmt) (s s' : State) (v : View) (l : List (Nat × Word × Word)) (t : Tag),
    t ≠ .none → Issues s v (slotR e.1 f) → s.takes v (slotR e.1 f) v.act = some (s', l) →
    (∀ k ∈ v.act, ∀ x, s.lane? v.w.uid k = some x → x.carries .i32 f.a (· = t)) →
    exec (e.2.1 f) s = .next ((s'.eachLane v fun x => x.write f.d.toNat f.nw f.hd ⟨e.2.2 (s'.tookVals v f l), .i32⟩).advance v.iss
      (1 + (slotR e.1 f).nlits))) ∧
  (∀ (f : RFmt) (s s' : State) (v : View) (l : List (Nat × Word × Word)), Issues s v (slotR 0x0D2 f) →
    s.takes v (slotR 0x0D2 f) v.act = some (s', l) →
    exec (.laneid f) s = .next (s'.laneStep v (slotR 0x0D2 f) l fun i _ _ x => x.write f.d.toNat f.nw f.hd ⟨BitVec.ofNat 32 i, .i32⟩)) ∧
  ∀ (f : RFmt) (s s' : State) (v : View) (l : List (Nat × Word × Word)), Issues s v (slotR 0x0D3 f) →
    s.takes v (slotR 0x0D3 f) v.act = some (s', l) → (∀ k ∈ v.act, ∀ x, s.lane? v.w.uid k = some x → x.readable true f.a) →
    (∀ e ∈ l, ∀ x, s'.lane? v.w.uid e.1 = some x → (x.bits .i32 e.2.1 f.a).toNat < 4) →
    exec (.maskrd f) s = .next (s'.laneStep v (slotR 0x0D3 f) l fun i pa _ x => x.write f.d.toNat f.nw f.hd
      ⟨match (x.bits .i32 pa f.a).toNat, v.lane with
        | 0, none => v.w.live
        | 0, some k => if v.inh then 1#32 else 1#32 <<< k
        | 1, _ => v.w.memb
        | 2, none => BitVec.ofNat 32 v.w.dstk.length
        | 2, some _ => BitVec.ofNat 32 x.priv.length
        | _, _ => if v.w.detach then v.w.jmask else 0#32, .i32⟩)) ∧
  (
  ∀ e ∈ shuffleTable, ∀ (f : RFmt) (s s' : State) (v : View) (l : List (Nat × Word × Word)),
    let sl := slotR e.1 f
    let src (a : Nat × Word × Word) (x : Lane) := v.shuffleFrom e.2.2 a.1 (x.bits .i32 a.2.2 f.b).toNat
    let shuffled := (l.foldl (fun t a => match s'.lane? v.w.uid a.1 with
      | none => t
      | some x => match s'.lane? v.w.uid (src a x) with
        | none => t
        | some y => t.modLane v.w.uid a.1 fun z =>
          z.write f.d.toNat f.nw f.hd ⟨y.bits .i32 (tookA l (src a x)) f.a, y.tagOf f.a⟩) s').advance v.iss (1 + sl.nlits)
    Issues s v sl → s.takes v sl v.act = some (s', l) →
    ((∀ k ∈ v.act, ∀ x, s.lane? v.w.uid k = some x → x.carries .i32 f.a (· ≠ .none) ∧ x.readable true f.b) →
      exec (e.2.1 f) s = .next shuffled) ∧
    ((∀ k ∈ v.act, ∀ x, s.lane? v.w.uid k = some x → x.carries .i32 f.a (fun _ => True) ∧ x.readable true f.b) →
      (∀ a ∈ l, ∀ x y, s'.lane? v.w.uid a.1 = some x → s'.lane? v.w.uid (src a x) = some y → y.carries .i32 f.a (· ≠ .none)) →
      exec (e.2.1 f) s = .next shuffled))

/-- R234: RDX writes one reduction in every active lane under the lowest active lane's FRM and FTZ, SCAN.ADD each lane's prefix sum
under its own.

R234: what the reductions compute at one element position: a sum reduced modulo 2^width or rounded once; the smallest or largest
element, signed for INT, of bits 8:0 for SCALE, by value for FLT, and NaN with INV for FLT where an element is NaN.

R126: QMAX of a group or a detached lane agrees on E at once, each lane at its own n; a solo wave joins the exchange of its set,
which completes when every member has arrived; one alone in its set completes at once. That the arrival which completes an exchange keeps its
pipeline (log 45), and that QMAX tests its width by the group and not by a handler's lane (log 81), are the model's choices. -/
def Obligations.Reductions : Prop :=
  (
  ∀ (f : RFmt) (s s' : State) (v : View) (l : List (Nat × Word × Word)) (t : Tag),
    let vals := s'.tookVals v f l
    (∀ k ∈ v.act, ∀ x, s.lane? v.w.uid k = some x → x.carries .i32 f.a (· = t)) →
    (∀ e ∈ rdxTable, ∀ x, e.2.2.1 t = true → v.w.lanes[v.low]? = some x → Issues s v (slotR e.1 f) →
      s.takes v (slotR e.1 f) v.act = some (s', l) →
      let r := foldLanes e.2.2.2 x.env t (vals.map (·.2))
      exec (e.2.1 f) s = .next ((s'.eachLane v fun y => (y.write f.d.toNat f.nw f.hd ⟨r.1, t⟩).raise r.2).advance v.iss
        (1 + (slotR e.1 f).nlits))) ∧
    (admitIF t = true → Issues s v (slotR 0x0D1 f) → s.takes v (slotR 0x0D1 f) v.act = some (s', l) →
      exec (.scanAdd f) s = .next ((vals.foldl (fun u e => u.modLane v.w.uid e.1 fun y =>
        let r := foldLanes sumElem y.env t ((vals.filter fun g => g.1 ≤ e.1).map (·.2))
        (y.write f.d.toNat f.nw f.hd ⟨r.1, t⟩).raise r.2) s').advance v.iss (1 + (slotR 0x0D1 f).nlits)))) ∧
  (
  ∀ (e : NumEnv) (t : Tag) (l : List Nat), l ≠ [] → (∀ x ∈ l, x < 2 ^ t.width) →
    (t.cls = .int → sumElem e t l = (wrap t.width ((l.map (toSigned t.width)).sum), 0#6) ∧
      (∃ x ∈ l, extremeElem false e t l = (x, 0#6) ∧ ∀ y ∈ l, toSigned t.width x ≤ toSigned t.width y) ∧
      ∃ x ∈ l, extremeElem true e t l = (x, 0#6) ∧ ∀ y ∈ l, toSigned t.width y ≤ toSigned t.width x) ∧
    (t = .scale → (∃ x ∈ l, extremeElem false e t l = (x % 512, 0#6) ∧ ∀ y ∈ l, x % 512 ≤ y % 512) ∧
      ∃ x ∈ l, extremeElem true e t l = (x % 512, 0#6) ∧ ∀ y ∈ l, y % 512 ≤ x % 512) ∧
    (t.cls = .flt → sumElem e t l = t.fmt.deliver e.md e.ftz (exactSum e.md (l.map (t.fmt.decode e.ftz))) ∧
      ((∃ x ∈ l, t.fmt.decode e.ftz x = .nan) → ∀ mx, extremeElem mx e t l = (t.fmt.nan, flagInv)) ∧
      ((∀ x ∈ l, t.fmt.decode e.ftz x ≠ .nan) → ∀ mx, ∃ x ∈ l, extremeElem mx e t l = t.fmt.deliver e.md e.ftz (t.fmt.decode e.ftz x).exact ∧
        ∀ y ∈ l, (if mx then (t.fmt.decode e.ftz x).less (t.fmt.decode e.ftz y)
          else (t.fmt.decode e.ftz y).less (t.fmt.decode e.ftz x)) ≠ some true))) ∧
  (
  ∀ (f : RFmt) (t : Tag) (s s' : State) (v : View) (l : List (Nat × Word × Word)),
    let sl := slotR 0x034 f
    Issues s v sl → s.takes v sl v.act = some (s', l) → t.cls = .flt →
    (∀ k ∈ v.act, ∀ x, s.lane? v.w.uid k = some x → x.srcTag f.a = some t ∧ x.carries t f.a (· = t) ∧ x.readable true f.b) →
    (∀ e ∈ l, ∀ x, s'.lane? v.w.uid e.1 = some x → 2 ≤ (x.bits .i32 e.2.2 f.b).toNat ∧ (x.bits .i32 e.2.2 f.b).toNat ≤ 8) →
    let part (e : Nat × Word × Word) (x : Lane) := rowPart t (x.bits t e.2.1 f.a)
    let parts := l.filterMap fun e => (s'.lane? v.w.uid e.1).map (part e)
    let taken (y : Lane) (r : Nat × Flags) : Lane :=
      { (y.write f.d.toNat f.nw f.hd ⟨BitVec.ofNat 32 r.1, .scale⟩).raise r.2 with qsc := BitVec.ofNat 32 r.1 }
    (v.w.width ≠ 1 → exec (.qmax f) s = .next ((l.foldl (fun u e => match s'.lane? v.w.uid e.1 with
      | none => u
      | some x => u.modLane v.w.uid e.1 fun y => taken y (rowE (x.bits .i32 e.2.2 f.b).toNat parts)) s').advance v.iss (1 + sl.nlits))) ∧
    (∀ (k : Nat) (pa pb : Word) (x : Lane), v.w.width = 1 → l = [(k, pa, pb)] → s'.lane? v.w.uid k = some x →
      let p := rowPart t (x.bits t pa f.a)
      exec (.qmax f) s = .next (((s'.park v.iss
        (.qmax p.1 p.2 (x.bits .i32 pb f.b).toNat (if f.nw then none else some f.d.toNat) f.hd) sl).settleRow v.w.team
          (v.w.base / 8 * 8)).keepOwning v.iss)) ∧
    ∀ (k : Nat) (pa pb : Word) (x : Lane), v.w.width = 1 → v.lane = none → l = [(k, pa, pb)] → s'.lane? v.w.uid k = some x →
      (∀ y ∈ s.rowMembers v.w.team (v.w.base / 8 * 8), y.uid = v.w.uid) → (s.waves.map (·.uid)).Nodup →
      ∃ u y, exec (.qmax f) s = .next u ∧ u.lane? v.w.uid 0 = some y ∧
        y.qsc = BitVec.ofNat 32 (rowE (x.bits .i32 pb f.b).toNat [rowPart t (x.bits t pa f.a)]).1)

/-- R218 to R221: WPT pushes a waypoint, BRD sends diverging lanes to a pending side and runs the others, JOIN pops; a detached lane uses
its private stack. A push beyond the limit splits the wave (R223).

R211: SPLIT parks for its drains where the group state admits the width and traps ILLFLD elsewhere; SPLIT_FINISH makes the new waves,
the first keeping the old name.

R225: GROUP_REJOIN makes the wave attached again at JPOINT once every lane of JMASK is parked there with nothing outstanding. The identities of the waves that a SPLIT makes are the model's choice (log 26), and so is
that SPLIT's ILLFLD, a check on the lowest active lane's operand, traps every active lane (log 30). -/
def Obligations.DivergenceAndSplitting : Prop :=
  (
  ∀ (f : BFmt) (g : RFmt) (s : State) (v : View),
    let target := v.thr.hdr + BitVec.ofInt 54 (4 * f.off.toInt)
    (Issues s v (slotB 0x0C4 f) → v.lane = none →
      exec (.wpt f) s = .next (if v.w.dstk.length < v.w.stackLimit
        then (s.modWave v.w.uid fun w => { w with dstk := w.dstk ++ [.wp target w.live] }).advance v.iss 1
        else s.splitDeep v (fun _ => v.thr.pointAfter 1) fun i => [.wp target (1#32 <<< i)])) ∧
    (∀ k x, Issues s v (slotB 0x0C4 f) → v.lane = some k → v.w.lanes[k]? = some x →
      exec (.wpt f) s = .next (if x.priv.length < 16
        then (s.modLane v.w.uid k fun l => { l with priv := l.priv ++ [.wp target (1#32 <<< k)] }).advance v.iss 1
        else s.allTrap v (slotB 0x0C4 f) .illfld)) ∧
    (∀ taken : List Nat, Issues s v (slotB 0x0C5 f) →
      (∀ k ∈ v.act, ∀ x, v.w.lanes[k]? = some x → (x.reg f.c.toNat).tag ≠ .none ∧
        (condTest f.cond (x.reg f.c.toNat).bits ↔ k ∈ taken)) → (∃ p, taken = v.act.filter p) →
      exec (.brd f) s = .next (
        if taken = v.act then s.transfer v.iss target
        else if taken = [] then s.advance v.iss 1
        else if v.w.dstk.all (fun e => match e with | .wp _ _ => false | .pend _ _ => true) then s.allTrap v (slotB 0x0C5 f) .divg
        else if v.w.stackLimit ≤ v.w.dstk.length then
          s.splitDeep v (fun i => if i ∈ taken then (target, 0) else (v.thr.nextInSequence, 0)) fun _ => []
        else (s.modWave v.w.uid fun w =>
          { w with dstk := w.dstk ++ [.pend target (maskOf taken)], live := w.live &&& ~~~(maskOf taken) }).advance v.iss 1)) ∧
    (Issues s v (slotR 0x0C6 g) → v.lane = none →
      exec (.join g) s = .next (match v.w.dstk.getLast? with
        | none => s.allTrap v (slotR 0x0C6 g) .illfld
        | some (.wp h m) => (s.modWave v.w.uid fun w => { w with dstk := w.dstk.dropLast, live := m }).transfer v.iss h
        | some (.pend h m) => (s.modWave v.w.uid fun w => { w with dstk := w.dstk.dropLast, live := m }).transfer v.iss h)) ∧
    (∀ k x, Issues s v (slotR 0x0C6 g) → v.lane = some k → v.w.lanes[k]? = some x →
      exec (.join g) s = .next (match x.priv.getLast? with
        | none => if v.w.jslot = 0 then s.transfer v.iss v.w.jpoint
          else ((s.modThr v.iss fun t => { t.leave v.w.jpoint t.hdr t.slot with slot := v.w.jslot, redecode := true }).emptyLatches
            v.iss).parkAtJoin v.iss
        | some (.wp h _) => (s.modLane v.w.uid k fun l => { l with priv := x.priv.dropLast }).transfer v.iss h
        | some (.pend h _) => (s.modLane v.w.uid k fun l => { l with priv := x.priv.dropLast }).transfer v.iss h))) ∧
  (
  (∀ (f : RFmt) (s s' : State) (v : View) (pa pb : Word) (x : Lane),
    let sl := slotR 0x0C3 f
    let w := (x.bits .i32 pa f.a).toNat
    let full := BitVec.ofNat 32 (2 ^ v.w.width - 1)
    let ok := if v.w.detach then w = 1 else w = 1 ∨ ((w = 8 ∨ w = 16) ∧ w < v.w.width ∧ v.w.live = full ∧ v.w.memb = full ∧ v.w.dstk = [])
    Reads s v sl s' pa pb x → x.readable true f.a →
    (ok → exec (.split f) s = .next (s'.park v.iss (.split w) sl)) ∧ (¬ok → exec (.split f) s = .next (s.allTrap v sl .illfld))) ∧
  ∀ (s : State) (i : Issuer) (v : View) (w : Nat), s.view i = some v → v.thr.wait = .split w →
    (v.w.thr.ops = [] ∧ ∀ k ∈ v.w.thr.toks.toList, k = 0) →
    (∀ l ∈ v.w.lanes, ∀ t, l.own = some t → t.ops = [] ∧ ∀ k ∈ t.toks.toList, k = 0) →
    ∃ t, exec (.splitFinish i) s = .next t ∧ t.flights.map (·.k) = s.flights.map (·.k) ∧ t.uid = s.uid + ((splitParts v w).length - 1) ∧
      t.waves.map (·.uid) = (s.waves.map (·.uid)).filter (· != v.w.uid) ++
        (List.range (splitParts v w).length).map fun k => if k = 0 then v.w.uid else s.uid + (k - 1)) ∧
  (
  ∀ (s : State) (u : Nat) (w : Wave) (k : Nat), s.wave? u = some w → w.detach = true → w.thr.st ≠ .suspended →
    w.jmask.getLsbD k = true → k < w.width →
    (∀ k, w.jmask.getLsbD k = true → ∀ x, w.lanes[k]? = some x → ∃ t, x.own = some t ∧ t.wait = .jpoint ∧ t.ops = [] ∧
      ∀ n ∈ t.toks.toList, n = 0) →
    ∃ t w', exec (.groupRejoin u) s = .next t ∧ t.wave? u = some w' ∧ w'.detach = false ∧ w'.live = w.memb ∧ w'.dstk = [] ∧
      w'.thr.hdr = w.jpoint ∧ w'.thr.slot = w.jslot ∧ w'.thr.st = .ready ∧
      w'.lanes = w.lanes.map (fun l => { l with own := none, priv := [], l0 := none, l1 := none, l2 := none }) ∧
      t.mem = (s.l1Acquire w.pipes).mem ∧ t.flights = s.flights)

/-- R207, R208, R209: the outcomes of FUSE in their order; an arrival that finds no open rendezvous opens one and parks, or gets NOPEER in
try mode, and an open one with another n or key gives MISMATCH; the arrival that completes one, with a common next header and one size of
extended block, leaves it draining, for GROUP_FORM to make the group.

R209, R213, R214: GROUP_FORM makes one wave of the participants once they have drained; BANKING_SWITCH_COMPLETE lets the set's
pipelines go on. That a mode above 1 traps every active lane is the model's choice (log 30). -/
def Obligations.Fusion : Prop :=
  (
  ∀ e ∈ ([(0x0C0, .fuseW8, 8), (0x0C1, .fuseW16, 16), (0x0C2, .fuseW32, 32)] : List (Nat × (RFmt → Instr) × Nat)),
    ∀ (f : RFmt) (s s' : State) (v : View) (pa pb : Word) (x : Lane),
      let sl := slotR e.1 f
      let n := e.2.2
      let key := x.bits .i32 pa f.a
      let mode := (x.bits .i32 pb f.b).toNat
      let answer (k : Nat) := exec (e.2.1 f) s = .next (s'.finishWith v sl f ⟨BitVec.ofNat 32 k, .i32⟩)
      let opened (y : Team) : Team := { y with rendezvous := y.rendezvous.filter (fun z => !(z.base == v.w.base / n * n && z.n == n)) ++
        [⟨n, v.w.base / n * n, key, [v.w.uid], false⟩] }
      let partial_ := 1 < v.w.width ∧ (v.w.live ≠ BitVec.ofNat 32 (2 ^ v.w.width - 1) ∨ v.w.dstk ≠ [])
      Reads s v sl s' pa pb x → x.readable true f.a → x.readable true f.b →
      (v.inh = true → answer 9) ∧
      (v.inh = false → v.w.detach = true → answer 10) ∧
      (v.inh = false → v.w.detach = false →
        (1 < mode → exec (e.2.1 f) s = .next (s.allTrap v sl .illfld)) ∧
        (mode ≤ 1 → n ≤ v.w.width ∨ partial_ → answer 8) ∧
        (mode ≤ 1 → v.w.width < n → ¬partial_ →
          (s'.noPeer v.w n = true → answer 7) ∧
          (s'.noPeer v.w n = false → ∀ r, s'.rendezvousAt v.w.team n (v.w.base / n * n) = some r → r.n ≠ n ∨ r.key ≠ key → answer 8) ∧
          (s'.noPeer v.w n = false → s'.rendezvousAt v.w.team n (v.w.base / n * n) = none →
            (s'.covered [v.w.uid]).length < n → mode = 1 → answer 7) ∧
          (s'.noPeer v.w n = false → s'.rendezvousAt v.w.team n (v.w.base / n * n) = none →
            (s'.covered [v.w.uid]).length < n → mode = 0 →
            -- the first arrival waits
            ∃ t, exec (e.2.1 f) s = .next t ∧ t.team? v.w.team = (s'.team? v.w.team).map opened ∧
              t.waves = (s'.park v.iss (.fuse n key (if f.nw then none else some f.d.toNat) f.hd) sl).waves) ∧
          (s'.noPeer v.w n = false → ∀ r, s'.rendezvousAt v.w.team n (v.w.base / n * n) = some r → r.n = n → r.key = key →
            r.base = v.w.base / n * n → r.drain = false →
            (∀ p ∈ s'.covered r.parts, ¬(v.w.base ≤ p ∧ p < v.w.base + v.w.width)) →
            let parts := r.parts ++ [v.w.uid]
            n ≤ (s'.covered parts).length →
            (∀ y ∈ parts.filterMap s'.wave?, y.thr.nextInSequence = v.thr.nextInSequence ∧ y.xregs = v.w.xregs) →
            -- the last arrival completes the rendezvous, whose participants become a group once they have drained
            exec (e.2.1 f) s = .next ((s'.park v.iss (.fuse n key (if f.nw then none else some f.d.toNat) f.hd) sl).modTeam v.w.team
              fun y => { y with rendezvous := y.rendezvous.filter (fun z => !(z.base == r.base && z.n == n)) ++
                [{ r with parts := parts, drain := true }] }))))) ∧
  (
  (∀ (s : State) (t : Team) (r : Rendezvous) (w : Wave), s.team? t.uid = some t →
    t.rendezvous.find? (fun x => x.base == r.base && x.drain) = some r →
    (∀ u ∈ r.parts, ∀ x, s.wave? u = some x → x.thr.ops = [] ∧ ∀ k ∈ x.thr.toks.toList, k = 0) →
    s.wave? w.uid = some w → w.uid ∈ r.parts → w.base = r.base → 0 < r.n → 0 < w.width →
    (∀ u ∈ r.parts, ∀ x, s.wave? u = some x → x.base ≤ r.base → r.base < x.base + x.width → x = w) →
    ∃ g, exec (.groupForm t.uid r.base) s = .next g ∧ g.jobs = s.jobs ∧ g.flights = s.flights ∧
      g.waves.map (·.uid) = (s.waves.map (·.uid)).filter fun u => decide (u = w.uid ∨ u ∉ r.parts)) ∧
  ∀ (s : State) (die clu base : Nat) (p : PipeId), ∃ t, exec (.bankingSwitchComplete die clu base) s = .next t ∧
    (p.die = die → p.gw = false → p.clu = clu → p.pipe / 8 = base / 8 → (t.pipe p).switching = false) ∧
    ((p.die ≠ die ∨ p.gw = true ∨ p.clu ≠ clu ∨ p.pipe / 8 ≠ base / 8) → t.pipe p = s.pipe p) ∧ { t with pipes := s.pipes } = s)

/-- R235, R236: an arrival that completes no phase parks the wave in BAR and gives the phase in BAR.ARR; one that completes it raises the
phase and clears the arrivals; another count gives MISMATCH, a handler ABORT, a detached lane REFUSED, a count above 32 TOOBIG, and a
number above 15 traps; BAR.WT waits for a phase to pass. The model's choices among these: a count with bit 31 set is counted as above 32 (log 80), a number
above 15 traps every active lane (log 30), and the last arrival keeps its pipeline (log 45).

R235: a phase whose arrivals reach its expected count completes: the counter rises by one modulo 2^31 and the arrivals are cleared;
before that nothing changes. -/
def Obligations.Barriers : Prop :=
  (
  ∀ (f : RFmt) (s s' : State) (v : View) (pa pb : Word) (x : Lane) (t : Team) (b : Barrier),
    let a := (x.bits .i32 pa f.a).toNat
    let n := x.bits .i32 pb f.b
    let parts (y : State) : State := (y.l1Release v.w.pipes).modTeam v.w.team fun t =>
      { t with barriers := t.barriers.setIfInBounds a { b with arrived := b.arrived + 1, expected := some n.toNat } }
    let no := if v.inh then some 9 else if v.lane.isSome then some 10 else none
    x.readable true f.a → x.readable true f.b → s'.team? v.w.team = some t → (a < 16 → t.barriers[a]? = some b) →
    (∀ e ∈ ([(0x0D4, .bar, 0), (0x0D5, .barArr, 0x80000000)] : List (Nat × (RFmt → Instr) × Nat)), Reads s v (slotR e.1 f) s' pa pb x →
      (15 < a → exec (e.2.1 f) s = .next (s.allTrap v (slotR e.1 f) .illfld)) ∧
      (a < 16 → ∀ k : Nat, no = some k ∨ (no = none ∧ k = 6 ∧ 32 < n.toNat) ∨
          (no = none ∧ k = 8 ∧ n.toNat ≤ 32 ∧ ∃ m, b.expected = some m ∧ m ≠ n.toNat) →
        exec (e.2.1 f) s = .next (s'.finishWith v (slotR e.1 f) f ⟨BitVec.ofNat 32 (e.2.2 + k), .i32⟩))) ∧
    (a < 16 → no = none → n.toNat ≤ 32 → (∀ m, b.expected = some m → m = n.toNat) →
      (Reads s v (slotR 0x0D4 f) s' pa pb x → exec (.bar f) s = .next ((((parts s').park v.iss
        (.bar a (if f.nw then none else some f.d.toNat) f.hd) (slotR 0x0D4 f)).settleBarrier v.w.team a).keepOwning v.iss)) ∧
      (Reads s v (slotR 0x0D5 f) s' pa pb x → exec (.barArr f) s = .next (((parts s').settleBarrier v.w.team a).finishWith v (slotR 0x0D5 f) f
        ⟨b.phase.setWidth 32, .i32⟩))) ∧
    (Reads s v (slotR 0x0D6 f) s' pa pb x →
      (15 < a ∨ n.msb = true → exec (.barWt f) s = .next (s.allTrap v (slotR 0x0D6 f) .illfld)) ∧
      (a < 16 → n.msb = false → ∀ k, no = some k → exec (.barWt f) s = .next (s'.finishWith v (slotR 0x0D6 f) f ⟨BitVec.ofNat 32 k, .i32⟩)) ∧
      (a < 16 → n.msb = false → no = none →
        exec (.barWt f) s = .next (if 1 ≤ (b.phase - n.setWidth 31).toNat ∧ (b.phase - n.setWidth 31).toNat ≤ 2 ^ 30
          then (s'.l1Acquire v.w.pipes).finishWith v (slotR 0x0D6 f) f ⟨0#32, .i32⟩
          else s.park v.iss (.barWt a n.toNat) (slotR 0x0D6 f))))) ∧
  (
  ∀ (s : State) (team a m : Nat) (t : Team) (b : Barrier), s.team? team = some t → t.barriers[a]? = some b → b.expected = some m →
    let count := if m = 0 then (s.waves.filter (·.team == team)).length else m
    (b.arrived < count → s.settleBarrier team a = s) ∧
    (0 < b.arrived → count ≤ b.arrived → ∃ t', (s.settleBarrier team a).team? team = some t' ∧
      t'.barriers[a]? = some ⟨b.phase + 1#31, 0, none⟩ ∧ (s.settleBarrier team a).flights = s.flights))

/-- 07_keyring R265 to R268: KPUSH, KPUSH.ACK, MSEND and KDEC push the record that their block describes, lane by lane, and what one
lane's push leaves: its L1 released (R259) and the push in flight, or its status in d. -/
def Obligations.KeyringPushes : Prop :=
  (∀ f : EFmt,
    (∀ e ∈ ([(0x0E0, .kpush, .arrival), (0x0E1, .kpushAck, .acceptance)] : List (Nat × (EFmt → Instr) × Returns)),
      PushDoes (e.2.1 f) f (slotPush e.1 f 3 15) e.2.2 (fun b => descLegal [2#4, 3#4, 8#4] (b.getD 1 0#32) (b.getD 2 0#32)) fun s w k b =>
        let lvl := (b.getD 1 0#32).getLsbD 27
        if w.gw && !lvl then .status .refused
        else .push (if lvl then .die w.die else .cluster w.die w.clu)
          (pushOf s w k w.ctx (b.getD 0 0#32) (b.getD 1 0#32) (b.getD 2 0#32) (b.drop 3)) none) ∧
    (∀ e ∈ ([(0x0E7, .msend), (0x0E9, .msendEdfen2)] : List (Nat × (EFmt → Instr))),
      PushDoes (e.2 f) f (slotPush e.1 f 5 17) .acceptance (fun b =>
          let d1 := b.getD 1 0#32
          destLegal (b.getD 0 0#32) && d1.extractLsb' 13 19 == 0#19 && (d1.getLsbD 12 || d1.extractLsb' 0 12 == 0#12) &&
            descLegal [2#4, 8#4] (b.getD 3 0#32) (b.getD 4 0#32) && !(b.getD 3 0#32).getLsbD 27) fun s w k b =>
        let d1 := b.getD 1 0#32
        sendBy s (b.getD 0 0#32) (pushOf s w k (if d1.getLsbD 12 then d1.extractLsb' 0 12 else w.ctx)
          (b.getD 2 0#32) (b.getD 3 0#32) (b.getD 4 0#32) (b.drop 5))) ∧
    (∀ e ∈ ([(0x0E8, .kdec), (0x0EA, .kdecEdfen2)] : List (Nat × (EFmt → Instr))),
      let amount (b : List Word) : Word := if b.length = 3 then 1#32 else b.getD 3 0#32
      PushDoes (e.2 f) f (slotPush e.1 f 3 4) .acceptance (fun b =>
          destLegal (b.getD 0 0#32) && (b.getD 2 0#32).extractLsb' 16 16 == 0#16 && amount b != 0#32 && !(amount b).msb) fun s w k b =>
        sendBy s (b.getD 0 0#32) (pushOf s w k w.ctx (b.getD 1 0#32) ((b.getD 2 0#32 &&& 0xFFFF#32) ||| 0xD30000#32)
          0#32 [0#32 - amount b]))) ∧
  ∀ (f : EFmt) (v : View) (ret : Returns) (g : State → Wave → Nat → Lane → Sent) (k : Nat) (s : State) (w : Wave) (x : Lane),
    s.wave? v.w.uid = some w → w.lanes[k]? = some x →
    (∀ st, g s w k x = .status st → pushLanes f v ret g [k] s = (s.modLane w.uid k fun y => y.setReg f.d.toNat ⟨BitVec.ofNat 32 st.code, .i32⟩, [])) ∧
    ∀ kr p r, g s w k x = .push kr p r → ∃ t, pushLanes f v ret g [k] s = (t, [s.uid]) ∧
      t.flights = s.flights ++ [{ plainFlight s.uid kr p with
        src := some (v.iss, [k]), pipe := some (w.pipeOf k), d := some f.d.toNat, returns := ret, remote := r,
        srcCtx := (s.wave? v.iss.wave).map (·.ctx) }] ∧
      t.mem = (s.l1Release [w.pipeOf k]).mem ∧
      ∃ y, t.wave? w.uid = some y ∧ y.lanes = w.lanes ∧ y.seq = if p.ident.isSome then w.seq + 1 else w.seq

/-- R255, R248: the records available to a level-1 port, those of a context that is not LIVE being held (R253), and the one that a selection of a port takes: higher PRIO first, one level more for
each 2^16 selections that have passed the record, then the earlier arrival (in both keyrings of a port the order of arrival, log 84); it is dispatched, and every other waiting record counts the selection (R249).

R269, R270: KBIND binds a free port to the match of its four registers, or writes REFUSED; KUNBIND empties a port.

R271, R257, R272: KPOP takes one record for every active lane in ascending order and writes its image to d to d+15, or parks until
each can be supplied; KPOP.NB gives a lane without a record zeros; KQRY's four kinds. The model's choices among these: KQRY reads the state after the pops of its own ports
(log 31), the elements of a stream's records are ordered by equal context (log 22), and a dispatched record's place counts as free in KQRY's
kind 3 (log 83). -/
def Obligations.PortsAndPops : Prop :=
  (
  (∀ (s : State) (w : Wave) (p : Port) (e : KrId × Rec), p.lvl = true → (e ∈ s.available w p ↔ (∃ c, s.ctx? w.ctx = some c ∧ c.st = .live) ∧ e.1 = .die w.die ∧ e.2 ∈ (s.ring (.die w.die)).recs ∧
    e.2.ctx = w.ctx ∧ e.2.cls = p.cls ∧ e.2.key &&& p.mask = p.mtch &&& p.mask ∧ e.2.target.getLsbD 23 = false ∧ e.2.dispatched = false ∧
    (e.2.cls = 3#4 → e.2.latched = true) ∧ (e.2.stream = 0#15 ∨ ∀ x ∈ (s.ring (.die w.die)).recs, x.dispatched = false → x.cls = e.2.cls →
      x.stream = e.2.stream → x.ctx = e.2.ctx → e.2.pos ≤ x.pos))) ∧
  ∀ (s : State) (w : Wave) (i : Nat) (p : Port),
    let level (r : Rec) : Nat := min 3 (r.prio.toNat + r.age / 65536)
    (s.available w p = [] → s.popRec w i p = none) ∧
    ∀ e ∈ s.available w p, (∀ x ∈ s.available w p, x = e ∨ (x.2.uid ≠ e.2.uid ∧
        (level x.2 < level e.2 ∨ (level x.2 = level e.2 ∧ e.2.stamp < x.2.stamp)))) →
      ∃ t, s.popRec w i p = some (t, e.2.risen.image 2#2) ∧ (t.ring e.1).recs = (s.ring e.1).recs.map fun x =>
        if x.uid = e.2.uid then { x.risen with
          latched := true, dispatched := true, taker := .lane (((w.lanes[i]?).map (·.uid)).getD 0), spilled := false }
        else if x.dispatched then x else { x with age := x.age + 1 }) ∧
  (
  (∀ (f : RFmt) (r : BitVec 6) (s s' : State) (v : View) (l : List (Nat × Word × Word)),
    let sl := slotR 0x0E4 f [r.toNat + 1, r.toNat + 2, r.toNat + 3]
    f.a = .reg r → r.toNat % 4 = 0 → Issues s v sl → s.takes v sl v.act = some (s', l) →
    (∀ k ∈ v.act, ∀ x, s.lane? v.w.uid k = some x → (∀ j < 4, (x.reg (r.toNat + j)).tag ≠ .none) ∧ x.readable true f.b) →
    (∀ e ∈ l, ∀ x, s'.lane? v.w.uid e.1 = some x → (x.bits .i32 e.2.2 f.b).toNat < 8 ∧
      let w1 := (x.reg (r.toNat + 1)).bits
      w1.extractLsb' 20 4 = 0#4 ∧ w1.extractLsb' 25 7 = 0#7 ∧ (w1.extractLsb' 16 4).toNat ≤ 9 ∧ (x.reg (r.toNat + 3)).bits.toNat < 2 ^ 16) →
    exec (.kbind f) s = .next (s'.laneStep v sl l fun _ _ pb x =>
      let q := (x.bits .i32 pb f.b).toNat
      let w (j : Nat) : Word := (x.reg (r.toNat + j)).bits
      let cls := (w 1).extractLsb' 16 4
      let lvl := (w 1).getLsbD 24
      if (x.port q).bound = true ∨ (cls ≠ 2#4 ∧ cls ≠ 3#4 ∧ cls ≠ 8#4) ∨ (v.w.gw = true ∧ lvl = false)
      then x.write f.d.toNat f.nw f.hd ⟨10#32, .i32⟩
      else ({ x with ports := x.ports.setIfInBounds q ⟨true, lvl, cls, (w 1).extractLsb' 0 16 ++ w 0, (w 3).extractLsb' 0 16 ++ w 2, [], 0⟩ }).write
        f.d.toNat f.nw f.hd ⟨0#32, .i32⟩)) ∧
  ∀ f : RFmt, CompletesWhen (.kunbind f) (slotR 0x0E5 f) (fun x => x.readable true f.a) (fun pa _ x => (x.bits .i32 pa f.a).toNat < 8)
    fun pa _ x => { x with ports := x.ports.setIfInBounds (x.bits .i32 pa f.a).toNat ⟨false, false, 0#4, 0#48, 0#48, [], 0⟩ }) ∧
  (
  (∀ (f : RFmt) (s s' : State) (v : View) (l : List (Nat × Word × Word)) (w : Wave) (ps : List (Nat × Nat)),
    s'.wave? v.w.uid = some w → ps = l.filterMap (fun e => (w.lanes[e.1]?).map fun x => (e.1, (x.bits .i32 e.2.1 f.a).toNat)) →
    (∀ k ∈ v.act, ∀ x, v.w.lanes[k]? = some x → x.readable true f.a) →
    (∀ e ∈ ps, e.2 < 8 ∧ ∀ x, w.lanes[e.1]? = some x → (x.port e.2).bound = true) →
    (Issues s v (slotPop 0x0E2 f) → s.takes v (slotPop 0x0E2 f) v.act = some (s', l) →
      (State.popRecs w ps s' = none → exec (.kpop f) s = .next (s.park v.iss (.records ps) (slotPop 0x0E2 f))) ∧
      ∀ t imgs, State.popRecs w ps s' = some (t, imgs) → exec (.kpop f) s = .next (((ps.zip imgs).foldl (fun t e =>
        t.modLane v.w.uid e.1.1 fun y => (List.range 16).foldl (fun y j => y.setReg (f.d.toNat + j) ⟨e.2.getD j 0#32, .i32⟩) y) t).advance
          v.iss (1 + (slotPop 0x0E2 f).nlits))) ∧
    (Issues s v (slotPop 0x0E3 f) → s.takes v (slotPop 0x0E3 f) v.act = some (s', l) →
      exec (.kpopNb f) s = .next ((popNb w f.d.toNat ps s').advance v.iss (1 + (slotPop 0x0E3 f).nlits)))) ∧
  (∀ (s : State) (w : Wave) (i q d : Nat) (x : Lane), s.lane? w.uid i = some x → d + 16 ≤ 64 → q < 8 →
    ∃ y, (popNb w d [(i, q)] s).lane? w.uid i = some y ∧ (y.port q).buf = [] ∧
      (s.available w (x.port q) = [] → ∀ j < 16, y.reg (d + j) = ⟨0#32, .i32⟩) ∧
      ∀ t img, s.popRec w i (x.port q) = some (t, img) → ∀ j < 16, y.reg (d + j) = ⟨img.getD j 0#32, .i32⟩) ∧
  ∀ (f : RFmt) (s s' : State) (v : View) (l : List (Nat × Word × Word)),
    Issues s v (slotR 0x0E6 f) → s.takes v (slotR 0x0E6 f) v.act = some (s', l) →
    (∀ k ∈ v.act, ∀ x, s.lane? v.w.uid k = some x → x.readable true f.a ∧ x.readable true f.b) →
    (∀ e ∈ l, ∀ x, s'.lane? v.w.uid e.1 = some x →
      let a := (x.bits .i32 e.2.1 f.a).toNat
      let b := (x.bits .i32 e.2.2 f.b).toNat
      a < 8 ∧ if a % 4 = 0 then b < 8 ∧ (x.port b).bound = true else b = 0 ∧ (v.w.gw = true → 4 ≤ a)) →
    exec (.kqry f) s = .next ({ s' with freeCtr := s'.freeCtr + 1 }.laneStep v (slotR 0x0E6 f) l fun _ pa pb x =>
      let a := (x.bits .i32 pa f.a).toNat
      let k : KrId := if 4 ≤ a then .die v.w.die else .cluster v.w.die v.w.clu
      let mine (sp : Bool) : Nat := ((s'.ring k).recs.filter fun (r : Rec) => !r.dispatched && r.ctx == v.w.ctx && r.spilled == sp).length
      let size : Nat := if 4 ≤ a then 4096 else 256
      let n := match a % 4 with
        | 0 => (s'.available v.w (x.port (x.bits .i32 pb f.b).toNat)).length
        | 1 => mine false
        | 2 => mine true
        | _ => size - ((s'.ring k).recs.filter fun (r : Rec) => !r.dispatched && !r.spilled).length
      x.write f.d.toNat f.nw f.hd ⟨BitVec.ofNat 32 (min n 0xFFFFFFFF), .i32⟩))

/-- R242: the arrival event of a push: what turns it away, in order: a context that takes no more, a class its keyring does not hold
(R238), cores that are down, a missing message lock (R264), a push of an attempt that was accepted before (01_ties R29); one of an attempt
whose earlier push has arrived waits for that one's acceptance. Else it folds or makes a record, or is refused.

R240 to R242: a push that matches an OPEN record folds into it, taking no free record; one that matches none makes a record at the next
arrival position, resident where a slot is free, or is refused with nothing changed. -/
def Obligations.PushArrivalAndFolding : Prop :=
  (
  ∀ (s : State) (f : Flight), Arriving s f →
    let dead := s.ctxDead f.push.ctx
    let held := (heldClasses f.kr).contains f.push.cls.toNat
    let up := match f.kr with | .cluster d _ => s.running.contains d | .die d => s.running.contains d | .hub => s.hubUp
    let say (st : Status) := exec (.keyringPushArrival f.k) s = .next (((s.answer f st).dropFlight f.k).released f)
    (dead = true → say .torn) ∧
    (dead = false → held = false → exec (.keyringPushArrival f.k) s = .next ((s.answer f .refused).dropFlight f.k)) ∧
    (dead = false → held = true → up = false → f.waits = false →
      exec (.keyringPushArrival f.k) s = .next ((s.answer f .broken).dropFlight f.k)) ∧
    (dead = false → held = true → up = true → s.messageAllowed f = false →
      exec (.keyringPushArrival f.k) s = .next ((s.answer f .refused).dropFlight f.k)) ∧
    (dead = false → held = true → up = true → s.messageAllowed f = true → s.duplicate f = true → say .ok) ∧
    -- the push of an earlier attempt that has arrived is accepted first
    (dead = false → held = true → up = true → s.messageAllowed f = true → s.duplicate f = false → s.twinPending f = true →
      exec (.keyringPushArrival f.k) s = .next s) ∧
    (dead = false → held = true → up = true → s.messageAllowed f = true → s.duplicate f = false → s.twinPending f = false →
      (s.arrive (s.forwarded f.kr f.push) f.push).2 = none → f.waits = false → exec (.keyringPushArrival f.k) s =
        .next ((((s.arrive (s.forwarded f.kr f.push) f.push).1).answer f .refused).dropFlight f.k)) ∧
    (dead = false → held = true → up = true → s.messageAllowed f = true → s.duplicate f = false → s.twinPending f = false → f.queue = none →
      ∀ u, (s.arrive (s.forwarded f.kr f.push) f.push).2 = some u →
        let now := (s.arrive (s.forwarded f.kr f.push) f.push).1.uid
        let t : State := { (s.arrive (s.forwarded f.kr f.push) f.push).1 with uid := now + 1 }
        -- the record before a push that folds into it is kept until the push is accepted
        let kr := s.forwarded f.kr f.push
        (durable f.push.cls = false → exec (.keyringPushArrival f.k) s = .next ((t.answer f .ok).dropFlight f.k)) ∧
        (durable f.push.cls = true → f.returns = .acceptance → exec (.keyringPushArrival f.k) s = .next { t with
          flights := t.flights.map fun x =>
            if x.k = f.k then { { x with arrived := some u, kr := kr } with
              pushedTo := f.kr, apos := now, undo := (s.ring kr).recs.find? (·.uid == u) } else x }) ∧
        (durable f.push.cls = true → f.returns = .arrival → exec (.keyringPushArrival f.k) s = .next { t.answer f .ok with
          flights := (t.answer f .ok).flights.map fun x =>
            if x.k = f.k then { { x with arrived := some u, kr := kr } with
              pushedTo := f.kr, apos := now, undo := (s.ring kr).recs.find? (·.uid == u), src := none } else x }))) ∧
  (
  ∀ (s : State) (k : KrId) (p : Push),
    let m (r : Rec) : Bool := !r.latched && !r.dispatched && r.ctx == p.ctx && r.cls == p.cls && r.key == p.key && r.op == p.op && p.op != 0#4
    (∀ r, (s.ring k).recs.find? m = some r → (p.op = 11#4 → r.fill + p.words.length ≤ 12) →
      ∃ y : Rec → Rec, s.arrive k p = (s.setRing k { recs := (s.ring k).recs.map (fun x => if x.uid = r.uid then y x else x), next := (s.ring k).next + 1 },
          some r.uid) ∧ ∀ x, (y x).uid = x.uid ∧ (y x).key = x.key ∧ (y x).pos = x.pos ∧ (y x).stream = x.stream ∧
        (y x).folds = min (x.folds + 1) 255 ∧ (y x).jobIds = x.jobIds ++ p.job.toList.map (fun j => (j.team, j.serial)) ∧ (y x).prio = BitVec.ofNat 2 (max (min 3 (x.prio.toNat + x.age / 2 ^ 16)) p.prio.toNat) ∧
        (∀ e ∈ foldTable, p.op = e.1 → p.words.length ≤ x.payload.length →
          (y x).payload = List.zipWith e.2 (x.payload.take p.words.length) p.words ++ x.payload.drop p.words.length) ∧
        (p.op = 11#4 → (y x).fill = x.fill + p.words.length ∧ (y x).payload = pad12 (x.payload.take x.fill ++ p.words)) ∧
        (p.op = 13#4 → (y x).payload.headD 0#32 = x.payload.headD 0#32 + p.words.headD 0#32)) ∧
    ((s.ring k).recs.find? m = none → s.room k p.ctx = none → s.arrive k p = (s, none)) ∧
    ((s.ring k).recs.find? m = none → ∀ sp, s.room k p.ctx = some sp → ∃ r, (s.arrive k p).2 = some s.uid ∧
      ((s.arrive k p).1.ring k) = { recs := (s.ring k).recs ++ [r], next := (s.ring k).next + 1 } ∧ r.uid = s.uid ∧ r.pos = (s.ring k).next ∧
      r.spilled = sp ∧ r.dispatched = false ∧ r.folds = 0 ∧ r.payload = pad12 p.words ∧ r.key = p.key ∧ r.cls = p.cls ∧ r.op = p.op ∧
      r.ctx = p.ctx ∧ r.prio = p.prio ∧ r.stream = p.stream ∧ r.target = p.target ∧ r.fill = (if p.op = 11#4 then p.words.length else 12) ∧
      (r.latched = true ↔ p.cls = 3#4 ∧ p.words.headD 0#32 = 0#32 ∧ p.car = true)))

/-- 01_ties R27, R29: KEYRING_ACCEPT marks an arrived push's record accepted once no earlier push into it awaits its journal entry, journals
the push and gives OK; a push that its sender's grid counts raises that grid's counter (11_schedulers R376), and a LAUNCH has its grid made and
counted at its completion address (R361). R249: KEYRING_PROMOTE raises
the PRIO of a record that 2^16 selections have passed. R251: SPILL_RECORD_RETURN makes the earliest spilled record resident.

04_pipeline R145, R146, 07_keyring R263: MESSAGE_HANDLER_START dispatches the record and starts a solo wave of sixteen registers at the
handler's entry, its payload in g0 to g11; HANDLER_MSG_MOVE moves the die's next handler record to the lowest cluster that can take it,
where it stays LATCHED (the model's choice, log 46). -/
def Obligations.RecordEvents : Prop :=
  (
  (∀ (s : State) (f : Flight) (u : Nat), s.flights.find? (·.k == f.k) = some f → f.remote = none → f.arrived = some u →
    s.acceptBehind f = false →
    -- an APPEND that overflowed has made two records, which may lie in two keyrings by now
    let mark (x : Rec) : Rec := if x.uid = u ∨ (f.push.ident.isSome ∧ x.ids.head? = f.push.ident) then { x with accepted := true } else x
    let log : List JEntry := f.push.ident.toList.flatMap fun e => [f.kr, f.pushedTo].dedup.map fun k => ⟨k, e.1, e.2, f.push.attempt, false, f.carrier.isSome⟩
    let counted (g : Grid) : Grid := if f.push.counts = true ∧ f.push.parent = some g.uid then { g with counter := g.counter + 1 } else g
    let done (t : State) : State := (({ t with
      keyrings := t.keyrings.map (fun (e : KrId × Keyring) => (e.1, { e.2 with recs := e.2.recs.map mark }))
      journal := t.journal ++ log, grids := t.grids.map counted }.answer f .ok).dropFlight f.k).released f
    (f.push.cls ≠ 0#4 → exec (.keyringAccept f.k) s = .next (done s)) ∧
    ∀ r, f.push.cls = 0#4 → (s.ring f.kr).recs.find? (·.uid == u) = some r → r.grid = none →
      -- a launch's grid is made, and the word at CADDR counts it in the counter mode (11_schedulers R361)
      let g := r.newGrid s.uid
      let t : State := { s.setRing f.kr { s.ring f.kr with recs := (s.ring f.kr).recs.map fun x =>
        if x.uid = r.uid then { x with grid := some g.uid } else x } with grids := s.grids ++ [g], uid := s.uid + 1 }
      (g.cmode = true ∨ g.caddr = 0#54 → exec (.keyringAccept f.k) s = .next (done t)) ∧
      (g.cmode = false → ∀ t', t.caddrUpdate g (· + 1#32) = (t', true) → exec (.keyringAccept f.k) s = .next (done t')) ∧
      (g.cmode = false → ∀ t', t.caddrUpdate g (· + 1#32) = (t', false) → exec (.keyringAccept f.k) s = .next t')) ∧
  (∀ (kr : KrId) (k : Nat) (s : State), exec (.keyringPromote kr k) s = .next (s.setRing kr { s.ring kr with
    recs := (s.ring kr).recs.map fun r => if r.uid = k ∧ r.dispatched = false ∧ 2 ^ 16 ≤ r.age ∧ r.prio ≠ 3#2
      then { r with prio := r.prio + 1#2, age := r.age - 2 ^ 16 } else r })) ∧
  ∀ (kr : KrId) (s : State) (r : Rec), r ∈ (s.ring kr).recs → r.spilled = true → r.dispatched = false →
    (∃ c, s.ctx? r.ctx = some c ∧ c.st = .live) → s.freeRecs kr ≠ 0 →
    (∀ x ∈ (s.ring kr).recs, x.uid = r.uid → x = r) →
    (∀ x ∈ (s.ring kr).recs, x.spilled = true → x.dispatched = false → x.uid = r.uid ∨ r.pos < x.pos) →
    exec (.spillRecordReturn kr) s = .next (s.setRing kr { s.ring kr with
      recs := (s.ring kr).recs.map fun x => if x.uid = r.uid then { x with spilled := false } else x })) ∧
  (
  (∀ (s : State) (die clu p : Nat) (r : Rec) (c : Ctx) (slot : BitVec 3), s.running.contains die = true → s.handlerPipe die clu = some p →
    (s.ring (.cluster die clu)).select (s.handlerRec die clu) = some r → s.ctx? r.ctx = some c → s.freeSlot ⟨die, false, clu, p⟩ = some slot →
    ∃ t w x, exec (.messageHandlerStart die clu) s = .next t ∧ t.waves = s.waves ++ [w] ∧ w.lanes = [x] ∧ w.ctx = c.id ∧ w.die = die ∧
      w.clu = clu ∧ w.base = p ∧ w.bregs = 16 ∧ w.handler = true ∧ w.creator = r.uid ∧ w.attempt = r.attempt ∧ w.thr.st = .ready ∧
      w.thr.hdr = s.handlerEntry c (r.target.extractLsb' 0 8).toNat ∧ w.thr.slot = 0 ∧ x.slotNo = slot ∧ x.msgsrc = r.sender ∧
      (∀ j < 12, x.reg j = ⟨r.deliver.payload.getD j 0#32, .i32⟩) ∧ (∀ j, 12 ≤ j → j < 64 → x.reg j = ⟨0#32, .none⟩) ∧
      (x.trapvecHi ++ x.trapvec : BitVec 54) = c.tvec ∧ t.flights = s.flights) ∧
  ∀ (s : State) (die clu : Nat) (r : Rec),
    let can (r : Rec) (c : Nat) : Bool := s.handlerRec die c r && (s.handlerPipe die c).isSome && (s.room (.cluster die c) r.ctx).isSome
    s.running.contains die = true →
    (s.ring (.die die)).select (fun r => r.cls == 2#4 && r.target.getLsbD 23 && (List.range 64).any (can r)) = some r →
    (List.range 64).find? (can r) = some clu →
    ∃ t y, exec (.handlerMsgMove die clu) s = .next t ∧ y.uid = r.uid ∧ y.latched = true ∧ y.pos = (s.ring (.cluster die clu)).next ∧
      y.payload = r.deliver.payload ∧ y.dispatched = r.dispatched ∧ (t.ring (.cluster die clu)).recs = (s.ring (.cluster die clu)).recs ++ [y] ∧
      (∀ x ∈ (t.ring (.die die)).recs, x.uid ≠ r.uid) ∧ t.waves = s.waves)

/-- 08_matrix R299 to R301, 09_statespace R329, R331, 10_copy R351 to R353, 12_stack R402 to R405: the job instructions check their
record block, wait at issue while their table is full, and push the job. A failed check traps every active lane by log 30, and what TRAPADDR
holds for several misaligned fields or a range's two ends is log 49 and log 97: the model's choices. -/
def Obligations.JobInstructions : Prop :=
  ∀ f : EFmt,
    let sl (op n : Nat) := slotE op f f.count.toNat (f.count.toNat != n)
    let full (e : Engine) (n : Nat) (s : State) (v : View) : Bool := n ≤ (s.tab v.w.team e).outstanding
    (∀ e ∈ ([(0x0F0, 3, .mjobMma, mmaChecks), (0x0F1, 3, .mjobMmz, mmaChecks), (0x0F2, 4, .mjobWld, wldChecks), (0x0F3, 4, .mjobAco, tileChecks true),
        (0x0F4, 4, .mjobAci, tileChecks false), (0x0F5, 1, .mjobZero, zeroChecks)] :
        List (Nat × Nat × (EFmt → Instr) × (State → View → List Word → List Check))),
      JobDoes (e.2.2.1 f) f (sl e.1 e.2.1) false (fun _ _ => True) e.2.2.2 (fun s v _ => full .matrix 256 s v || s.ringBusy v) fun s v b =>
        s.pushJob v f 4#4 (if e.1 = 0x0F2 then 10#4 else 0#4)
          (fun id => if e.1 = 0x0F2 then BitVec.ofNat 6 (fld (dw b 0) 0 6) ++ BitVec.ofNat 42 (addr2 (dw b 1) (dw b 2) / 64)
            else BitVec.ofNat 48 id) (capturedJob s v .matrix e.1 0 b [])) ∧
    (∀ e ∈ ([(0x100, 8, .sscan, sscanChecks), (0x101, 3, .ssld, ssCopyChecks), (0x102, 3, .ssst, ssCopyChecks)] :
        List (Nat × Nat × (EFmt → Instr) × (State → View → List Word → List Check))),
      JobDoes (e.2.2.1 f) f (sl e.1 e.2.1) false (fun _ _ => True) e.2.2.2 (fun s v _ => full .sspace 64 s v || s.ringBusy v) fun s v b =>
        let thr := ((s.team? v.w.team).map (·.ssthr)).getD 0
        let t := fld (dw b 0) 8 7
        s.pushJob v f 6#4 0#4 (fun id => BitVec.ofNat 48 id) (capturedJob s v .sspace e.1
          (if t ≠ 0 then t else if thr ≠ 0 then thr else 4 * 2 ^ fld (dw b 0) 2 3 / 2) b [])) ∧
    (∀ e ∈ ([(0x110, 4, 22, .cpy), (0x111, 9, 26, .cpyg), (0x112, 9, 26, .cpys)] : List (Nat × Nat × Nat × (EFmt → Instr))),
      let ctr (b : List Word) := fld (dw b 0) 9 3
      let batches (b : List Word) := (copyCount e.1 b + 7) / 8
      let pf (b : List Word) : Bool := e.1 == 0x110 && (dw b 0).getLsbD 16
      JobDoes (e.2.2.2 f) f (slotE e.1 f f.count.toNat (f.count.toNat < e.2.1 || e.2.2.1 < f.count.toNat)) false
        (fun v b => ∀ x ∈ copyShape e.1 b, v.thr.winBusy x.1 = false) (copyChecks e.1)
        (fun s v b => full .copy 256 s v || s.ringBusy v ||
          (!pf b && (s.team? v.w.team).any fun t => 2 ^ 32 ≤ ((t.cc[ctr b]?).getD 0#32).toNat + batches b)) fun s v b =>
          let wins := (copyShape e.1 b).map fun x => v.thr.wins[x.1]?.getD Window.invalid
          let src := (wins[0]?).getD Window.invalid
          let keep := pf b && !src.kind
          let u := s.pushJob v f 5#4 (if keep then 10#4 else 0#4)
            (fun id => BitVec.ofNat 48 (if keep then (src.base.toNat + (dw b 1).toInt).toNat / 64 else id)) (capturedJob s v .copy e.1 (batches b) b wins)
          if pf b ∨ (u.tab v.w.team .copy).issued = (s.tab v.w.team .copy).issued then u
          else u.modTeam v.w.team fun t =>
            { t with cc := t.cc.setIfInBounds (ctr b) ((t.cc[ctr b]?).getD 0#32 + BitVec.ofNat 32 (batches b)) }) ∧
    ∀ e ∈ ([(0x130, 9, .sgath, sgathChecks), (0x131, 5, .sredAddF32, sredChecks), (0x132, 5, .sredAddBf16, sredChecks),
        (0x133, 5, .sredMaxF32, sredChecks), (0x134, 9, .sredBadd, baddChecks), (0x135, 9, .sconv, sconvChecks)] :
        List (Nat × Nat × (EFmt → Instr) × (State → View → List Word → List Check))),
      JobDoes (e.2.2.1 f) f (sl e.1 e.2.1) true (fun _ _ => True) e.2.2.2 (fun s v _ => full .stack 64 s v) fun s v b =>
        s.sendStack v f (capturedJob s v .stack e.1 0 b [])

/-- R287, R288, R301: what a job's push leaves: a record at the cluster keyring with the next identifier, a PENDING entry in the team's
table, and the identifier in d of every active lane; a record that cannot be held leaves nothing (07_keyring R252). A stack job goes to its
engines at once (12_stack R402).

08_matrix R290: the fields of a completion word; and what an end leaves in the table of the job's identifier, the job leaving its
engine. What becomes of the jobs of a completed team is the model's choice (log 25). -/
def Obligations.JobRecordsAndCompletion : Prop :=
  (
  ∀ (s : State) (v : View) (f : EFmt) (j : JobDesc) (t : Team), s.team? v.w.team = some t → j.team = v.w.team → f.d.toNat < 64 →
    let id := (t.tab j.eng).issued % 65535 + 1
    let n := (t.tab j.eng).issued + 1
    let kr := KrId.cluster v.w.die v.w.clu
    let took (u : State) : Prop := (u.tab v.w.team j.eng).issued = (t.tab j.eng).issued + 1 ∧
      (u.tab v.w.team j.eng).find id = some ⟨n, id, .pending, false, 0, 0#32, 0, 0, false, 0, 0, []⟩ ∧
      ∀ k ∈ v.act, ∀ x, s.lane? v.w.uid k = some x → ∃ y, u.lane? v.w.uid k = some y ∧ y.reg f.d.toNat = ⟨BitVec.ofNat 32 id, .i32⟩
    (∀ (cls : BitVec 4) (key : Nat → BitVec 48) (sp : Bool), s.room kr v.w.ctx = some sp → cls ≠ 3#4 →
      ∃ r, ((s.pushJob v f cls 0#4 key j).ring kr).recs = (s.ring kr).recs ++ [r] ∧ took (s.pushJob v f cls 0#4 key j) ∧
        r.cls = cls ∧ r.key = key id ∧ r.prio = 0#2 ∧ r.stream = 0#15 ∧ r.car = false ∧ r.ctx = v.w.ctx ∧ r.target = BitVec.ofNat 24 id ∧
        r.payload = pad12 (j.desc.take 12) ∧ r.job = some { j with id := id, serial := n } ∧ r.jobIds = [(v.w.team, n)] ∧ r.dispatched = false) ∧
    (∀ (cls : BitVec 4) (key : Nat → BitVec 48), s.room kr v.w.ctx = none → s.pushJob v f cls 0#4 key j = s) ∧
    (j.eng = .stack → ∃ y, (s.sendStack v f j).jobs = s.jobs ++ [y] ∧ took (s.sendStack v f j) ∧ y.d = { j with id := id, serial := n } ∧
      y.ids = [(v.w.team, n)] ∧ y.rd = false ∧ y.data = [] ∧ y.units = [] ∧ y.fault = none)) ∧
  (
  (∀ (x : JobEnt) (e : Engine), x.cause < 256 → x.prog < 256 →
    let w := x.word e
    w.toNat % 4 = (match x.st with | .done => 0 | .pending => 1 | .cancelled => 2 | .fault => 3) ∧ w.getLsbD 2 = x.rd ∧
    w.getLsbD 3 = false ∧ w.getLsbD 4 = false ∧ w.toNat / 256 % 256 = (if x.st = .fault then x.cause else 0) ∧
    (e ≠ .copy → [16, 17, 18, 19, 20].map w.getLsbD = [0, 2, 3, 4, 5].map x.flags.getLsbD) ∧
    (e = .matrix → w.toNat / 2 ^ 24 = if x.st = .fault then x.prog else 0) ∧ (e = .sspace → w.getLsbD 21 = x.tailrec) ∧
    (e = .copy → w.toNat / 65536 = min x.oor 65535 ∧ (w.getLsbD 5 = true ↔ x.oor ≠ 0)) ∧
    (e = .stack → w.toNat / 2 ^ 21 = min x.oor 0x7FF ∧ (w.getLsbD 5 = true ↔ x.oor ≠ 0))) ∧
  ∀ (s : State) (j : Job) (u m : Nat) (t : Team), j.ids = [(u, m)] → s.team? u = some t →
    let old := t.tab j.d.eng
    let new (f : JobEnt → JobEnt) : JobTab := { old with
      clock := old.clock + 1
      ents := old.ents.map fun x => if x.serial = m ∧ x.st = .pending then { f x with ended := old.clock + 1 } else x }
    ((s.doneJob j).tab u j.d.eng = new fun x => { x with st := .done, rd := true, flags := x.flags ||| j.flags, oor := j.oor }) ∧
    (∀ c n, (s.faultJob j c n).tab u j.d.eng = new fun x =>
      { x with st := .fault, cause := c, prog := n, flags := x.flags ||| j.flags, oor := j.oor }) ∧
    (s.doneJob j).jobs = s.jobs.filter (·.k != j.k) ∧ (∀ c n, (s.faultJob j c n).jobs = s.jobs.filter (·.k != j.k)) ∧
    ((s.readDone j).tab u j.d.eng = { old with ents := old.ents.map fun x => if x.serial = m ∧ x.st = .pending then { x with rd := true, oor := max x.oor j.oor } else x }))

/-- R302, R303, 09_statespace R332, R333, 10_copy R354, R355, 12_stack R406: the waits return the completion word at once, or park until the
job has ended or, in mode READ, is past its reads; the queries never park.

R304, 10_copy R356: MCANCEL and CPYC withdraw an undispatched record, wherever it lies, and every identifier it holds ends CANCELLED; CPYC takes the
job's batches from its counter.

R305 to R307: LIVE sets or removes the team's tile mask; RING.PUB configures a ring or publishes entries behind a release; RING.WT waits
for free entries. The traps of the waits, queries, cancels and rings in every active lane (log 30), and that a copy counter's return acquires the
writes of all the batches it has counted (log 51), are the model's choices. -/
def Obligations.JobWaitsAndRings : Prop :=
  (
  (∀ e ∈ ([(0x0F6, .mwait, .matrix, false), (0x103, .sswait, .sspace, false), (0x136, .swait, .stack, true)] :
      List (Nat × (RFmt → Instr) × Engine × Bool)),
    ∀ (f : RFmt) (s s' : State) (v : View) (a b : Word), ReadsAB s v (slotR e.1 f) f s' a b →
      let t := s'.tab v.w.team e.2.2.1
      let x := t.latest a.toNat
      let ready := ∀ y, x = some y → y.st ≠ .pending ∨ (b = 0#32 ∧ y.rd = true)
      let lines := match x with | some y => if y.st = .pending then [] else y.wrote | none => []
      ((v.w.gw = true ∧ e.2.2.2 = false) ∨ 65536 ≤ a.toNat ∨ 1 < b.toNat →
        exec (e.2.1 f) s = .next (s.trapAll v (slotR e.1 f) ⟨.illfld, none, true⟩)) ∧
      ((v.w.gw = true → e.2.2.2 = true) → a.toNat < 65536 → b.toNat ≤ 1 →
        (ready → exec (e.2.1 f) s = .next ((if b = 1#32 then s'.acquireLines v lines else s').finishWith v (slotR e.1 f) f
          ⟨completionOf t e.2.2.1 a.toNat, .i32⟩)) ∧
        (¬ready → exec (e.2.1 f) s = .next (s.park v.iss
          (.job e.2.2.1 a (b == 0#32) (if f.nw then none else some f.d.toNat) f.hd) (slotR e.1 f))))) ∧
  (∀ (f : RFmt) (s s' : State) (v : View) (pa pb : Word) (x : Lane), Reads s v (slotR 0x0F7 f) s' pa pb x → x.readable true f.a →
    let a := x.bits .i32 pa f.a
    (v.w.gw = true ∨ 65536 ≤ a.toNat → exec (.mqry f) s = .next (s.trapAll v (slotR 0x0F7 f) ⟨.illfld, none, true⟩)) ∧
    (v.w.gw = false → a.toNat < 65536 → exec (.mqry f) s = .next ((s'.acquireLines v (s'.jobLines v.w.team .matrix a.toNat)).finishWith v
      (slotR 0x0F7 f) f ⟨completionOf (s'.tab v.w.team .matrix) .matrix a.toNat, .i32⟩))) ∧
  (∀ e ∈ ([(0x104, .ssqry, .sspace, false), (0x114, .cpyq, .copy, false), (0x137, .sqry, .stack, true)] :
      List (Nat × (RFmt → Instr) × Engine × Bool)),
    ∀ (f : RFmt) (s s' : State) (v : View) (a b : Word), ReadsAB s v (slotR e.1 f) f s' a b →
      let t := s'.tab v.w.team e.2.2.1
      let n := a.toNat
      let lines := s'.jobLines v.w.team e.2.2.1 n
      let say (u : State) (w : Word) := exec (e.2.1 f) s = .next (u.finishWith v (slotR e.1 f) f ⟨w, .i32⟩)
      let bad := exec (e.2.1 f) s = .next (s.trapAll v (slotR e.1 f) ⟨.illfld, none, true⟩)
      let count := BitVec.ofNat 32 (((t.latest n).map (·.count)).getD 0)
      (v.w.gw = true → e.2.2.2 = false → bad) ∧
      ((v.w.gw = true → e.2.2.2 = true) →
        (b.toNat ≤ 1 → 65536 ≤ n → bad) ∧
        (b = 0#32 → n < 65536 → say (s'.acquireLines v lines) (completionOf t e.2.2.1 n)) ∧
        (b = 1#32 → n < 65536 → say (if e.1 = 0x114 then s' else s'.acquireLines v lines) count) ∧
        (e.1 = 0x104 → b = 2#32 → if n = 0 then say s' (BitVec.ofNat 32 (((s'.team? v.w.team).map (·.ssthr)).getD 0)) else bad) ∧
        (e.1 = 0x104 → b = 3#32 → if 64 < n then bad else if s'.ringBusy v then exec (e.2.1 f) s = .next s
          else say (s'.modTeam v.w.team fun t => { t with ssthr := n }) (BitVec.ofNat 32 (((s'.team? v.w.team).map (·.ssthr)).getD 0))) ∧
        (e.1 = 0x114 → b = 2#32 → 7 < n → bad) ∧
        (e.1 = 0x114 → b = 2#32 → n ≤ 7 → ∀ y, s'.team? v.w.team = some y →
          let c := (y.cc[n]?).getD 0#32
          say (s'.acquireLines v ((y.ccWrote.filter fun z => z.1 == n).flatMap (·.2))) c) ∧
        ((e.1 = 0x114 ∧ b = 3#32) ∨ (e.1 = 0x137 ∧ b = 2#32) → if n = 0
          then say s' (BitVec.ofNat 32 (t.ents.filter fun y => y.st = .pending).length) else bad) ∧
        (3 < b.toNat ∨ (e.1 = 0x137 ∧ b = 3#32) → bad))) ∧
  ∀ (f : RFmt) (s s' : State) (v : View) (a b : Word) (t : Team), ReadsAB s v (slotR 0x113 f) f s' a b → s'.team? v.w.team = some t →
    let c := (t.cc[a.toNat]?).getD 0#32
    (v.w.gw = true ∨ 7 < a.toNat → exec (.cpyw f) s = .next (s.trapAll v (slotR 0x113 f) ⟨.illfld, none, true⟩)) ∧
    (v.w.gw = false → a.toNat ≤ 7 → c.toNat ≤ b.toNat → exec (.cpyw f) s = .next ((s'.acquireLines v
      ((t.ccWrote.filter fun z => z.1 == a.toNat).flatMap (·.2))).finishWith v (slotR 0x113 f) f ⟨c, .i32⟩)) ∧
    (v.w.gw = false → a.toNat ≤ 7 → b.toNat < c.toNat → exec (.cpyw f) s = .next (s.park v.iss (.copyCount a.toNat b) (slotR 0x113 f)))) ∧
  (
  ∀ e ∈ ([(0x0F8, .mcancel, .matrix, 4#4), (0x115, .cpyc, .copy, 5#4)] : List (Nat × (RFmt → Instr) × Engine × BitVec 4)),
    ∀ (f : RFmt) (s s' : State) (v : View) (pa pb : Word) (x : Lane), Reads s v (slotR e.1 f) s' pa pb x → x.readable true f.a →
      let a := (x.bits .i32 pa f.a).toNat
      -- the first keyring of a cluster that holds an undispatched record of the job: a team may have been readmitted elsewhere since its push
      let held (x : JobEnt) : Option (KrId × Rec) := s'.keyrings.findSome? fun k => match k.1 with
        | .cluster _ _ => (k.2.recs.find? fun r => r.cls == e.2.2.2 && !r.dispatched && r.jobIds.contains (v.w.team, x.serial)).map fun r => (k.1, r)
        | _ => none
      let say (u : State) (k : Nat) := exec (e.2.1 f) s = .next (u.finishWith v (slotR e.1 f) f ⟨BitVec.ofNat 32 k, .i32⟩)
      (v.w.gw = true ∨ 65536 ≤ a → exec (e.2.1 f) s = .next (s.trapAll v (slotR e.1 f) ⟨.illfld, none, true⟩)) ∧
      (v.w.gw = false → a < 65536 → s'.ringBusy v = true → exec (e.2.1 f) s = .next s) ∧
      (v.w.gw = false → a < 65536 → s'.ringBusy v = false →
        ((s'.tab v.w.team e.2.2.1).latest a = none → say s' 7) ∧
        (∀ z, (s'.tab v.w.team e.2.2.1).latest a = some z → held z = none → say s' 10) ∧
        ∀ z kr y j, (s'.tab v.w.team e.2.2.1).latest a = some z → held z = some (kr, y) → y.job = some j →
          let ended := y.jobIds.foldl (fun s i => s.modTab i.1 e.2.2.1 fun t => t.finish i.2 fun x => { x with st := .cancelled, rd := false })
            (s'.setRing kr { s'.ring kr with recs := (s'.ring kr).recs.filter fun x => x.uid != y.uid })
          let u := (y.jobIds.map (·.1)).dedup.foldl (fun s t => s.wakeJobs t) ended
          say (if e.1 = 0x115 ∧ ¬(j.op = 0x110 ∧ (dw j.desc 0).getLsbD 16 = true) then u.modTeam j.team fun t =>
            { t with cc := t.cc.setIfInBounds (fld (dw j.desc 0) 9 3) ((t.cc[fld (dw j.desc 0) 9 3]?).getD 0#32 - BitVec.ofNat 32 j.n) } else u) 0)) ∧
  (
  (∀ (f : RFmt) (s s' : State) (v : View) (pa pb : Word) (x : Lane) (t : Team), Reads s v (slotR 0x0F9 f) s' pa pb x → x.readable true f.a →
    s'.team? v.w.team = some t →
    let a := x.bits .i32 pa f.a
    let legal := v.w.gw = false ∧ a.toNat < 2 ^ 17 ∧ a.toNat % 65536 < 2 ^ t.tiles ∧ (65536 ≤ a.toNat → a.toNat = 65536)
    (¬legal → exec (.live f) s = .next (s.trapAll v (slotR 0x0F9 f) ⟨.illfld, none, true⟩)) ∧
    (legal → s'.ringBusy v = true → exec (.live f) s = .next s) ∧
    (legal → s'.ringBusy v = false → exec (.live f) s = .next ((s'.modTeam v.w.team fun t =>
      { t with live := if 65536 ≤ a.toNat then none else some (a.setWidth 16) }).advance v.iss (1 + (slotR 0x0F9 f).nlits)))) ∧
  (∀ (f : RFmt) (s s' : State) (v : View) (a b : Word) (t : Team), ReadsAB s v (slotR 0x0FA f) f s' a b → s'.team? v.w.team = some t →
    let i := a.toNat % 8
    let r := (t.rings[i]?).getD Ring.reset
    let count := r.count.toNat + 1
    let held := (r.pub - r.con).toNat
    let base := (b.extractLsb' 0 15).toNat
    let say (u : State) (k : Nat) := exec (.ringPub f) s = .next (u.finishWith v (slotR 0x0FA f) f ⟨BitVec.ofNat 32 k, .i32⟩)
    let set (u : State) (y : Ring) := u.modTeam v.w.team fun _ => { t with rings := t.rings.setIfInBounds i y }
    let legal := v.w.gw = false ∧ only a 0x107#32 = true ∧ (a.getLsbD 8 = true → b.msb = false)
    (¬legal → exec (.ringPub f) s = .next (s.trapAll v (slotR 0x0FA f) ⟨.illfld, none, true⟩)) ∧
    (legal → a.getLsbD 8 = true →
      let size := 64 * (base + ((b.extractLsb' 23 8).toNat + 1) * ((b.extractLsb' 15 8).toNat + 1))
      (s'.ringNamed v i = true → say (s'.modTeam v.w.team fun _ => t) 10) ∧
      (s'.ringNamed v i = false → t.scratchSize < size → say (s'.modTeam v.w.team fun _ => t) 6) ∧
      (s'.ringNamed v i = false → size ≤ t.scratchSize →
        say (set s' ⟨true, b.extractLsb' 0 15, b.extractLsb' 15 8, b.extractLsb' 23 8, 0#32, 0#32⟩) 0)) ∧
    (legal → a.getLsbD 8 = false →
      (r.cfg = false → say (s'.modTeam v.w.team fun _ => t) 10) ∧
      (r.cfg = true → b.toInt < 1 ∨ count < b.toNat → say (s'.modTeam v.w.team fun _ => t) 6) ∧
      (r.cfg = true → 1 ≤ b.toInt → b.toNat ≤ count → count < held + b.toNat → say (s'.modTeam v.w.team fun _ => t) 1) ∧
      (r.cfg = true → 1 ≤ b.toInt → b.toNat ≤ count → held + b.toNat ≤ count →
        say (set (s'.l1Release v.w.pipes) { r with pub := r.pub + b }) 0))) ∧
  ∀ (f : RFmt) (s s' : State) (v : View) (a b : Word) (t : Team), ReadsAB s v (slotR 0x0FB f) f s' a b → s'.team? v.w.team = some t →
    let r := (t.rings[a.toNat]?).getD Ring.reset
    let count := r.count.toNat + 1
    let say (k : Nat) := exec (.ringWt f) s = .next (s'.finishWith v (slotR 0x0FB f) f ⟨BitVec.ofNat 32 k, .i32⟩)
    (v.w.gw = true ∨ 7 < a.toNat → exec (.ringWt f) s = .next (s.trapAll v (slotR 0x0FB f) ⟨.illfld, none, true⟩)) ∧
    (v.w.gw = false → a.toNat ≤ 7 →
      (r.cfg = false → say 10) ∧
      (r.cfg = true → b.toInt ≤ 0 → say 0) ∧
      (r.cfg = true → 0 < b.toInt → count < b.toNat → say 6) ∧
      (r.cfg = true → 0 < b.toInt → b.toNat ≤ count → b.toNat ≤ count - (r.pub - r.con).toNat → say 0) ∧
      (r.cfg = true → 0 < b.toInt → b.toNat ≤ count → count - (r.pub - r.con).toNat < b.toNat →
        exec (.ringWt f) s = .next (s.park v.iss (.ring a.toNat b.toNat) (slotR 0x0FB f)))))

/-- R287, 09_statespace R319, 10_copy R345: an engine takes the next record of its class whose team is resident, in a LIVE context, unless it
holds as many dispatched jobs as it may.

R283, R292: MATRIX_READ_DONE: the panels of a flat MMA or MMZ, the tile of an ACO, the rows of an ACI and the bytes of a WLD are read
and the job is past its reads; a WLD clears the images it overlaps first (R280). R295: a missing or mismatched image
or an error that a panel or a row meets faults. MATRIX_JOB_SUSPEND: a ring job that has read every published entry applies what it read and
gives the array to another job.

R280, R285, R286, R291: the ends of matrix jobs: MMA and MMZ leave the tile that R98's updates give, WLD its image, ACO the rows it
wrote, ACI the tile it loaded, ZERO a tile of zeros; a fault ends the job with its cause and its progress. Flags on transient values follow log 44; the result of an infinite value in E4M3 follows log 16;
that a read event reads all that is left at once is log 19, and PROG of a bad map as its column log 47: the model's choices. -/
def Obligations.MatrixEvents : Prop :=
  (
  ∀ e ∈ ([(.matrixJobDispatch, .matrix, 8, 4#4), (.ssJobDispatch, .sspace, 4, 6#4), (.copyJobDispatch, .copy, 16, 5#4)] :
      List ((Nat → Nat → Instr) × Engine × Nat × BitVec 4)),
    ∀ (die clu : Nat) (s : State),
      let kr := KrId.cluster die clu
      let mine := s.jobs.filter fun j => j.d.eng = e.2.1 && j.die == die && j.clu == clu
      (s.running.contains die = false ∨ e.2.2.1 ≤ mine.length → exec (e.1 die clu) s = .next s) ∧
      ∀ (r : Rec) (d : JobDesc), s.running.contains die = true → mine.length < e.2.2.1 → r.job = some d →
        ((s.ring kr).select fun r => r.cls == e.2.2.2 && r.job.any (fun j => (s.team? j.team).isSome) &&
          (s.ctx? r.ctx).any fun c => c.st = .live) = some r →
        ∃ t j, exec (e.1 die clu) s = .next t ∧ j.k = s.uid ∧ j.d = d ∧ j.ids = r.jobIds ∧ j.die = die ∧ j.clu = clu ∧ j.rd = false ∧
          j.done = 0 ∧ j.fault = none ∧ (∀ x ∈ (t.ring kr).recs, x.cls = e.2.2.2 → x.uid ≠ r.uid) ∧
          (¬(d.op = 0x110 ∧ (dw d.desc 0).getLsbD 16 = true ∧ (d.wins[0]?).any (·.kind) = true) → t.jobs = s.jobs ++ [j]) ∧
          (e.2.1 = .copy → ¬(d.op = 0x110 ∧ (dw d.desc 0).getLsbD 16 = true) → ∀ y, s.team? d.team = some y →
            ∃ y', t.team? d.team = some y' ∧ y'.ccQ = y.ccQ ++ [⟨s.uid, fld (dw d.desc 0) 9 3, d.n, [], []⟩])) ∧
  (
  (∀ (s : State) (die clu k : Nat) (j : Job) (t : Team), Reading s .matrix die clu k matrixAreas j → s.team? j.d.team = some t →
    let b := j.d.desc
    let w0 := dw b 0
    let np := fld w0 16 7 + 1
    let psize := panelSize (fld w0 4 4)
    let scr := s.teamScratch j.d.team
    let ev := exec (.matrixReadDone die clu k) s
    let im := (s.cluster die clu).images.find? (·.slot == fld (dw b 2) 0 6)
    let r := (t.rings[fld w0 9 3]?).getD Ring.reset
    let held := (r.pub - r.con).toNat
    let bad (o : Nat) : Bool := s.scratchErred j.d.team o psize
    let flatAt (p : Nat) : Nat := (dw b 1).toNat + p * psize
    let ringAt (i : Nat) : Nat := 64 * (r.base.toNat + (r.con + BitVec.ofNat 32 i).toNat % (r.count.toNat + 1) * (r.esize.toNat + 1))
    let small : Prop := w0.getLsbD 8 = true ∧ (r.cfg = false ∨ (r.esize.toNat + 1) * 64 < psize)
    -- a job that starts, or goes on after a suspension, finds its image and its ring in order
    let starts : Prop := j.done = 0 ∨ j.suspended = true
    let good : Prop := ∃ y, im = some y ∧ y.kb = fld w0 16 7 ∧ y.ctx = j.d.ctx ∧ ¬small
    let panels (n : Nat) (l : List (List Byte)) (x : Job) : Job := { x with data := l, done := n }
    (j.d.op = 0x0F0 ∨ j.d.op = 0x0F1 → s.arrayFree j = true →
      (starts → im = none → ev = .next (s.modJob k fun x => { x with fault := some (2, j.done) })) ∧
      (∀ y, starts → im = some y → y.kb ≠ fld w0 16 7 ∨ (y.ctx = j.d.ctx ∧ small) →
        ev = .next (s.modJob k fun x => { x with fault := some (2, j.done) })) ∧
      (∀ y, starts → im = some y → y.kb = fld w0 16 7 → y.ctx ≠ j.d.ctx → ev = .next (s.modJob k fun x => { x with fault := some (7, j.done) })) ∧
      (w0.getLsbD 8 = false → (starts → good) → (∀ p < np, bad (flatAt p) = false) →
        ev = .next ((s.modJob k (panels np ((List.range np).map fun p => memGets scr (flatAt p) psize))).readDone j)) ∧
      (∀ m < np, w0.getLsbD 8 = false → (starts → good) → (∀ p < m, bad (flatAt p) = false) → bad (flatAt m) = true →
        ev = .next (s.modJob k fun x => { panels m ((List.range m).map fun p => memGets scr (flatAt p) psize) x with fault := some (11, m) })) ∧
      (w0.getLsbD 8 = true → (starts → good) →
        (held = 0 → ev = .next s) ∧
        ∀ n, n = min held (np - j.done) → 0 < held → (∀ i < n, bad (ringAt i) = false) →
          let u := (s.modTeam j.d.team fun t => { t with rings := t.rings.setIfInBounds (fld w0 9 3) { r with con := r.con + BitVec.ofNat 32 n } }).modJob k
            fun x => { panels (j.done + n) (j.data ++ (List.range n).map fun i => memGets scr (ringAt i) psize) x with suspended := false }
          ev = .next (if j.done + n < np then u else u.readDone j))) ∧
    (j.d.op = 0x0F2 → ∀ u l,
      let slots := (imageZ (fld w0 8 4) (fld w0 12 3) (32 * np) + 8191) / 8192
      let keep (w : WSlot) : Bool := w.slot + w.len ≤ fld w0 0 6 || fld w0 0 6 + slots ≤ w.slot
      State.readList j .expanded (wldReads b) 0 (s.modCluster die clu fun c => { c with images := c.images.filter keep }) = (u, l, none) →
      ev = .next ((u.modJob k fun x => { x with data := l }).readDone j)) ∧
    (j.d.op = 0x0F3 → ∀ n, n ≤ 128 → (∀ i < n, s.erred .tile j.d.team (tileAddr (fld w0 0 4) i 0) 512 = false) →
        (n < 128 → s.erred .tile j.d.team (tileAddr (fld w0 0 4) n 0) 512 = true) → ∃ rows : List (List Byte × List Byte × Flags),
      rows = (List.range n).map (fun i => acoRow (fld w0 4 4) (w0.getLsbD 8) (toSigned 8 (fld w0 16 8)) (t.tileRow (fld w0 0 4) i)) ∧
      let u := s.modJob k fun x => { x with data := rows.flatMap (fun r => [r.1, r.2.1]), flags := rows.foldl (fun a r => a ||| r.2.2.setWidth 32) 0#32 }
      ev = .next (if n = 128 then u.readDone j else u.modJob k fun x => { x with fault := some (11, n) })) ∧
    (j.d.op = 0x0F4 → ∀ u l, State.readList j .expanded ((List.range 128).map fun i =>
        (addr2 (dw b 1) (dw b 2) + i * (dw b 3).toNat, rowBytes (fld w0 4 4))) 0 s = (u, l, none) →
      ev = .next ((u.modJob k fun x => { x with data := l }).readDone j)) ∧
    (j.d.op = 0x0F5 → ev = .next s)) ∧
  ∀ (s : State) (die clu k : Nat) (j : Job) (t : Team), s.jobs.find? (·.k == k) = some j → j.die = die → j.clu = clu → j.rd = false →
    j.fault = none → j.suspended = false → j.d.op = 0x0F0 ∨ j.d.op = 0x0F1 → (dw j.d.desc 0).getLsbD 8 = true → s.team? j.d.team = some t →
    s.jobFree matrixAreas j = true → s.arrayFree j = true →
    (t.ring (fld (dw j.d.desc 0) 9 3)).pub = (t.ring (fld (dw j.d.desc 0) 9 3)).con →
    (∃ i ∈ s.jobs, i.d.eng = .matrix ∧ i.die = die ∧ i.clu = clu ∧ i.k ≠ k ∧ i.array = true ∧
      -- it waits for the array alone
      i.rd = false ∧ i.stalled = false ∧ i.fault = none ∧ s.jobFree matrixAreas i = true ∧ (i.suspended = true → s.ringDry i = false) ∧
      areasClash (s.jobAreas matrixAreas i) (s.jobAreas matrixAreas j) = false) → j.d.eng = .matrix →
    (∀ u i, s.applyPanels j = (u, .ok i) → exec (.matrixJobSuspend die clu k) s = .next (u.modJob k fun _ => { i with suspended := true })) ∧
    ∀ u c, s.applyPanels j = (u, .error c) → exec (.matrixJobSuspend die clu k) s =
      .next (u.modJob k fun x => { x with data := [], fault := some (c, j.done - j.data.length) })) ∧
  (
  (∀ (s : State) (j : Job),
    let w0 := dw j.d.desc 0
    let im := (s.cluster j.die j.clu).images.find? (·.slot == fld (dw j.d.desc 2) 0 6)
    let p0 := j.done - j.data.length
    let first : Prop := j.d.op = 0x0F1 ∧ j.done = j.data.length
    let erredW (y : WSlot) : Bool := s.erred .weight (j.die * 64 + j.clu) (8192 * y.slot) (8192 * y.len)
    let erredT : Bool := s.erred .tile j.d.team (65536 * fld w0 0 4) 65536
    (j.data = [] → s.applyPanels j = (s, .ok j)) ∧
    (j.data ≠ [] → im = none → s.applyPanels j = (s, .error 2)) ∧
    ∀ t y, s.team? j.d.team = some t → im = some y →
      (j.data ≠ [] → erredW y = true → s.applyPanels j =
        (s.modCluster j.die j.clu fun c => { c with images := c.images.filter fun w => w.slot != y.slot }, .error 11)) ∧
      (j.data ≠ [] → erredW y = false → ¬first → erredT = true → s.applyPanels j = (s, .error 11)) ∧
      (j.data ≠ [] → erredW y = false → first ∨ erredT = false → ∃ (ws : List Word) (fl : Word),
        s.applyPanels j = (s.modTeam j.d.team fun t => t.putTile (fld w0 0 4) ws, .ok { j with data := [], flags := j.flags ||| fl }) ∧ ws.length = 16384 ∧
        ∀ i < 128, ∀ c < 128, ∃ row col : List Val, ∃ g : Nat, ws[128 * i + c]? =
          some (mmaElem (if j.d.op = 0x0F1 ∧ p0 = 0 then 0#32 else t.accWord (fld w0 0 4) i c)
            (groupsOf g (32 * j.data.length) ((row.zip col).map fun e => e.1.mul e.2))).1 ∧
          row = (j.data.flatMap fun p => (List.range 32).map fun x => panelVal (fun n => p.getD n 0#8) (fld w0 4 4) i x) ∧
          col = (List.range (32 * j.data.length)).map (fun x => imageVal (fun n => memGet (s.cluster j.die j.clu).data (8192 * y.slot + n))
            y.fmt y.ncode (descK j.d.desc) c (32 * p0 + x)) ∧
          g = if codeBits (fld w0 4 4) = 16 ∨ codeBits y.fmt = 16 then 4 else 32)) ∧
  (∀ (s : State) (die clu k : Nat) (j : Job), Ending s die clu k [0x0F0, 0x0F1] matrixAreas j →
    -- a faulted MMZ of no panel leaves a tile of zeros (R295)
    let faulted (u : State) (i : Job) (c n : Nat) : State := (if n = 0 ∧ j.d.op = 0x0F1 then u.modTeam j.d.team fun t =>
      t.putTile (fld (dw j.d.desc 0) 0 4) (List.replicate 16384 0#32) else u).faultJob i c n
    (∀ u c, s.applyPanels j = (u, .error c) → exec (.mmaJobEnd die clu k) s = .next (faulted u j c (j.done - j.data.length))) ∧
    ∀ u i, s.applyPanels j = (u, .ok i) →
      (∀ c n, j.fault = some (c, n) → exec (.mmaJobEnd die clu k) s = .next (faulted u i c n)) ∧
      (j.fault = none → exec (.mmaJobEnd die clu k) s = .next (u.doneJob i))) ∧
  (∀ (s : State) (die clu k : Nat) (j : Job), Ending s die clu k [0x0F2] matrixAreas j →
    let w0 := dw j.d.desc 0
    let len := (imageZ (fld w0 8 4) (fld w0 12 3) (descK j.d.desc) + 8191) / 8192
    let img := if w0.getLsbD 15 then (convImage j.d.desc j.data).1 else j.data.flatten
    let fl : Flags := if w0.getLsbD 15 then (convImage j.d.desc j.data).2 else 0#6
    let keep (w : WSlot) : Bool := w.slot + w.len ≤ fld w0 0 6 || fld w0 0 6 + len ≤ w.slot
    let u := s.modCluster die clu fun c => { c with images := c.images.filter keep, data := memPuts c.data (8192 * fld w0 0 6) img }
    (∀ c n, j.fault = some (c, n) → exec (.wldJobEnd die clu k) s = .next (s.faultJob j c n)) ∧
    (∀ n, j.fault = none → badMap j.d.desc (memPuts [] 0 img) = some n → exec (.wldJobEnd die clu k) s = .next (u.faultJob j 2 n)) ∧
    (j.fault = none → badMap j.d.desc (memPuts [] 0 img) = none → exec (.wldJobEnd die clu k) s = .next ((u.modCluster die clu fun c =>
      { c with images := c.images ++ [⟨fld w0 0 6, fld w0 8 4, fld w0 12 3, fld w0 16 7, len, j.d.ctx⟩] }).doneJob
        { j with flags := fl.setWidth 32 }))) ∧
  (∀ (s : State) (die clu k : Nat) (j : Job), Ending s die clu k [0x0F3] matrixAreas j →
    let rows := State.writeRows j (addr2 (dw j.d.desc 1) (dw j.d.desc 2)) (dw j.d.desc 3).toNat (j.data.drop (2 * j.row)) j.row s
    (∀ u ls, rows = (u, ls, none) → (j.fault = none → exec (.acoJobEnd die clu k) s = .next ((u.noteLines j ls).doneJob j)) ∧
      ∀ c n, j.fault = some (c, n) → exec (.acoJobEnd die clu k) s = .next ((u.noteLines j ls).faultJob j c n)) ∧
    ∀ u ls i c, rows = (u, ls, some (i, .fault c)) →
      exec (.acoJobEnd die clu k) s = .next (((u.noteLines j ls).modJob k fun x => { x with row := i }).faultJob j c i)) ∧
  (∀ (s : State) (die clu k : Nat) (j : Job), Ending s die clu k [0x0F4] matrixAreas j →
    ∃ (fl : Word) (u : State), u = s.modTeam j.d.team (fun t => t.putTile (fld (dw j.d.desc 0) 0 4)
        (j.data.flatMap fun row => (aciRow (fld (dw j.d.desc 0) 4 4) row).map (·.1))) ∧
      (j.fault = none → exec (.aciJobEnd die clu k) s = .next (u.doneJob { j with flags := fl })) ∧
      ∀ c n, j.fault = some (c, n) → exec (.aciJobEnd die clu k) s = .next (u.faultJob { j with flags := fl } c n)) ∧
  (∀ (s : State) (die clu k : Nat) (j : Job), s.jobs.find? (·.k == k) = some j → j.d.op = 0x0F5 → j.die = die → j.clu = clu →
    s.running.contains die = true → s.jobFree matrixAreas j = true → exec (.zeroJobEnd die clu k) s =
      .next ((s.modTeam j.d.team fun t => t.putTile (fld (dw j.d.desc 0) 0 4) (List.replicate 16384 0#32)).doneJob j)) ∧
  ∀ (acc : Word) (l : List Val), (accUpdate acc l).1 =
    if fp32.decode false acc.toNat = .nan ∨ exactSum .rne l = .nan then 0x7FC00000#32
    else if (∃ b, exactSum .rne l = .zero b) then acc
    else BitVec.ofNat 32 (fp32.deliver .rne false (exactSum .rne (fp32.decode false acc.toNat :: l))).1)

/-- 09_statespace R311, R313, R323, R326, R330, R331: SS_READ_DONE reads the inputs of an SSCAN's last part or the units of an SSLD or SSST;
SSCAN_PART_COMPLETE runs a part whose inputs are read, in the matrix or the recurrent form: its rows are written, then its state, and its
steps count as done; the ends of the three jobs. R313's FP32 state element is one exact sum rounded once. The model's choices among these: INV of SSCAN is raised per element (log 44), and
SS_READ_DONE reads every unit in one event (log 19). -/
def Obligations.StateSpaceEvents : Prop :=
  (∀ (s : State) (die clu k : Nat) (j : Job) (t : Team), Reading s .sspace die clu k sspaceAreas j → s.team? j.d.team = some t →
    let b := j.d.desc
    let off := 4096 * fld (dw b 0) 0 6
    let n := fld (dw b 0) 8 7
    let a := addr2 (dw b 1) (dw b 2)
    let ev := exec (.ssReadDone die clu k) s
    (j.d.op = 0x101 → ∀ u l, State.readSide j ((dw b 0).getLsbD 16) ((List.range n).map fun i => (a + 4096 * i, 4096)) 0 s = (u, l, none) →
      ev = .next ((u.modJob k fun x => { x with data := l }).readDone j)) ∧
    (j.d.op = 0x102 → ∀ m, m ≤ n → (∀ i < m, s.erred .sstate j.d.team (off + 4096 * i) 4096 = false) →
        (m < n → s.erred .sstate j.d.team (off + 4096 * m) 4096 = true) →
      let u := s.modJob k fun x => { x with data := groupsOf 4096 64 (memGets t.ssm off (4096 * m)) }
      ev = .next (if m = n then u.readDone j else u.modJob k fun x => { x with fault := some (11, 0) })) ∧
    (j.d.op = 0x100 → (ssPart j).2 = true → (dw b 0).getLsbD 7 = false → j.done + (ssPart j).1 = fld (dw b 0) 16 16 + 1 → j.data = [] →
      ∀ u l, State.readSide j ((dw b 0).getLsbD 6) (ssReads j) 0 s = (u, l, none) →
        ev = .next ((u.modJob k fun x => { x with data := l }).readDone j))) ∧
  (∀ (s : State) (die clu k : Nat) (j : Job) (t : Team), s.jobs.find? (·.k == k) = some j → j.d.eng = .sspace → j.d.op = 0x100 → j.die = die →
    j.clu = clu → j.stalled = false → j.fault = none → s.running.contains die = true → s.jobFree sspaceAreas j = true →
    s.team? j.d.team = some t → j.data ≠ [] → j.done < fld (dw j.d.desc 0) 16 16 + 1 →
    (j.done + (ssPart j).1 = fld (dw j.d.desc 0) 16 16 + 1 → j.rd = true) →
    let m := (ssPart j).1
    let p := ssInputs j.d.desc m j.data
    let r := if (ssPart j).2 then matPart p (s.ssH j) else recPart p.x p.a p.b p.c (s.ssH j)
    (s.ssErred j = true → exec (.sscanPartComplete die clu k) s = .next (s.modJob k fun x => { x with fault := some (11, 0) })) ∧
    (s.ssErred j = false → ∀ u n ls, State.ssRows j (r.2.1.drop j.row) j.row (s.modJob k fun x => { x with flags := x.flags ||| r.2.2.setWidth 32 }) = (u, n, ls, none) →
      exec (.sscanPartComplete die clu k) s = .next ((((u.noteLines j ls).modTeam j.d.team fun t =>
        { t with ssm := memPuts t.ssm (4096 * fld (dw j.d.desc 1) 0 6) (wordBytes r.1.flatten) }).modIds j fun t id =>
          t.upd id fun e => { e with count := j.done + m, flags := e.flags ||| r.2.2.setWidth 32 }).modJob k fun x =>
            { x with done := j.done + m, data := [], row := 0 }))) ∧
  (∀ j : Job, ssPart j = (let l := fld (dw j.d.desc 0) 16 16 + 1
    let q := 4 * 2 ^ fld (dw j.d.desc 0) 2 3
    if j.done + q ≤ l then (q, true) else (l - j.done, decide (j.d.n ≤ l - j.done)))) ∧
  (∀ (a x b : Val) (h : Word), (recElem a x h b).1 =
    BitVec.ofNat 32 (fp32.deliver .rne false (exactSum .rne [a.mul (fp32.decode false h.toNat), x.mul b])).1) ∧
  (∀ (s : State) (die clu k : Nat) (j : Job), Ending s die clu k [0x100] sspaceAreas j →
    (j.fault = none → j.done = fld (dw j.d.desc 0) 16 16 + 1 → exec (.sscanJobEnd die clu k) s = .next (s.doneJob j)) ∧
    ∀ c n, j.fault = some (c, n) → exec (.sscanJobEnd die clu k) s = .next (s.faultJob j c 0)) ∧
  (∀ (s : State) (die clu k : Nat) (j : Job), Ending s die clu k [0x101] sspaceAreas j →
    let u := (s.modTeam j.d.team fun t => { t with ssm := memPuts t.ssm (4096 * fld (dw j.d.desc 0) 0 6) j.data.flatten }).modIds j fun t id =>
      t.upd id fun e => { e with count := j.data.length }
    (j.fault = none → exec (.ssldJobEnd die clu k) s = .next (u.doneJob j)) ∧
    ∀ c n, j.fault = some (c, n) → exec (.ssldJobEnd die clu k) s = .next (u.faultJob j c 0)) ∧
  ∀ (s : State) (die clu k : Nat) (j : Job), Ending s die clu k [0x102] sspaceAreas j →
    ∀ u n ls, State.ssUnits j ((dw j.d.desc 0).getLsbD 16) (addr2 (dw j.d.desc 1) (dw j.d.desc 2)) (j.data.drop j.done) j.done s = (u, n, ls, none) →
      let y := ((u.noteLines j ls).modIds j fun t id => t.upd id fun e => { e with count := n }).modJob k fun x => { x with done := n }
      (j.fault = none → exec (.ssstJobEnd die clu k) s = .next (y.doneJob { j with done := n })) ∧
      ∀ c m, j.fault = some (c, m) → exec (.ssstJobEnd die clu k) s = .next (y.faultJob { j with done := n } c 0)

/-- 10_copy R336 to R340, R344, R346: what each row of a copy does; COPY_READ_DONE and COPY_BATCH_COMPLETE run the current batch, the first up
to the read of the job's last row; COPY_JOB_END; a prefetch ends with nothing changed but its jobs.

12_stack R393, R396, R397, R403 to R405: STACK_READ_DONE reads every unit's sources; STACK_JOB_END applies the units that are left, engine by
engine and each engine's in order, each whole, once no earlier job of the team writes a common byte; what the units of the sector forms, of SGATH and of SCONV compute, with their
flags (the sum of SRED.BADD is in `GatewayBlocks`). 05_memory R160: COMP_EXPAND_COMPLETE leaves a page of uncompressed bytes whose entry has COMP
clear, and shoots it down. That a stack job reads its sources in one event (log 19) and all of them before it writes a unit, whichever die homes
a unit (log 52), and that a malformed unit's bytes stay uncorrectable after an expansion (log 24), are the model's choices. -/
def Obligations.CopyAndStackEvents : Prop :=
  (
  (∀ (b idx : List Word) (j : Nat),
    let fv := (dw b 0).getLsbD 7
    let v := if (dw b 0).getLsbD 6 then dw b (9 + (if fv then 1 else 0) + j) else idx.getD (j % 8) 0#32
    let table (x : Nat) : Int := (dw b 1).toInt + x * (dw b 2).toInt
    let packed : Int := (dw b 4).toInt + (j % fld (dw b 8) 0 17 : Nat) * (dw b 5).toInt
    (v.toNat < (dw b 3).toNat → rowDo 0x111 b idx j = .copy (table v.toNat) packed ∧ rowDo 0x112 b idx j = .copy packed (table v.toNat)) ∧
    ((dw b 3).toNat ≤ v.toNat → rowDo 0x111 b idx j = .fill packed (if fv then dw b 9 else 0#32) ∧ rowDo 0x112 b idx j = .drop) ∧
    (fld (dw b 0) 6 3 = 1 → rowDo 0x110 b idx j = .copy ((dw b 1).toInt + (j % fld (dw b 4) 0 17 : Nat) * (dw b 5).toInt)
      ((dw b 2).toInt + (j % fld (dw b 4) 0 17 : Nat) * (dw b 6).toInt))) ∧
  (∀ mask j x : Nat, swizzle mask j x = 16 * ((x / 16) ^^^ (j &&& mask)) + x % 16) ∧
  (∀ (s : State) (die clu k : Nat) (j : Job) (t : Team), s.jobs.find? (·.k == k) = some j → j.d.eng = .copy → j.die = die → j.clu = clu →
    j.stalled = false → j.fault = none → s.running.contains die = true → s.team? j.d.team = some t → j.done < j.d.n →
    ¬(j.d.op = 0x110 ∧ (dw j.d.desc 0).getLsbD 16 = true) → s.jobFree copyAreas j = true →
    (j.rd = false → j.done + 1 = j.d.n → ∀ y, (State.copyBatch k true 20 s).job? k = some y →
      exec (.copyReadDone die clu k) s = .next (if y.fault = none ∧ y.row + 1 = min 8 (copyCount y.d.op y.d.desc - 8 * y.done) ∧ y.data.length = 2
        then (State.copyBatch k true 20 s).readDone y else State.copyBatch k true 20 s)) ∧
    ((j.done + 1 = j.d.n → j.rd = true) → ∀ y, (State.copyBatch k false 20 s).job? k = some y →
      exec (.copyBatchComplete die clu k) s = .next (if y.stalled = false ∧ y.fault = none ∧ min 8 (copyCount y.d.op y.d.desc - 8 * y.done) ≤ y.row
        then (State.copyBatch k false 20 s).copyBatchDone y else State.copyBatch k false 20 s))) ∧
  (∀ (s : State) (die clu k : Nat) (j : Job), s.jobs.find? (·.k == k) = some j → j.d.eng = .copy → j.die = die → j.clu = clu →
    s.running.contains die = true →
    let pf := j.d.op = 0x110 ∧ (dw j.d.desc 0).getLsbD 16 = true
    (¬pf → j.fault = none → j.done = j.d.n → exec (.copyJobEnd die clu k) s = .next (s.doneJob j)) ∧
    (¬pf → ∀ c n, j.fault = some (c, n) → exec (.copyJobEnd die clu k) s = .next (((s.modTicket j fun q =>
      { q with ready := q.ready ++ List.replicate (q.left - q.ready.length) [], cur := [] }).modTeam j.d.team Team.drain).faultJob j c 0)) ∧
    (pf → s.jobFree copyAreas j = true → exec (.copyPrefetchEnd die clu k) s = .next (s.doneJob j))) ∧
  ∀ (t : Team) (q : CcTicket), t.ccQ = [q] → q.ready.length < q.left →
    t.drain.cc = t.cc.setIfInBounds q.ctr ((t.cc[q.ctr]?).getD 0#32 - BitVec.ofNat 32 q.ready.length) ∧
    t.drain.ccQ = [{ q with left := q.left - q.ready.length, ready := [] }]) ∧
  (
  (∀ (s : State) (k : Nat) (j : Job), s.jobs.find? (·.k == k) = some j → j.d.eng = .stack → j.rd = false → j.stalled = false → j.fault = none →
    ∀ u l n, State.stackReads j (stackUnits j) 0 s = (u, l, n, none) →
      exec (.stackReadDone k) s = .next ((u.modJob k fun x => { x with data := l, oor := n }).readDone { j with oor := n })) ∧
  (∀ (s : State) (k : Nat) (j : Job), s.jobs.find? (·.k == k) = some j → j.d.eng = .stack → j.rd = false → j.stalled = false → j.fault = none →
    ∀ u l n c, State.stackReads j (stackUnits j) 0 s = (u, l, n, some (.fault c)) →
      exec (.stackReadDone k) s = .next (u.modJob k fun x => { x with data := l, oor := n, fault := some (c, 0) })) ∧
  (∀ (s : State) (k : Nat) (j : Job), s.jobs.find? (·.k == k) = some j → j.d.eng = .stack → j.rd = true ∨ j.fault.isSome = true →
    j.stalled = false →
    ((s.jobs.takeWhile (·.k != k)).any fun i => i.d.eng = .stack && i.d.team == j.d.team &&
      areasClash (s.jobAreas stackAreas i) (s.jobAreas stackAreas j)) = false →
    ∀ qs, qs.Perm ((List.range j.data.length).filter fun q => !j.units.contains q) →
    qs.Pairwise (fun a b => s.unitEngine j a < s.unitEngine j b ∨ (s.unitEngine j a = s.unitEngine j b ∧ a < b)) →
    ∀ u us ls f, State.stackApplies j qs s = (u, us, ls, f, none) →
      let y := { j with units := j.units ++ us, flags := j.flags ||| f.setWidth 32 }
      let w := ((u.noteLines y ls).modIds y fun t id => t.upd id fun e =>
        { e with count := y.units.length, flags := e.flags ||| y.flags, oor := max e.oor y.oor }).modJob j.k fun _ => y
      (j.fault = none → exec (.stackJobEnd k) s = .next (w.doneJob y)) ∧
      ∀ c n, j.fault = some (c, n) → exec (.stackJobEnd k) s = .next (w.faultJob y c 0)) ∧
  (∀ (j : Job) (d x : List Byte), d.length = 32 → x.length = 32 →
    (j.d.op = 0x130 → stackResult j d x = (x, 0#6)) ∧
    ∀ e ∈ ([(0x131, fun a b => fp32.deliver .rne false (exactSum .rne [fp32.decode false a, fp32.decode false b]), 4),
        (0x132, fun a b => bf16.deliver .rne false (exactSum .rne [bf16.decode false a, bf16.decode false b]), 2),
        (0x133, fun a b => if fp32.decode false a = .nan ∨ fp32.decode false b = .nan then (0x7FC00000, flagInv)
          else if (fp32.decode false a).less (fp32.decode false b) = some true then (b, 0#6) else (a, 0#6), 4)] :
        List (Nat × (Nat → Nat → Nat × Flags) × Nat)), j.d.op = e.1 →
      let unit (i : Nat) : Nat × Flags := e.2.1 (leNat ((d.drop (e.2.2 * i)).take e.2.2)) (leNat ((x.drop (e.2.2 * i)).take e.2.2))
      (∀ i < 32 / e.2.2, leNat (((stackResult j d x).1.drop (e.2.2 * i)).take e.2.2) = (unit i).1 % 2 ^ (8 * e.2.2)) ∧
      (stackResult j d x).2 = (List.range (32 / e.2.2)).foldl (fun a i => a ||| (unit i).2) 0#6) ∧
  (∀ (j : Job) (d x : List Byte), j.d.op = 0x135 →
    let b := j.d.desc
    let sf := fld (dw b 0) 20 2
    let df := fld (dw b 0) 24 2
    let n := fld (dw b 0) 28 3 + 2
    let size := 4 * if sf = 0 then 32 else if sf = 1 then 16 else n
    let e := leNat (x.drop size) % 512
    let val (i : Nat) : Val := if sf = 0 then fp32.decode false (leNat ((x.drop (4 * i)).take 4))
      else if sf = 1 then bf16.decode false (leNat ((x.drop (2 * i)).take 2)) else blockVal n e (mantAt sf n x i)
    let r := stackResult j d x
    let merged (f : Nat → Flags) : Flags := (List.range 32).foldl (fun a i => a ||| f i) 0#6
    x.length = (if sf < 2 then size else size + 2) →
    -- to a floating-point format, each value rounded once
    (df < 2 →
      let put (i : Nat) : Nat × Flags := toFloat (if df = 0 then fp32 else bf16) .rne false false (val i)
      let w := if df = 0 then 4 else 2
      r.1.length = 32 * w ∧ (∀ i < 32, leNat ((r.1.drop (w * i)).take w) = (put i).1 % 2 ^ (8 * w)) ∧ r.2 = merged fun i => (put i).2) ∧
    -- to a block, E by R93 and the mantissas by R94; between the block layouts nothing changes but the layout
    (2 ≤ df → r.1.length = 4 * n + 2 ∧
      (sf < 2 → let a := agreedE n false ((List.range 32).map val)
        leNat (r.1.drop (4 * n)) = a.1 ∧ (∀ i < 32, mantAt df n r.1 i = (quantise n a.1 (val i)).1) ∧
          r.2 = a.2 ||| merged fun i => (quantise n a.1 (val i)).2) ∧
      (2 ≤ sf → leNat (r.1.drop (4 * n)) = e ∧ (∀ i < 32, mantAt df n r.1 i = mantAt sf n x i) ∧ r.2 = 0#6))) ∧
  ∀ (s : State) (k : Nat) (e : Expand) (c : Ctx) (a : Nat), s.expands.find? (·.k == k) = some e → s.ctx? e.ctx = some c →
    leafEntryFrom s.mem e.va.toNat c.root.toNat 3 = some a →
    let pte : DWord := BitVec.ofNat 64 (s.physNat a 8)
    let addrs := (List.range e.size).map (e.frame.toNat + ·)
    let va := e.va.toNat / e.size * e.size
    -- the page's bytes have the errors that expanding it met, and no others
    let inside (x : Nat) : Bool := e.frame.toNat ≤ x && x < e.frame.toNat + e.size
    let u : State := { s with expands := s.expands.filter (·.k != k), bad := s.bad.filter (fun x => !inside x) ++ addrs.filter fun x => (s.compByte x).isNone }
    pteFrame pte = e.frame.toNat → pte.getLsbD 14 = true →
    exec (.compExpandComplete k) s = .next (((u.pageWrite none (pte.extractLsb' 0 17) e.frame.toNat
      (addrs.map fun x => (s.compByte x).getD (memGet s.mem x))).physWrite a (leBytes 8 (pte &&& ~~~(1#64 <<< 14)).toNat)).shootDown e.ctx va (va + e.size)))

/-- 11_schedulers R386, R387: SPAWN pushes a SPAWN record to its own cluster's keyring for bearing 9, else to a die's; SPAWN.DEP pushes a
carrier; what stops them, in order: REFUSED on a gateway core, ILLFLD, REFUSED in a handler. No footprint of one wave is TOOBIG.

R359, R372, R388: LAUNCH and LAUNCH.NB check their record and its completion address in order and take an entry of the leader's
pending-launch queue, answering OK; with a full queue LAUNCH parks and LAUNCH.NB answers FULL. PENDING_LAUNCH_SEND sends the first entry not
yet sent once every earlier one has its arrival position.

The model's choices: REFUSED on a gateway core comes before the block is checked (log 54); a failed check traps every active lane (log 30); CADDR
in the aperture traps PROT, and its permission is that of an atomic (log 55); a carrier's own PRIO and stream are 0 (log 56); bearings 8 and 9 go to
the mirror of a die that has failed (log 53). -/
def Obligations.SpawnsAndLaunches : Prop :=
  (
  (∀ (f : EFmt) (s : State) (v : View),
    let b := v.block f
    let say (k : Nat) := exec (.spawn f) s = .next (s.finishE v f (BitVec.ofNat 32 k))
    let legal := ctlLegal (dw b 0) = true ∧ entryLegal (dw b 1) (dw b 2) = true ∧ footLegal (dw b 3) = true
    let bearing := fld (dw b 0) 0 4
    Issues s v (slotPush 0x120 f 5 11) →
    (v.w.gw = true → say 10) ∧
    (v.w.gw = false → ¬legal → exec (.spawn f) s = .next (s.trapAll v (slotPush 0x120 f 5 11) ⟨.illfld, none, true⟩)) ∧
    (v.w.gw = false → legal → v.w.handler = true → say 10) ∧
    (v.w.gw = false → legal → v.w.handler = false →
      let p (s : State) := spawnPush s v b 1 0#48 1#4 0#4 false ((dw b 0).extractLsb' 8 2) (ctlStream v.w (dw b 0))
        (BitVec.ofNat 24 (bearing + 16 * v.w.depth.toNat)) 0#32
      (bearing = 9 → exec (.spawn f) s = .next (s.pushSpawn v f (.cluster v.w.die v.w.clu) (p s))) ∧
      (bearing ≠ 9 → let r := s.bearingDie (some v.w.die) v.w.ctx bearing (addr2 (dw b 5) (dw b 6))
        exec (.spawn f) s = .next (r.1.pushSpawn v f (.die r.2) (p r.1))))) ∧
  (∀ foot : Word, tooLarge foot 1 = false) ∧
  (∀ (f : EFmt) (s : State) (v : View),
    let b := v.block f
    let n := dw b 3
    let say (k : Nat) := exec (.spawnDep f) s = .next (s.finishE v f (BitVec.ofNat 32 k))
    let legal := ctlLegal (dw b 0) = true ∧ entryLegal (dw b 4) (dw b 5) = true ∧ footLegal (dw b 6) = true ∧ (dw b 2).toNat < 65536 ∧ 0 < n.toInt
    Issues s v (slotPush 0x121 f 8 14) →
    (v.w.gw = true → say 10) ∧
    (v.w.gw = false → ¬legal → exec (.spawnDep f) s = .next (s.trapAll v (slotPush 0x121 f 8 14) ⟨.illfld, none, true⟩)) ∧
    (v.w.gw = false → legal → v.w.handler = true → say 10) ∧
    (v.w.gw = false → legal → v.w.handler = false →
      exec (.spawnDep f) s = .next (s.pushSpawn v f (.cluster v.w.die v.w.clu)
        (spawnPush s v b 4 ((dw b 2).extractLsb' 0 16 ++ dw b 1) 3#4 13#4 true 0#2 0#15 0x800000#24 n)))) ∧
  (∀ (s : State) (v : View) (f : EFmt) (kr : KrId) (p : Push), (s.pushSpawn v f kr p).flights = s.flights ++ [{ plainFlight s.uid kr p with
    src := some (v.iss, v.act), pipe := some (v.w.pipeOf v.low), d := some f.d.toNat, returns := .acceptance }]) ∧
  ∀ (s : State) (own : Nat) (ctx : BitVec 12) (bearing arg : Nat),
    let up (n : Nat) : Nat := if s.running.contains n then n else n ^^^ 1
    (bearing < 8 → s.bearingDie (some own) ctx bearing arg = (s, up bearing)) ∧
    (bearing = 9 → s.bearingDie (some own) ctx bearing arg = (s, up own)) ∧
    (bearing = 8 → (s.bearingDie (some own) ctx bearing arg).2 = up (s.sched own).rot.toNat ∧
      ((s.bearingDie (some own) ctx bearing arg).1.sched own).rot = (s.sched own).rot + 1#3)) ∧
  (
  (∀ e ∈ ([(0x122, .launch, false), (0x123, .launchNb, true)] : List (Nat × (EFmt → Instr) × Bool)), ∀ (f : EFmt) (s : State) (v : View) (t : Team),
    let sl := slotPush e.1 f 13 13
    let b := v.block f
    let p := b.drop 1
    let caddr : DWord := dw p 9 ++ dw p 8
    let say (k : Nat) := exec (e.2.1 f) s = .next (s.finishE v f (BitVec.ofNat 32 k))
    let legal := ctlLegal (dw b 0) = true ∧ launchLegal p = true
    let big := tooLarge (dw p 2) (fld (dw p 7) 0 5 + 1)
    let go (u : State) : State := if 4 ≤ t.launchq.length then
        (if e.2.2 then u.finishE v f 1#32 else (u.modThr v.iss fun x => { x with replay := 0#32, replayVals := [] }).park v.iss (.launchQueue b f.d.toNat) sl)
      else
        let x := (u.l1Release v.w.pipes).modTeam v.w.team fun y => { y with launchq := y.launchq ++ [⟨u.uid, .die v.w.die,
          { key := 0#48, cls := 0#4, op := 0#4, prio := (dw b 0).extractLsb' 8 2, car := false, stream := ctlStream v.w (dw b 0),
            target := BitVec.ofNat 24 (fld (dw b 0) 0 4 + 16 * (v.w.depth.toNat + 1)), words := p, ctx := v.w.ctx,
            ident := some (v.w.ident, v.w.seq), attempt := v.w.attempt, sender := senderWord u v.w v.low, origin := none,
            parent := (u.team? v.w.team).bind (·.grid), counts := true, job := none, spawn := none }, false, false, none⟩] }
        ({ x with uid := x.uid + 1 }.modWave v.w.uid fun w => { w with seq := w.seq + 1 }).finishE v f 0#32
    Issues s v sl → s.team? v.w.team = some t →
    (v.w.gw = true → say 10) ∧
    (v.w.gw = false → ¬legal → exec (e.2.1 f) s = .next (s.trapAll v sl ⟨.illfld, none, true⟩)) ∧
    (v.w.gw = false → legal → caddr.toNat % 4 ≠ 0 → exec (e.2.1 f) s = .next (s.trapAll v sl ⟨.align, some caddr, true⟩)) ∧
    (v.w.gw = false → legal → caddr.toNat % 4 = 0 →
      (big = true → say 6) ∧
      (big = false → v.w.handler = true ∨ v.w.depth = 10#4 → say 2) ∧
      (big = false → v.w.handler = false → v.w.depth ≠ 10#4 →
        (v.w.leader s = false → say 10) ∧
        (v.w.leader s = true → s.ctxDead v.w.ctx = true → say 3) ∧
        (v.w.leader s = true → s.ctxDead v.w.ctx = false → caddr = 0#64 → exec (e.2.1 f) s = .next (go s)) ∧
        (v.w.leader s = true → s.ctxDead v.w.ctx = false → caddr ≠ 0#64 → 0x3F000000000000 ≤ caddr.toNat →
          exec (e.2.1 f) s = .next (s.trapAll v sl ⟨.prot, some caddr, true⟩)) ∧
        (v.w.leader s = true → s.ctxDead v.w.ctx = false → caddr ≠ 0#64 → caddr.toNat < 0x3F000000000000 → ∀ u l pte c,
          s.translate v.w.die v.w.ctx caddr.toNat = (u, .leaf l pte) → u.ctx? v.w.ctx = some c →
          exec (e.2.1 f) s = .next (if permits c .atomic (pte.extractLsb' 0 17) then go u else s.trapAll v sl ⟨.prot, some caddr, true⟩))))) ∧
  ∀ (s : State) (team : Nat) (t : Team) (q : QEntry), s.team? team = some t → t.launchq.find? (fun e => !e.sent) = some q →
    (∀ x ∈ t.launchq.takeWhile (·.sent), x.arrived = true) → s.running.contains t.die = true →
    -- an entry that was sent to a die which has failed goes to that die's mirror
    let r : State × Nat := match q.dest with
      | some n => (s, if s.running.contains n then n else n ^^^ 1)
      | none => s.bearingDie (some t.die) q.push.ctx (q.push.target.extractLsb' 0 4).toNat (dw q.push.words 11 ++ dw q.push.words 10 : DWord).toNat
    ∃ u, exec (.pendingLaunchSend team) s = .next u ∧
      u.flights = s.flights ++ [{ plainFlight s.uid (.die r.2) q.push with returns := .acceptance, queue := some team }] ∧
      u.team? team = (r.1.team? team).map fun y => { y with
        launchq := y.launchq.map fun x => if x.k = q.k then { x with sent := true, kr := .die r.2, dest := some r.2 } else x })

/-- R389 to R392: CWAIT returns once the word it names reads 0 and the wave's pending-launch queue is empty, or parks; CQRY's four kinds;
NWAIT returns at once where the notify register differs from b, or parks; PRIO sets the grid's priority and returns the old one. A failed check traps
every active lane, the model's choice (log 30). -/
def Obligations.CounterWaits : Prop :=
  (∀ (f : RFmt) (r : BitVec 6) (s s' : State) (v : View) (pa pb : Word) (x : Lane), f.a = .reg r → r.toNat % 2 = 0 → Reads s v (slotPair 0x124 f) s' pa pb x →
    (x.reg r.toNat).tag = .addr → (x.reg (r.toNat + 1)).tag = .addr →
    let a : DWord := (x.reg (r.toNat + 1)).bits ++ (x.reg r.toNat).bits
    let sl := slotPair 0x124 f
    let clear (u : State) := u.modThr v.iss fun t => { t with replay := 0#32, replayVals := [] }
    (v.thr.broken = true → exec (.cwait f) s = .next ((clear (s'.modThr v.iss fun t => { t with broken := false })).finishWith v sl f ⟨5#32, .i32⟩)) ∧
    (v.thr.broken = false → s'.queueEmpty v.w = false → exec (.cwait f) s = .next (s'.park v.iss (.drained (a.setWidth 54)) sl)) ∧
    (v.thr.broken = false → s'.queueEmpty v.w = true → 0x3F000000000000 ≤ a.toNat →
      exec (.cwait f) s = .next (s.trapAll v sl ⟨.prot, some a, true⟩)) ∧
    (v.thr.broken = false → s'.queueEmpty v.w = true → a.toNat < 0x3F000000000000 → a.toNat % 4 ≠ 0 →
      exec (.cwait f) s = .next (s.trapAll v sl ⟨.align, some a, true⟩)) ∧
    ∀ u t b l, v.thr.broken = false → s'.queueEmpty v.w = true → s'.wordAt v a = (u, .ok t b) → (u.readTarget v v.low .coherent 4 t).2 = some l →
      let y := (u.readTarget v v.low .coherent 4 t).1
      (wordAt l 0 = 0#32 → l.length = 4 → exec (.cwait f) s = .next ((clear (y.l1Acquire v.w.pipes)).finishWith v sl f ⟨0#32, .i32⟩)) ∧
      (wordAt l 0 ≠ 0#32 → l.length = 4 → exec (.cwait f) s = .next ((clear y).park v.iss (.counter (a.setWidth 54)) sl))) ∧
  (∀ (f : RFmt) (r : BitVec 6) (s s' : State) (v : View) (pa pb : Word) (x : Lane), f.a = .reg r → r.toNat % 2 = 0 →
    Reads s v (cqrySlot f) s' pa pb x → x.readable true f.b → x.bits .i32 pb f.b = 0#32 → (x.reg r.toNat).tag = .addr → (x.reg (r.toNat + 1)).tag = .addr →
    let a : DWord := (x.reg (r.toNat + 1)).bits ++ (x.reg r.toNat).bits
    (regLegal v.w (r.toNat + 1) = false → exec (.cqry f) s = .next (s.trapAll v (cqrySlot f) ⟨.illfld, none, true⟩)) ∧
    ∀ u t b l, regLegal v.w (r.toNat + 1) = true → s'.wordAt v a = (u, .ok t b) → (u.readTarget v v.low .coherent 4 t).2 = some l → l.length = 4 →
      exec (.cqry f) s = .next (((((u.readTarget v v.low .coherent 4 t).1).l1Acquire v.w.pipes).modThr v.iss fun t =>
        { t with replay := 0#32, replayVals := [] }).finishWith v (cqrySlot f) f ⟨wordAt l 0, .i32⟩)) ∧
  (∀ (f : RFmt) (s s' : State) (v : View) (a b : Word), ReadsAB s v (cqrySlot f) f s' a b → a = 0#32 →
    let clear (u : State) := u.modThr v.iss fun t => { t with replay := 0#32, replayVals := [] }
    let say (u : State) (w : Word) := exec (.cqry f) s = .next ((clear u).finishWith v (cqrySlot f) f ⟨w, .i32⟩)
    (b = 1#32 → ∀ t, s'.team? v.w.team = some t → say s' (if v.w.leader s' then BitVec.ofNat 32 t.launchq.length else 0#32)) ∧
    (b = 2#32 → ∀ t g y, s'.team? v.w.team = some t → t.grid = some g → s'.grids.find? (·.uid == g) = some y →
      say s' (BitVec.ofNat 32 (min y.counter 0xFFFFFFFF))) ∧
    (b = 3#32 → say s' (BitVec.ofNat 32 (min ((s'.sched v.w.die).ready.map fun e => e.hi - e.lo).sum 0xFFFFFFFF))) ∧
    (3 < b.toNat → exec (.cqry f) s = .next (s.trapAll v (cqrySlot f) ⟨.illfld, none, true⟩))) ∧
  (∀ (f : RFmt) (s s' : State) (v : View) (a b : Word), ReadsAB s v (slotR 0x126 f) f s' a b →
    let w := (s'.notifyReg v.w.ctx a.toNat).extractLsb' 0 32
    (255 < a.toNat → exec (.nwait f) s = .next (s.trapAll v (slotR 0x126 f) ⟨.illfld, none, true⟩)) ∧
    (a.toNat ≤ 255 → w ≠ b → exec (.nwait f) s = .next ((s'.l1Acquire v.w.pipes).finishWith v (slotR 0x126 f) f ⟨w, .i32⟩)) ∧
    (a.toNat ≤ 255 → w = b → ∀ t, s'.team? v.w.team = some t →
      let u := s'.park v.iss (.notify a.toNat b (if f.nw then none else some f.d.toNat) f.hd) (slotR 0x126 f)
      exec (.nwait f) s = .next (match t.grid with | some g => u.testSwap g | none => u))) ∧
  ∀ (f : RFmt) (s s' : State) (v : View) (pa pb : Word) (x : Lane), Reads s v (slotR 0x127 f) s' pa pb x → x.readable true f.a →
    let a := x.bits .i32 pa f.a
    (v.w.gw = true ∨ 3 < a.toNat → exec (.prio f) s = .next (s.trapAll v (slotR 0x127 f) ⟨.illfld, none, true⟩)) ∧
    (v.w.gw = false → a = 3#32 → v.w.ctx ≠ 0#12 → exec (.prio f) s = .next (s.trapAll v (slotR 0x127 f) ⟨.priv, none, true⟩)) ∧
    (v.w.gw = false → a.toNat ≤ 3 → (a = 3#32 → v.w.ctx = 0#12) →
      (∀ t, s'.team? v.w.team = some t → t.grid = none → exec (.prio f) s = .next (s'.finishWith v (slotR 0x127 f) f ⟨0x8000000A#32, .i32⟩)) ∧
      ∀ t g y, s'.team? v.w.team = some t → t.grid = some g → s'.grids.find? (·.uid == g) = some y →
        exec (.prio f) s = .next ((s'.setPrio y.uid (a.setWidth 2)).finishWith v (slotR 0x127 f) f ⟨y.prio.setWidth 32, .i32⟩) ∧
        (∀ z ∈ (s'.setPrio y.uid (a.setWidth 2)).grids, z.uid = g → z.prio = a.setWidth 2))

/-- 03_numbers R96: the block sum of two blocks of one width. 13_gateways R423: BADD adds the block at a into the block at d by it, writes header
and planes as I32 and raises the flags; blocks of two widths, or a header of a with a reserved bit, give the NaN block with INV; hd, or a field a
that names no register, traps ILLFLD. BADD waits at issue for every register of its blocks (02_encoding R60).

12_stack R403: a unit of SRED.BADD is the block sum of the destination and the source. 07_keyring R243: a push with the operator BADD folds by
the block sum, its flags kept in the record; blocks of two widths give the NaN block with INV. -/
def Obligations.GatewayBlocks : Prop :=
  (∀ (n : Nat) (a b : Block), 2 ≤ n → n ≤ 8 → a.e < 512 → b.e < 512 → a.m.length = 32 → b.m.length = 32 →
    (∀ x ∈ a.m, InWidth n x) → (∀ x ∈ b.m, InWidth n x) → BlockSum n a b (blockAdd n a b).1 (blockAdd n a b).2) ∧
  (∀ (f : RFmt) (s : State) (v : View), f.hd = true ∨ (∀ r, f.a ≠ .reg r) → Checked s v (slotR 0x140 f [] true) .illfld →
    exec (.badd f) s = .next (s.allTrap v (slotR 0x140 f [] true) .illfld)) ∧
  (∀ (j : Job) (d x : List Byte), j.d.op = 0x134 →
    let n := fld (dw j.d.desc 0) 24 3 + 2
    let blk (l : List Byte) : Block := ⟨leNat (l.drop (4 * n)) % 512, (List.range 32).map (mantAt 3 n l)⟩
    n ≤ 8 → d.length = 4 * n + 2 → x.length = 4 * n + 2 → ∃ (c : Block) (fl : Flags), BlockSum n (blk d) (blk x) c fl ∧
      (stackResult j d x).1.length = 4 * n + 2 ∧ blk (stackResult j d x).1 = c ∧ leNat ((stackResult j d x).1.drop (4 * n)) = c.e ∧
      (stackResult j d x).2 = fl) ∧
  (∀ (s : State) (k : KrId) (p : Push) (r : Rec), p.op = 12#4 →
    (s.ring k).recs.find? (fun (r : Rec) => !r.latched && !r.dispatched && r.ctx == p.ctx && r.cls == p.cls && r.key == p.key && r.op == p.op) = some r →
    let n := fld (dw r.payload 0) 16 4
    let m := fld (dw p.words 0) 16 4
    ∃ y ∈ ((s.arrive k p).1.ring k).recs, y.uid = r.uid ∧ y.payload.length = 12 ∧ (∀ i, n < i → dw y.payload i = 0#32) ∧
      dw y.payload 0 = BitVec.ofNat 32 ((blockIn n y.payload).e + n * 65536) ∧
      (n = m → 2 ≤ n → n ≤ 8 → ∃ fl : Flags, BlockSum n (blockIn n r.payload) (blockIn n p.words) (blockIn n y.payload) fl ∧
        y.inv = (r.inv || fl.getLsbD 0) ∧ y.ovf = (r.ovf || fl.getLsbD 2) ∧ y.inx = (r.inx || fl.getLsbD 4)) ∧
      (n ≠ m ∨ n < 2 ∨ 8 < n → blockIn n y.payload = ⟨511, List.replicate 32 0⟩ ∧ y.inv = true ∧ y.ovf = r.ovf ∧ y.inx = r.inx)) ∧
  ∀ (f : RFmt) (r : BitVec 6) (s : State) (v : View) (y : Lane), f.a = .reg r → f.hd = false → Issues s v (slotR 0x140 f) →
    v.w.lanes[v.low]? = some y →
    let waits := v.thr.pends ((List.range (fld (y.reg f.d.toNat).bits 16 4 + 1)).flatMap fun k => [f.d.toNat + k, r.toNat + k])
    (waits = true → exec (.badd f) s = .next s) ∧
    (waits = false → (∀ i ∈ v.act, ∀ x, s.lane? v.w.uid i = some x →
      let h := (x.reg f.d.toNat).bits
      2 ≤ fld h 16 4 ∧ fld h 16 4 ≤ 8 ∧ only h 0xF01FF#32 = true ∧ ∀ k ≤ fld h 16 4,
        regLegal v.w (f.d.toNat + k) = true ∧ regLegal v.w (r.toNat + k) = true ∧ (x.reg (f.d.toNat + k)).tag ≠ .none ∧ (x.reg (r.toNat + k)).tag ≠ .none) →
    exec (.badd f) s = .next (s.laneStep v (slotR 0x140 f) (v.act.map fun i => (i, 0#32, 0#32)) fun _ _ _ x =>
      let n := fld (x.reg f.d.toNat).bits 16 4
      let h := (x.reg r.toNat).bits
      let c : Block × Flags := if fld h 16 4 = n ∧ only h 0xF01FF#32 = true
        then blockAdd n (blockIn n (x.words f.d.toNat (n + 1))) (blockIn n (x.words r.toNat (n + 1))) else (⟨511, List.replicate 32 0⟩, 1#6)
      let out := BitVec.ofNat 32 (c.1.e + n * 65536) :: planesOf n c.1
      (if f.nw then x else (List.range (n + 1)).foldl (fun y k => y.setReg (f.d.toNat + k) ⟨out.getD k 0#32, .i32⟩) x).raise c.2))

/-- 13_gateways R413, R414, R424 to R426: BQPOP completes what its slot holds unless HOLD, then takes the queued block that a selection of
its core and context chooses, or parks, or writes zeros, and with nw, hd or a d that is no multiple of 16 traps ILLFLD; LSND sends to its own package or through a port that is UP to a package not fenced (R419); LSTAT's four kinds, nw or hd trapping ILLFLD. What BQPOP and LSTAT refuse traps every active lane, the model's choice (log 30). -/
def Obligations.GatewayQueueAndLinks : Prop :=
  (∀ (f : RFmt) (s : State) (v : View),
    let pop := slotR 0x141 f ((List.range 16).map (f.d.toNat + ·)) true
    (f.d.toNat % 16 ≠ 0 ∨ f.nw = true ∨ f.hd = true → Checked s v pop .illfld → exec (.bqpop f) s = .next (s.allTrap v pop .illfld)) ∧
    (f.nw = true ∨ f.hd = true → Checked s v (slotR 0x143 f [] true) .illfld →
      exec (.lstat f) s = .next (s.allTrap v (slotR 0x143 f [] true) .illfld))) ∧
  (∀ (f : RFmt) (s s' : State) (v : View) (pa pb : Word) (x : Lane), f.d.toNat % 16 = 0 → f.nw = false → f.hd = false → v.lane = none →
    let sl := slotR 0x141 f ((List.range 16).map (f.d.toNat + ·))
    Reads s v sl s' pa pb x → v.low = 0 → x.readable true f.a →
    let a := x.bits .i32 pa f.a
    let legal := a.toNat < 4 ∧ (a.getLsbD 1 = true → x.held.length < 16)
    let kr := KrId.die v.w.die
    let end1 (u : State) : State := if a.getLsbD 1 then u else
      (u.completeRec fun r => match r.taker with | .gateway w _ => w == v.w.uid | _ => false).modLane v.w.uid 0 fun y => { y with held := [] }
    let mine (r : Rec) : Bool := r.cls == 8#4 && r.ctx == v.w.ctx && r.key.getLsbD 47 && (r.key.extractLsb' 0 32).toNat % 4 == v.w.clu
    (¬legal → exec (.bqpop f) s = .next (s.trapAll v sl ⟨.illfld, none, true⟩)) ∧
    (legal → ((end1 s').ring kr).select mine = none → exec (.bqpop f) s = .next (if a.getLsbD 0
      then ((end1 s').modLane v.w.uid 0 fun y => (List.range 16).foldl (fun y k => y.setReg (f.d.toNat + k) ⟨0#32, .i32⟩) y).advance v.iss (1 + sl.nlits)
      else (end1 s).park v.iss .blockQueue sl)) ∧
    ∀ r, legal → ((end1 s').ring kr).select mine = some r →
      exec (.bqpop f) s = .next (((((end1 s').dispatch kr r.uid (.gateway v.w.uid 0)).l1Acquire v.w.pipes).modLane v.w.uid 0 fun y =>
        (List.range 16).foldl (fun y k => y.setReg (f.d.toNat + k) ⟨(r.risen.image 2#2).getD k 0#32, .i32⟩)
          { y with held := y.held ++ [r.uid] }).advance v.iss (1 + sl.nlits))) ∧
  (∀ (f : EFmt) (s : State) (v : View),
    let sl := slotPush 0x142 f 4 16
    let b := v.block f
    let legal := destLegal (dw b 0) = true ∧ descLegal [8#4] (dw b 2) (dw b 3) = true ∧ (dw b 2).getLsbD 27 = false
    let core := v.w.pipeOf 0
    let out := (s.flights.filter fun x => x.link.isSome && x.pipe == some core && x.src.isSome).length
    let say (k : Nat) := exec (.lsnd f) s = .next (s.finishE v f (BitVec.ofNat 32 k))
    let push := pushOf s v.w 0 v.w.ctx (dw b 1) (dw b 2) (dw b 3) (b.drop 4)
    let own := if v.w.clu < 2 then 0 else 1
    let isUp (p : Nat) : Prop := (s.tildor v.w.die p).st = 2#2 ∧ (s.tildor v.w.die p).peer ∉ s.fenced
    let sent (kr : KrId) (remote : Option (BitVec 12)) (link : Nat) : Prop := ∃ t, exec (.lsnd f) s = .next t ∧
      t.flights = s.flights ++ [{ plainFlight s.uid kr push with
        src := some (v.iss, [0]), pipe := some core, d := some f.d.toNat, returns := .acceptance, remote := remote, link := some link
        srcCtx := (s.wave? v.iss.wave).map (·.ctx) }] ∧ (link < 2 → (t.pipe core).lastPort = some link)
    Issues s v sl →
    (¬legal → exec (.lsnd f) s = .next (s.trapAll v sl ⟨.illfld, none, true⟩)) ∧
    (legal →
      (∀ st, sendBy s (dw b 0) push = .status st → say st.code) ∧
      (∀ kr p, sendBy s (dw b 0) push = .push kr p none → if 16 ≤ out then exec (.lsnd f) s = .next s else sent kr none 2) ∧
      ∀ kr p pkg, sendBy s (dw b 0) push = .push kr p (some pkg) →
        (¬isUp own → ¬isUp (1 - own) → say 11) ∧
        ∀ link, (if isUp own then link = own else isUp (1 - own) ∧ link = 1 - own) →
          if 16 ≤ out ∨ ((∃ p, (s.pipe core).lastPort = some p ∧ p ≠ link) ∧ out ≠ 0) then exec (.lsnd f) s = .next s
          else sent kr (some pkg) link)) ∧
  ∀ (f : RFmt) (s s' : State) (v : View) (pa pb : Word) (x : Lane), f.nw = false → f.hd = false → Reads s v (slotR 0x143 f) s' pa pb x →
    x.readable true f.a →
    let a := x.bits .i32 pa f.a
    let port := fld a 0 1
    let pkg := a.extractLsb' 16 12
    let legal := only a 0x0FFF0007#32 = true ∧ (fld a 1 2 ≠ 3 → pkg = 0#12)
    let t := s'.tildor v.w.die port
    let say (u : State) (w : Word) := exec (.lstat f) s = .next (u.finishWith v (slotR 0x143 f) f ⟨w, .i32⟩)
    (¬legal → exec (.lstat f) s = .next (s.trapAll v (slotR 0x143 f) ⟨.illfld, none, true⟩)) ∧
    (legal → (fld a 1 2 = 0 → say s' (portStatus t ((t.st == 2#2 || t.st == 3#2) && s'.fenced.contains t.peer))) ∧
      (fld a 1 2 = 1 → say s' (BitVec.ofNat 32 (min t.replays 0xFFFFFFFF))) ∧
      (fld a 1 2 = 2 → say s' (BitVec.ofNat 32 (min t.silence 0xFFFFFFFF))) ∧
      (fld a 1 2 = 3 → say s' (if s'.fenced.contains pkg then 11#32 else if pkg = s'.pkgid ∨ pkg ∈ s'.domain then 0#32 else 7#32)))

/-- 15_sextant R446 to R448: ENRD writes a die's 64-bit counter or the package's sum; ENRSV reserves what the remaining allowance holds;
ENREL gives back at most what is reserved; ENQRY's five kinds. That the ILLFLD of ENRD and ENQRY, a check made once, traps every active lane
is the model's choice (log 30). -/
def Obligations.EnergyInstructions : Prop :=
  (∀ (s : State) (n : Nat), s.remaining n = ((s.die n).allowance : Int) - (s.die n).charged - ((s.teams.filter (·.die == n)).map (·.rsv)).sum -
    max 0 ((((s.die n).energy + 2 ^ 64 - (s.die n).startUse) % 2 ^ 64 : Nat) - ((s.die n).charged : Int))) ∧
  (∀ (f : RFmt) (s s' : State) (v : View) (pa pb : Word) (x : Lane), Reads s v { slotR 0x150 f with waits := [f.d.toNat + 1] } s' pa pb x →
    x.readable true f.a →
    let a := (x.bits .i32 pa f.a).toNat
    let legal := a ≤ 9 ∧ f.d.toNat % 2 = 0 ∧ regLegal v.w (f.d.toNat + 1) = true ∧ f.hd = false
    let n := if a = 9 then ((List.range 8).map fun k => (s'.die k).energy).sum else (s'.die (if a = 8 then v.w.die else a)).energy
    (legal → exec (.enrd f) s = .next ((s'.eachLane v fun y => if f.nw then y else
        y.setReg f.d.toNat ⟨BitVec.ofNat 32 n, .i32⟩).eachLane v (fun y => if f.nw then y else
        y.setReg (f.d.toNat + 1) ⟨BitVec.ofNat 32 (n / 2 ^ 32), .i32⟩) |>.advance v.iss (1 + (slotR 0x150 f).nlits))) ∧
    (¬legal → exec (.enrd f) s = .next (s.trapAll v (slotR 0x150 f) ⟨.illfld, none, true⟩))) ∧
  (∀ (f : RFmt) (s s' : State) (v : View) (pa pb : Word) (x : Lane) (t : Team), Reads s v (slotR 0x151 f) s' pa pb x → x.readable true f.a →
    let a := (x.bits .i32 pa f.a).toNat
    let say (u : State) (k : Nat) := exec (.enrsv f) s = .next (u.finishWith v (slotR 0x151 f) f ⟨BitVec.ofNat 32 k, .i32⟩)
    (a = 0 → say s' 0) ∧ (a ≠ 0 → (s'.die v.w.die).allowance < a → say s' 6) ∧
    (a ≠ 0 → a ≤ (s'.die v.w.die).allowance → s'.remaining v.w.die < a → say s' 1) ∧
    (a ≠ 0 → a ≤ (s'.die v.w.die).allowance → a ≤ s'.remaining v.w.die →
      say ((s'.modTeam v.w.team fun t => { t with rsv := t.rsv + a }).modDie v.w.die fun d => { d with held := true }) 0 ∧
      (s'.team? v.w.team = some t → (s'.teams.filter (·.uid == v.w.team)).length = 1 → t.die = v.w.die →
        (s'.modTeam v.w.team fun t => { t with rsv := t.rsv + a }).remaining v.w.die = s'.remaining v.w.die - a))) ∧
  (∀ (f : RFmt) (s s' : State) (v : View) (pa pb : Word) (x : Lane) (t : Team), Reads s v (slotR 0x152 f) s' pa pb x → x.readable true f.a →
    s'.team? v.w.team = some t →
    let r := min (x.bits .i32 pa f.a).toNat t.rsv
    exec (.enrel f) s = .next ((s'.modTeam v.w.team fun y => { y with rsv := y.rsv - r }).finishWith v (slotR 0x152 f) f ⟨BitVec.ofNat 32 r, .i32⟩)) ∧
  ∀ (f : RFmt) (s s' : State) (v : View) (pa pb : Word) (x : Lane), Reads s v (slotR 0x153 f) s' pa pb x → x.readable true f.a →
    let a := (x.bits .i32 pa f.a).toNat
    let d := s'.die v.w.die
    let say (w : Word) := exec (.enqry f) s = .next (s'.finishWith v (slotR 0x153 f) f ⟨w, .i32⟩)
    (a = 0 → say (BitVec.ofNat 32 d.allowance)) ∧
    (a = 1 → say (BitVec.ofInt 32 (max (-0x7FFFFFFF) (min 0x7FFFFFFF (s'.remaining v.w.die))))) ∧
    (a = 2 → ∀ t, s'.team? v.w.team = some t → say (BitVec.ofNat 32 t.rsv)) ∧
    (a = 3 → say (BitVec.ofNat 32 d.duty)) ∧ (a = 4 → say (BitVec.ofNat 32 d.intervals)) ∧
    (4 < a → exec (.enqry f) s = .next (s.trapAll v (slotR 0x153 f) ⟨.illfld, none, true⟩))

/-- 14_hub R428, R436, R437: NSET returns the old value and writes the register in one event; NGET returns it; a mode or operand that
R436 denies, and a dead context, raise the exceptions named there; and the custom CSRs, written and read. An stval that the spec does not state is a free value (log 7). -/
def Obligations.NotifyAndCsrs : Prop :=
  (∀ (f : HFmt) (s : State) (h : Nat) (x : Hart), HartRuns s h x →
    let o := x.get f.rs1
    let c : BitVec 12 := o.extractLsb' 8 12
    let i := (o.extractLsb' 0 8).toNat
    (notifyLegal x o → s.ctxDead c = false →
      exec (.nset f) s = .next ((s.notifyWrite c i (x.get f.rs2)).hartGives h f.rd (s.notifyReg c i)) ∧
      exec (.nget f) s = .next (s.hartGives h f.rd (s.notifyReg c i))) ∧
    (notifyLegal x o → s.ctxDead c = true →
      (∃ t, exec (.nset f) s = .next t ∧ HartStops s t h .storeAccess 8#4) ∧ ∃ t, exec (.nget f) s = .next t ∧ HartStops s t h .loadAccess 8#4) ∧
    (¬notifyLegal x o → (∃ t, exec (.nset f) s = .next t ∧ HartStops s t h (deniedExc x.mode) x.hfstat) ∧
      ∃ t, exec (.nget f) s = .next t ∧ HartStops s t h (deniedExc x.mode) x.hfstat)) ∧
  (∀ (s : State) (c : BitVec 12) (i j : Nat) (v : DWord), (∃ x, s.ctx? c = some x) →
    (s.notifyWrite c i v).notifyReg c j = if j = i then v else s.notifyReg c j) ∧
  ∀ (s : State) (h : Nat) (csr : BitVec 12) (v : BitVec 64), h < 24 → s.hubUp = true → (s.hart h).exc = none →
    0x5C0 ≤ csr.toNat → csr.toNat ≤ 0x5C4 →
    ((s.hart h).upper → exec (.hubCsrWrite h csr v) s = .next (s.modHart h fun x =>
      if csr = 0x5C0#12 then { x with hctx := v.extractLsb' 0 12 } else if csr = 0x5C1#12 then { x with hrkey := v }
      else if csr = 0x5C2#12 then { x with hwkey := v } else if csr = 0x5C3#12 then { x with hcfg := v.extractLsb' 0 3 } else x)) ∧
    (¬(s.hart h).upper → ∃ t, exec (.hubCsrWrite h csr v) s = .next t ∧ HartStops s t h (deniedExc (s.hart h).mode) (s.hart h).hfstat) ∧
    (¬(s.hart h).upper → ∀ rd, HartStops s (s.csrRead h csr rd) h (deniedExc (s.hart h).mode) (s.hart h).hfstat) ∧
    ((s.hart h).upper → ∀ rd, s.csrRead h csr rd = { s with freeCtr := s.freeCtr + 1 }.modHart h fun x =>
      let old : DWord := if csr = 0x5C0#12 then x.hctx.setWidth 64 else if csr = 0x5C1#12 then x.hrkey
        else if csr = 0x5C2#12 then x.hwkey else if csr = 0x5C3#12 then x.hcfg.setWidth 64 else x.hfstat.setWidth 64
      x.put rd old)

/-- 14_hub R435, R438: SVCPOP stores the image of the record its filter selects and gives its handle, or gives 0; SVCDONE answers a
handle: an SVC record's reply reaches its notify register, a dead context answers TORN, and a stale handle REFUSED. Handle numbers and generations are chosen by the model within what R435 says (log 8); that a filter takes records of LIVE contexts alone
(log 62) and that at most 8,192 handles are open at once (log 102) are the model's choices. -/
def Obligations.ServiceWords : Prop :=
  (∀ (f : HFmt) (s : State) (h : Nat) (x : Hart), HartRuns s h x →
    let o := x.get f.rs1
    let buf := (x.get f.rs2).toNat
    let legal := o.toNat < 2 ^ 32 ∧ (x.upper ∨ (x.hcfg.getLsbD 1 = true ∧ o.getLsbD 12 = false ∧ o.extractLsb' 0 12 = x.hctx))
    (¬legal → ∃ t, exec (.svcpop f) s = .next t ∧ HartStops s t h (deniedExc x.mode) x.hfstat) ∧
    (legal → buf % 64 ≠ 0 → ∃ t, exec (.svcpop f) s = .next t ∧ HartStops s t h .storeMisaligned x.hfstat ∧ (t.hart h).stval = x.get f.rs2) ∧
    (∀ u e r, legal → buf % 64 = 0 → s.hartReach h .write buf 64 = (u, .error (.exc e r)) →
      ∃ t, exec (.svcpop f) s = .next t ∧ HartStops u t h e ((r.map (BitVec.ofNat 4)).getD (u.hart h).hfstat)) ∧
    (∀ u, legal → buf % 64 = 0 → s.hartReach h .write buf 64 = (u, .error .wait) → exec (.svcpop f) s = .next u) ∧
    ∀ u tgt, legal → buf % 64 = 0 → s.hartReach h .write buf 64 = (u, .ok tgt) → (∀ i k, tgt ≠ .area i k) →
      (8192 ≤ u.handles.length ∨ (u.ring .hub).select (filtered u o) = none → exec (.svcpop f) s = .next (u.hartGives h f.rd 0#64)) ∧
      ∀ r, u.handles.length < 8192 → (u.ring .hub).select (filtered u o) = some r →
        exec (.svcpop f) s = .next (((u.takeService r).1.hartWrite tgt (wordBytes (r.risen.image 2#2))).hartGives h f.rd (u.takeService r).2)) ∧
  (∀ (s : State) (r : Rec), s.handles.length < 8192 →
    let t := (s.takeService r).1
    let w := (s.takeService r).2
    w.getLsbD 31 = true ∧ w.toNat < 2 ^ 32 ∧ (∀ k ∈ s.handles, k.slot ≠ (w.extractLsb' 0 13).toNat) ∧
    t.handles = s.handles ++ [⟨(w.extractLsb' 0 13).toNat, (w.extractLsb' 13 18).toNat, r⟩] ∧
    (∀ y ∈ (t.ring .hub).recs, y.uid = r.uid → y.dispatched = true ∧ durable y.cls = true)) ∧
  ∀ (f : HFmt) (s : State) (h : Nat) (x : Hart), HartRuns s h x →
    let o := x.get f.rs1
    let v := x.get f.rs2
    let is (k : Handle) : Prop := o = BitVec.ofNat 64 (k.slot + k.gen * 2 ^ 13 + 2 ^ 31)
    let mayUse (k : Handle) : Prop := x.upper ∨ (x.hcfg.getLsbD 1 = true ∧ k.record.ctx = x.hctx)
    let close (u : State) (k : Handle) : State :=
      { u with handles := u.handles.filter fun y => y.slot != k.slot }.completeRec fun r => r.uid == k.record.uid
    ((∀ k ∈ s.handles, ¬is k) → (x.upper ∨ x.hcfg.getLsbD 1 = true) → exec (.svcdone f) s = .next (s.hartGives h f.rd 10#64)) ∧
    ∀ k, k ∈ s.handles → is k → (∀ y ∈ s.handles, is y → y = k) →
      (¬mayUse k → ∃ t, exec (.svcdone f) s = .next t ∧ HartStops s t h (deniedExc x.mode) x.hfstat) ∧
      (mayUse k → s.ctxDead k.record.ctx = true → exec (.svcdone f) s = .next ((close s k).hartGives h f.rd 3#64)) ∧
      (mayUse k → s.ctxDead k.record.ctx = false → k.record.cls = 9#4 → 2 ≤ v.toNat → exec (.svcdone f) s = .next (s.hartGives h f.rd 10#64)) ∧
      (mayUse k → s.ctxDead k.record.ctx = false → k.record.cls = 7#4 →
        exec (.svcdone f) s = .next ((close (s.notifyWrite k.record.ctx (fld (dw k.record.payload 9) 0 8) v) k).hartGives h f.rd 0#64)) ∧
      (mayUse k → s.ctxDead k.record.ctx = false → k.record.cls = 9#4 → v.toNat < 2 →
        (fld (dw k.record.payload 2) 0 8 = 6 → exec (.svcdone f) s = .next ((close (s.translationReply k.record (v == 1#64)) k).hartGives h f.rd 0#64)) ∧
        (fld (dw k.record.payload 2) 0 8 ≠ 6 → ∀ i, k.record.about = some i → exec (.svcdone f) s =
          .next ((close (if v = 0#64 then s.restoreWave i k.record else s.terminate i) k).hartGives h f.rd 0#64)))

/-- R429, R430, R431, R439: what a hart reaches at a hart physical address: M mode's physical window, where it stores and loads bytes, a
write to a COMP page (05_memory R160) raising REASON 7 or starting its expansion, and an access to a page that is being migrated or expanded
standing held until it can be made, in the page's new frame (R166); its command area, where a store to a doubleword other than 0 stands; an
address outside the map, an access fault; through the aperture a page that admits the access; and FENCE and LR. What a hart does besides the
hub words is outside the model (log 7); that a physical write is checked as R160 states for accesses (log 67), that FENCE changes nothing, and
that an LR is checked as an atomic access (log 103) are the model's choices. -/
def Obligations.HartAccesses : Prop :=
  (∀ (s : State) (a : HartAccess), a.hart < 24 → s.hubUp = true → (s.hart a.hart).exc = none → a.size ∈ [1, 2, 4, 8] →
    let x := s.hart a.hart
    let pa := a.addr % 2 ^ 45 + s.pkgid.toNat * 2 ^ 45
    let bytes := leBytes a.size (a.data.toNat % 2 ^ (8 * a.size))
    let hold (h : Option (Nat × Nat)) (u : State) : State := u.modHart a.hart fun y => { y with held := h }
    (a.addr + a.size ≤ 2 ^ 45 → x.mode = .m ∨ (x.mode = .hs ∧ x.hcfg.getLsbD 2 = true) →
      (x.held = none → s.frozenIn pa a.size = true → a.op = .store ∨ a.op = .load → exec (.hartPhysAccess a) s = .next (hold (some (pa, pa)) s)) ∧
      (∀ q, x.held = some (pa, q) → s.frozenIn q a.size = false → s.compLeaf q a.size = none → a.op = .store →
        exec (.hartPhysAccess a) s = .next ((hold none s).physWrite q bytes)) ∧
      (x.held = none → s.frozenIn pa a.size = false →
        (a.op = .store → s.compLeaf pa a.size = none → exec (.hartPhysAccess a) s = .next (s.physWrite pa bytes)) ∧
        (∀ c va pte, a.op = .store → s.compLeaf pa a.size = some (c, va, pte) → pte.getLsbD 15 = false →
          ∃ t, exec (.hartPhysAccess a) s = .next t ∧ HartStops s t a.hart .storeAccess 7#4) ∧
        (∀ c va pte, a.op = .store → s.compLeaf pa a.size = some (c, va, pte) → pte.getLsbD 15 = true → exec (.hartPhysAccess a) s =
          .next (hold (some (pa, pa)) (s.startExpand c va ⟨pteFrame pte, 1, pte.extractLsb' 0 17⟩))) ∧
        (∀ l : List Byte, a.op = .load → l.length = a.size → (∀ i < a.size, s.hostByte (pa + i) = l[i]?) → exec (.hartPhysAccess a) s =
          .next (s.modHart a.hart fun y => y.put a.rd (BitVec.ofNat 64 (leNat l)))))) ∧
    (∀ i, s.hostByte i = if s.compAt i = true then s.compByte i else if i ∈ s.bad then none else some (memGet s.mem i)) ∧
    (∀ h k, x.upper → x.held = none → a.size = 8 → a.op = .store → h < 24 → 0 < k → k < 8 → a.addr = 0x7FFFFFFFF00000 + 64 * h + 8 * k →
      exec (.hartPhysAccess a) s = .next (s.modHart h fun y => { y with area := y.area.setIfInBounds k a.data })) ∧
    (2 ^ 45 ≤ a.addr → a.addr < 0x7FFFFFFFF00000 → x.held = none → a.op = .load ∨ a.op = .store →
      ∃ t, exec (.hartPhysAccess a) s = .next t ∧ HartStops s t a.hart (if a.op = .store then .storeAccess else .loadAccess) x.hfstat ∧
        (t.hart a.hart).stval = BitVec.ofNat 64 a.addr)) ∧
  (∀ (s : State) (a : HartAccess) (p q : BitVec 4), a.op = .fence p q → exec (.hartPhysAccess a) s = .next s ∧ exec (.hartApertureAccess a) s = .next s) ∧
  (∀ (s : State) (a : HartAccess) (u : State) (ps : List Piece), a.hart < 24 → s.hubUp = true → (s.hart a.hart).exc = none →
    0x80000000000000 ≤ a.addr → a.addr < 0x80000000000000 + 2 ^ 54 →
    (a.op = .store → a.size ∈ [1, 2, 4, 8] → s.hartReach a.hart .write a.addr a.size = (u, .ok (.pages ps)) →
      exec (.hartApertureAccess a) s = .next (u.putPieces none ps (leBytes a.size (a.data.toNat % 2 ^ (8 * a.size))))) ∧
    (a.op = .lr → a.size = 4 ∨ a.size = 8 → a.addr % a.size = 0 → s.hartReach a.hart .atomic a.addr a.size = (u, .ok (.pages ps)) →
      ∀ l, u.hartBytes (.pages ps) a.size = some l → exec (.hartApertureAccess a) s = .next (u.modHart a.hart fun y =>
        { y.put a.rd (BitVec.ofNat 64 (leNat l)) with resv := some ((HartTarget.pages ps).base, a.size) }))) ∧
  ∀ (s : State) (x : Hart) (c : Ctx) (k : Access) (va n l : Nat) (p : DWord) (u : State), s.translate 8 c.id va = (u, .leaf l p) →
    let attr := p.extractLsb' 0 17
    let pa := leafAddr l p va
    let own : Ctx := { c with rkey := c.rkey &&& x.hrkey, wkey := c.wkey &&& x.hwkey }
    (k = .read → attr.getLsbD 2 = false → s.hartPiece c x k va n = (u, .error (.exc .loadAccess (some 3)))) ∧
    (k = .write → attr.getLsbD 3 = false → s.hartPiece c x k va n = (u, .error (.exc .storeAccess (some 3)))) ∧
    (k = .write → attr.getLsbD 3 = true → permits own .write attr = true → attr.getLsbD 14 = true → attr.getLsbD 15 = false →
      s.hartPiece c x k va n = (u, .error (.exc .storeAccess (some 7)))) ∧
    (k = .read → attr.getLsbD 2 = true → permits own .read attr = false → s.hartPiece c x k va n = (u, .error (.exc .loadAccess (some 4)))) ∧
    (k = .read → permits own .read attr = true → attr.getLsbD 2 = true → u.isFenced pa = true →
      s.hartPiece c x k va n = (u, .error (.exc .loadAccess (some 6)))) ∧
    (k = .read → permits own .read attr = true → attr.getLsbD 2 = true → u.isFenced pa = false → u.frozenIn pa n = false →
      s.hartPiece c x k va n = (u, .ok ⟨pa, n, attr⟩))

/-- R439: SHOOT makes its shoot-down (05_memory R163), GWSTART places R410's wave, CLRESET resets its cluster; each has OK at once, or the
status that turns it away; an unknown OP is REFUSED. That malformed operands of SHOOT, GWSTART and CLRESET are REFUSED is the model's choice
(log 64). -/
def Obligations.HubCommands : Prop :=
  (∀ (s : State) (c : HubCmd), CmdTakes s c 1 →
    let lo := c.dw.getD 1 0#64
    let n := c.dw.getD 2 0#64
    let legal := lo.toNat % 2 ^ 18 = 0 ∧ n.toNat % 2 ^ 18 = 0 ∧ n ≠ 0#64
    (legal → exec (.shoot c) s = .next ((s.shootDown (cmdCtx c) lo.toNat (lo.toNat + n.toNat)).issued c (some .ok))) ∧
    (¬legal → exec (.shoot c) s = .next (s.issued c (some .refused)))) ∧
  (∀ (s : State) (ctx : BitVec 12) (lo hi : Nat), ∀ e ∈ s.tlb, e ∈ (s.shootDown ctx lo hi).tlb ↔
    e.ctx ≠ ctx ∨ hi ≤ e.page * pageSize e.level ∨ (e.page + 1) * pageSize e.level ≤ lo) ∧
  (∀ (s : State) (c : HubCmd) (x : Ctx), CmdTakes s c 2 →
    let w1 := c.dw.getD 1 0#64
    let die := (w1.extractLsb' 0 3).toNat
    let gw := (w1.extractLsb' 3 2).toNat
    let regs := 8 * ((w1.extractLsb' 5 2).toNat + 1)
    let entry := c.dw.getD 2 0#64
    let arg := c.dw.getD 3 0#64
    let core : PipeId := ⟨die, true, gw, 0⟩
    w1.getLsbD 7 = false → w1.toNat < 2 ^ 16 → entry.toNat < 2 ^ 54 → entry.toNat % 4 = 0 →
    (s.ctx? (cmdCtx c) = none → exec (.gwstart c) s = .next (s.issued c (some .torn))) ∧
    (s.ctx? (cmdCtx c) = some x → s.ctxDead x.id = false → s.running.contains die = true → ∀ k, s.freeSlot core = some k →
      (s.poolFree core < regs → exec (.gwstart c) s = .next (s.issued c (some .full))) ∧
      (regs ≤ s.poolFree core → ∃ t w, exec (.gwstart c) s = .next t ∧ t.cmds = s.cmds ++ [⟨c.hart, c.dw, some .ok⟩] ∧ t.waves = s.waves ++ [w] ∧
        w.gw = true ∧ w.die = die ∧ w.clu = gw ∧ w.ctx = x.id ∧ w.bregs = regs ∧ w.depth = 10#4 ∧ w.thr.hdr = entry.extractLsb' 0 54 ∧
        w.thr.st = .ready ∧ w.notifyAt = some (w1.extractLsb' 8 8) ∧ w.lanes.length = 1 ∧
        ∀ l ∈ w.lanes, l.reg 0 = ⟨arg.extractLsb' 0 32, .addr⟩ ∧ l.reg 1 = ⟨arg.extractLsb' 32 32, .addr⟩ ∧ l.slotNo = k ∧ l.trapvecHi ++ l.trapvec = x.tvec))) ∧
  (∀ (s : State) (c : HubCmd), CmdTakes s c 10 →
    let w := c.dw.getD 1 0#64
    ((w &&& ~~~0x3F07#64) = 0#64 →
      exec (.clreset c) s = .next ((s.resetCluster (w.extractLsb' 0 3).toNat (w.extractLsb' 8 6).toNat).issued c (some .ok))) ∧
    ((w &&& ~~~0x3F07#64) ≠ 0#64 → exec (.clreset c) s = .next (s.issued c (some .refused)))) ∧
  ∀ (s : State) (c : HubCmd), s.hubUp = true → c.hart < 24 → (∀ x ∈ s.cmds, x.hart ≠ c.hart) →
    let op := ((c.dw.getD 0 0#64).extractLsb' 0 8).toNat
    op = 0 ∨ 10 < op ∨ (c.dw.getD 0 0#64).extractLsb' 28 36 ≠ 0#36 → exec (.hubCommandUnknown c) s = .next (s.issued c (some .refused))

/-- R439 to R441: the context commands at their issue.

R439, R441: HUB_COMMAND_COMPLETE writes the status of the hart's command to its notify register of context 0x000: a status earned at
issue; for CTXSET what its named fields give, in force from then on (log 101); OK for CTXNEW and CTXRES with their reservations made, for CTXSUSP once no wave issues, for CTXSWAP and CTXTEAR once no wave or
job is left. The bytes that CTXSWAP needs in its save area are the model's choice (log 28). -/
def Obligations.ContextCommandsAndCompletion : Prop :=
  (
  (∀ (s : State) (c : HubCmd), CmdTakes s c 3 →
    (cmdCtx c = 0#12 ∨ (s.ctx? (cmdCtx c)).isSome ∨ s.readDescriptor (c.dw.getD 1 0#64) = none →
      exec (.ctxnew c) s = .next (s.issued c (some .refused))) ∧
    ∀ d, cmdCtx c ≠ 0#12 → s.ctx? (cmdCtx c) = none → s.readDescriptor (c.dw.getD 1 0#64) = some d →
      let keep (e : (Nat × Nat × Nat) × List Host.Cell) : Bool := e.1.1 != (cmdCtx c).toNat
      ∃ r, exec (.ctxnew c) s = .next ({ s with
        ctxs := s.ctxs ++ [ctxFrom (cmdCtx c) d]
        resvs := r
        nrgs := s.nrgs.filter keep }.issued c none)) ∧
  (∀ (s : State) (c : HubCmd), CmdTakes s c 4 → exec (.ctxset c) s = .next (s.issued c none)) ∧
  (∀ (s : State) (c : HubCmd) (x : Ctx), s.ctx? (cmdCtx c) = some x →
    (CmdTakes s c 5 → x.st = .live → exec (.ctxsusp c) s = .next (((s.setState x.id .suspended).spillAll x.id).issued c none)) ∧
    (CmdTakes s c 5 → x.st ≠ .live → exec (.ctxsusp c) s = .next (s.issued c (some .refused))) ∧
    (CmdTakes s c 6 → x.st = .live ∨ x.st = .suspended → s.saveNeed x ≤ x.saveSize →
      exec (.ctxswap c) s = .next (((s.setState x.id .suspended).spillAll x.id).issued c none)) ∧
    (CmdTakes s c 6 → x.st = .live ∨ x.st = .suspended → x.saveSize < s.saveNeed x → exec (.ctxswap c) s = .next (s.issued c (some .full))) ∧
    (CmdTakes s c 6 → x.st ≠ .live → x.st ≠ .suspended → exec (.ctxswap c) s = .next (s.issued c (some .refused))) ∧
    (CmdTakes s c 7 → x.st = .suspended → exec (.ctxres c) s = .next ((s.setState x.id .live).issued c (some .ok))) ∧
    (CmdTakes s c 7 → x.st ≠ .suspended → x.st ≠ .swapped → exec (.ctxres c) s = .next (s.issued c (some .refused))) ∧
    (CmdTakes s c 8 → cmdCtx c = 0#12 ∨ x.st = .teardown ∨ x.st = .free → exec (.ctxtear c) s = .next (s.issued c (some .refused))) ∧
    (CmdTakes s c 8 → cmdCtx c ≠ 0#12 → x.st ≠ .teardown → x.st ≠ .free → ∃ t, exec (.ctxtear c) s = .next t ∧
      t.cmds = s.cmds ++ [⟨c.hart, c.dw, none⟩] ∧ t.ctxs = (s.setState (cmdCtx c) .teardown).ctxs ∧ t.waves = s.waves ∧ t.jobs = s.jobs ∧
      (∀ k, ∀ r ∈ (t.ring k).recs, r.ctx = cmdCtx c → r.dispatched = true) ∧
      (∀ e ∈ t.scheds, ∀ r ∈ e.2.ready, r.ctx ≠ cmdCtx c) ∧ (∀ v ∈ t.saved, v.team.ctx ≠ cmdCtx c) ∧
      (∀ g ∈ t.grids, g.ctx = cmdCtx c → g.counter = 0 ∧ g.code = 0x80000003#32)))) ∧
  (
  ∀ (s : State) (c : Cmd) (x : Ctx), s.cmds.find? (fun y => y.hart == c.hart) = some c →
    let op := ((c.dw.getD 0 0#64).extractLsb' 0 8).toNat
    let id : BitVec 12 := (c.dw.getD 0 0#64).extractLsb' 16 12
    let idle := (∀ w ∈ s.waves, w.ctx ≠ id) ∧ (∀ j ∈ s.jobs, j.d.ctx ≠ id) ∧ ∀ t ∈ s.teams, t.ctx = id → t.gone = true
    (∀ st, c.status = some st → exec (.hubCommandComplete c.hart) s = .next (s.finished c st.code)) ∧
    (c.status = none → op = 4 → s.ctx? id = none → exec (.hubCommandComplete c.hart) s = .next (s.finished c 3)) ∧
    (c.status = none → s.ctx? id = some x →
      (op = 3 → s.reserved? x = true → exec (.hubCommandComplete c.hart) s = .next ((s.setState id .live).finished c 0)) ∧
      (op = 4 → x.st = .teardown ∨ x.st = .free → exec (.hubCommandComplete c.hart) s = .next (s.finished c 3)) ∧
      (op = 4 → x.st ≠ .teardown → x.st ≠ .free →
        let d := s.descriptor (c.dw.getD 1 0#64).toNat
        let m := c.dw.getD 2 0#64
        let y := ctxFrom id d
        let ok := m.toNat < 256 ∧ ¬(id = 0#12 ∧ (m.getLsbD 1 = true ∨ m.getLsbD 2 = true)) ∧ descAt (c.dw.getD 1 0#64) ∧ fieldsOk d m ∧
          (m.getLsbD 7 = true → y.kspBase = x.kspBase ∧ y.saveBase = x.saveBase ∧ x.saveSize ≤ y.saveSize ∧ ∀ p ∈ List.zip x.ksp y.ksp, p.1 ≤ p.2)
        (¬ok → exec (.hubCommandComplete c.hart) s = .next (s.finished c 10)) ∧
        (ok →
          let t := s.modCtx id fun z =>
            { z with
              root := if m.getLsbD 0 then y.root else z.root
              rkey := if m.getLsbD 1 then y.rkey else z.rkey
              wkey := if m.getLsbD 2 then y.wkey else z.wkey
              tvec := if m.getLsbD 3 then y.tvec else z.tvec
              svcthr := if m.getLsbD 4 then y.svcthr else z.svcthr
              mlock := if m.getLsbD 5 then y.mlock else z.mlock
              htab := if m.getLsbD 6 then y.htab else z.htab
              ksp := if m.getLsbD 7 then y.ksp else z.ksp
              saveSize := if m.getLsbD 7 then y.saveSize else z.saveSize }
          let t := if m.getLsbD 0 then t.shootDown id 0 (2 ^ 54 - 2 ^ 48) else t
          let t := if (m.getLsbD 1 ∧ x.rkey &&& ~~~y.rkey ≠ 0#64) ∨ (m.getLsbD 2 ∧ x.wkey &&& ~~~y.wkey ≠ 0#64) then t.clearRuns id else t
          let t := if m.getLsbD 4 then t.testSwaps id else t
          exec (.hubCommandComplete c.hart) s = .next (t.finished c 0))) ∧
      (op = 5 → (∀ w ∈ s.waves, w.ctx = id → w.issuing = false) → exec (.hubCommandComplete c.hart) s = .next (s.finished c 0)) ∧
      (op = 6 → idle → exec (.hubCommandComplete c.hart) s =
        .next ({ s.setState id .swapped with resvs := s.resvs.filter fun r => r.ctx != id }.finished c 0)) ∧
      (op = 7 → x.st = .swapped → s.reserved? x = true → (∀ v ∈ s.saved, v.team.ctx ≠ id) →
        exec (.hubCommandComplete c.hart) s = .next ((s.setState id .live).finished c 0)) ∧
      (op = 8 → idle → (∀ g ∈ s.grids, g.ctx ≠ id) → ∃ t : State, exec (.hubCommandComplete c.hart) s = .next (t.finished c 0) ∧
        t.ctxs = s.ctxs.filter (fun y => y.id != id) ∧ (∀ y ∈ t.teams, y.ctx ≠ id) ∧ (∀ e ∈ t.tlb, e.ctx ≠ id) ∧ (∀ l ∈ t.icache, l.ctx ≠ id) ∧
        (∀ r ∈ t.resvs, r.ctx ≠ id) ∧ t.waves = s.waves ∧ t.mem = s.mem)))

/-- 05_memory R166, 14_hub R439: MIGRATE copies the page and keeps it in use; a round with 64 or fewer marked lines, or the eighth, freezes
it; the switch makes the entry name the new frame, which holds the page's bytes, gives that frame to the accesses that stalled at the page,
and shoots the page down. -/
def Obligations.PageMigration : Prop :=
  (∀ (s : State) (c : HubCmd) (x : Ctx) (l : Nat) (p : DWord), CmdTakes s c 9 → s.ctx? (cmdCtx c) = some x →
    let va := (c.dw.getD 1 0#64).toNat
    let f1 := (c.dw.getD 2 0#64).toNat
    let f0 := pteFrame p
    let n := pageSize l
    let fits := f1 % n = 0 ∧ f1 < 2 ^ 57 ∧ pkgOf f1 = s.pkgid ∧ homeDie f1 < 8 ∧ f1 % 2 ^ 37 + n ≤ heapSize
    va < 2 ^ 54 → s.walk x va = .leaf l p → attrRepl (p.extractLsb' 0 17) = false →
    (¬fits ∨ (f0 < f1 + n ∧ f1 < f0 + n) → exec (.migrate c) s = .next (s.issued c (some .refused))) ∧
    (fits → ¬(f0 < f1 + n ∧ f1 < f0 + n) → s.migrations = [] → ∃ (t : State) (m : Migration), exec (.migrate c) s = .next (t.issued c none) ∧ t.migrations = [m] ∧
      m.ctx = cmdCtx c ∧ m.f1.toNat = f1 ∧ m.size = n ∧ m.marked = [] ∧ m.round = 1 ∧ m.frozen = false ∧ m.hart = c.hart ∧
      (Memory.wf s.mem = true → ∀ a, memGet t.mem a = if f1 ≤ a ∧ a < f1 + n then memGet s.mem (a - f1 + m.f0.toNat) else memGet s.mem a))) ∧
  (∀ (s : State) (m : Migration), s.migrations.find? (·.k == m.k) = some m → m.frozen = false →
    let change (u : State) (g : Migration → Migration) : State := { u with migrations := u.migrations.map fun y => if y.k == m.k then g y else y }
    (m.marked.length ≤ 64 ∨ 8 ≤ m.round → exec (.migrationRoundEnd m.k) s = .next (change s fun y => { y with frozen := true })) ∧
    (64 < m.marked.length → m.round < 8 → exec (.migrationRoundEnd m.k) s =
      .next (change (s.copyLines m) fun y => { y with marked := [], round := y.round + 1 }))) ∧
  ∀ (s : State) (m : Migration) (c : Ctx) (e : Nat), s.migrations = [m] → m.frozen = true → s.ctx? m.ctx = some c → s.l1 = [] →
    leafEntryFrom (s.copyLines m).mem m.va.toNat c.root.toNat 3 = some e →
    let u := s.copyLines m
    let old := u.physNat e 8
    let va := m.va.toNat / m.size * m.size
    let done (y : Cmd) : Cmd := if y.hart = m.hart ∧ y.status = none then { y with status := some .ok } else y
    exec (.migrationSwitch m.k) s = .next ((({ u with migrations := [], cmds := s.cmds.map done }.moveHeld m.f0.toNat m.f1.toNat m.size).physWrite e
        (leBytes 8 (BitVec.ofNat 64 (old - pteFrame (BitVec.ofNat 64 old) + m.f1.toNat)).toNat)).shootDown m.ctx va (va + m.size))

/-- 13_gateways R415, R418, R419: training, lane loss, retry, heartbeats and silence of a port, and fences. -/
def Obligations.LinksAndFences : Prop :=
  (∀ (s : State) (die port : Nat),
    let t := s.tildor die port
    (∀ t3 half peer, ¬(t.st = 3#2 ∧ t.peer ∈ s.fenced) → exec (.linkTrain die port t3 half peer) s = .next (s.portChange die port fun y =>
      { y with st := 2#2, gen := if t3 then 2#2 else 1#2, half := half, peer := peer })) ∧
    (t.st = 2#2 → exec (.laneLoss die port) s = .next (s.portChange die port fun y => { y with st := 1#2, half := true })) ∧
    exec (.flitRetry die port) s = .next (s.portChange die port fun y => { y with replays := y.replays + 1 }) ∧
    exec (.flitReceive die port) s = .next (s.portChange die port fun y => { y with silence := 0 }) ∧
    exec (.heartbeatSend die port) s = .next (if t.st = 2#2 ∧ t.peer ∉ s.fenced
      then s.portChange die port fun y => { y with heartbeats := y.heartbeats + 1 } else s) ∧
    (t.st ≠ 2#2 ∨ t.silence < t.threshold → exec (.portSilent die port) s = .next s) ∧
    (t.st = 2#2 → t.threshold ≤ t.silence → t.peer ≠ s.pkgid → t.peer ∉ s.fenced → (∀ f ∈ s.flights, f.remote ≠ some t.peer) →
      exec (.portSilent die port) s = .next ((s.portChange die port fun y => { y with st := 3#2 }).fencedOff t.peer))) ∧
  ∀ (s : State) (x : BitVec 12),
    (x ∈ s.fenced → exec (.fenceNotice x) s = .next s) ∧
    (x ∉ s.fenced → x ≠ s.pkgid → exec (.fenceNotice x) s = .next ((s.flights.filter fun f => f.remote == some x).foldl
      (fun u f => (u.answer f .linkdown).dropFlight f.k) (s.fencedOff x)))

/-- 01_ties R34, 15_sextant R445, R446: the end of a budget interval sets the duty numerator, takes the allowance from B and the die's
share and lapses reservations; metered energy is added to the counter.

15_sextant R443, R444: a semaphore request is granted only when no port holds it; a release or the loss of the holder's link frees
it; GEN counts the changes of holder; SEM as a port reads and writes it. That OWN reads the value last written is the model's choice
(log 104). -/
def Obligations.EnergyIntervalsAndSemaphore : Prop :=
  (
  (∀ (s : State) (die : Nat),
    let d := s.die die
    let used := (d.energy + 2 ^ 64 - d.startUse) % 2 ^ 64
    ∃ t, exec (.budgetIntervalEnd die) s = .next t ∧
      t.die die = { d with duty := if used ≤ d.allowance then 16 else max 1 (16 * d.allowance / used), startUse := d.energy, charged := 0,
                           allowance := s.sext.budget * s.sext.shares.getD die 0 / 1024, held := false, intervals := d.intervals + 1 } ∧
      (∀ k ≠ die, t.die k = s.die k) ∧ t.teams = s.teams.map (fun y => if y.die = die then { y with rsv := 0 } else y) ∧
      { t with dies := s.dies, teams := s.teams } = s) ∧
  ∀ (s : State) (die uj : Nat), ∃ t, exec (.energyMeterUpdate die uj) s = .next t ∧
    t.die die = { s.die die with energy := ((s.die die).energy + uj) % 2 ^ 64 } ∧ (∀ k ≠ die, t.die k = s.die k) ∧ { t with dies := s.dies } = s) ∧
  (
  ∀ (s : State) (port : Nat),
    let owned (o : Option Nat) (u : State) : State := { u with sext := { u.sext with owner := o, gen := u.sext.gen + 1#16 } }
    let others := s.sext.own.filter (· != port)
    let wrote (l : List Nat) (u : State) : State := { u with sext := { u.sext with own := l } }
    (s.sext.owner = none → exec (.semRequest port) s = .next (wrote (others ++ [port]) (owned (some port) s))) ∧
    (s.sext.owner ≠ none → exec (.semRequest port) s = .next (wrote (others ++ [port]) s)) ∧
    (s.sext.owner = some port → exec (.semRelease port) s = .next (wrote others (owned none s)) ∧
      exec (.hostLinkDown port) s = .next (owned none s)) ∧
    (s.sext.owner ≠ some port → exec (.semRelease port) s = .next (wrote others s) ∧ exec (.hostLinkDown port) s = .next s) ∧
    (∃ w : Word, s.barAccess port 0x1000 (.read 4) = .next { s with sext := { s.sext with hostOut := some (leBytes 4 w.toNat) } } ∧
      (w.getLsbD 0 = true ↔ port ∈ s.sext.own) ∧ (w.getLsbD 1 = true ↔ s.sext.owner = some port) ∧
      (w.getLsbD 2 = true ↔ ∃ p, s.sext.owner = some p ∧ p ≠ port) ∧ w.extractLsb' 3 13 = 0#13 ∧ w.extractLsb' 16 16 = s.sext.gen) ∧
    ∀ (l : List Byte) (c : Option MailCmd), l.length = 4 →
      s.barAccess port 0x1000 (.write l c) = exec (if leNat l % 2 = 1 then .semRequest port else .semRelease port) s)

/-- R449, R450: the mailbox: CONFIG, STANDBY, LIFT, SETBUDGET, REACH and RESET with the semaphore, and what they do without it; a second
issue is discarded; MAILBOX_COMPLETE writes the status; a host port writes doublewords 1 to 7, and a doubleword 0 that is no command's OP is
REFUSED (log 106). The digest of CONFIG that extends the measurement is a free value (log 15). -/
def Obligations.MailboxControl : Prop :=
  (∀ (s : State) (src : MailSrc), MailTakes s src → ¬Holds s src →
    (∀ a, exec (.config src a) s = .next (s.mailed src 0x10 .refused)) ∧ (∀ l, exec (.standby src l) s = .next (s.mailed src 0x11 .refused)) ∧
    (∀ p, exec (.lift src p) s = .next (s.mailed src 0x12 .refused)) ∧ (∀ b l, exec (.setbudget src b l) s = .next (s.mailed src 0x20 .refused)) ∧
    (∀ x y, exec (.reach src x y) s = .next (s.mailed src 0x21 .refused)) ∧ (∀ i, exec (.fwupdate src i) s = .next (s.mailed src 0x40 .refused)) ∧
    (∀ n, exec (.reset src (.die n)) s = .next (s.mailed src 0x30 .refused)) ∧ exec (.reset src .package) s = .next (s.mailed src 0x30 .refused)) ∧
  (∀ (s : State) (src : MailSrc), MailTakes s src → Holds s src →
    (∀ a : ConfigArgs, (∃ t ∈ a.thresholds, t.2.2 < 2 ^ 14 ∨ 2 ^ 31 < t.2.2) → exec (.config src a) s = .next (s.mailed src 0x10 .refused)) ∧
    (∀ a : ConfigArgs, (∀ t ∈ a.thresholds, 2 ^ 14 ≤ t.2.2 ∧ t.2.2 ≤ 2 ^ 31) → a.pkgid = s.pkgid → ∃ d,
      let u : State := { s with domain := a.domain, freeCtr := s.freeCtr + 1 }
      let u := a.pairs.foldl (fun u x => u.portChange x.1 x.2.1 fun t => { t with peer := x.2.2 }) u
      let u := a.thresholds.foldl (fun u x => u.portChange x.1 x.2.1 fun t => { t with threshold := x.2.2 }) u
      exec (.config src a) s = .next ({ u with sext := u.sext.measured 3 d }.mailed src 0x10 .ok)) ∧
    (∀ l, exec (.standby src l) s = .next (if l.length ≤ 8 then { s with standby := l }.mailed src 0x11 .ok else s.mailed src 0x11 .refused)) ∧
    (∀ p, exec (.lift src p) s = .next ({ s with fenced := s.fenced.filter (· != p) }.mailed src 0x12 .ok)) ∧
    (∀ b l, l.length = 8 → exec (.setbudget src b l) s = .next (if l.sum ≤ 1024
      then { s with sext := { s.sext with budget := b, shares := l } }.mailed src 0x20 .ok else s.mailed src 0x20 .refused)) ∧
    (∀ p lo hi, s.sext.owner = some p → exec (.reach src lo hi) s = .next ({ s with sext := { s.sext with
      reach := (s.sext.reach.filter fun (e : Nat × BitVec 12 × BitVec 12) => e.1 != p) ++ [(p, lo, hi)] } }.mailed src 0x21 .ok)) ∧
    (∀ n, n < 8 → n ∈ s.running →
      let erred := s.l2.filter fun e => e.die == n && (List.range 128).any fun i => s.bad.contains (128 * e.line + i)
      exec (.reset src (.die n)) s = .next (((s.failDie n).revert erred (erred.map (·.line))).mailed src 0x30 .ok (some n))) ∧
    exec (.reset src .package) s = .next { State.reset with
      sext := { Sextant.reset with stored := s.sext.stored, staged := s.sext.staged, fused := s.sext.fused }
      gens := s.gens
      freeCtr := s.freeCtr
      turn := s.turn }) ∧
  (∀ (s : State) (src : MailSrc) (d c : Nat), MailTakes s src → d < 8 → c < 64 →
    exec (.reset src (.cluster d c)) s = .next ((s.resetCluster d c).mailed src 0x30 .ok)) ∧
  (∀ (s : State) (src : MailSrc) (m : Mail), m ∈ s.sext.mails → m.src = src → exec (.counters src) s = .next s ∧ ∀ p, exec (.lift src p) s = .next s) ∧
  (∀ (s : State) (port k : Nat) (l : List Byte) (c : Option MailCmd), l.length = 8 →
    (0 < k → k < 8 → s.barAccess port (0x2000 + 8 * k) (.write l c) = .next { s with sext := { s.sext with
      words := assocSet s.sext.words (port, k) (BitVec.ofNat 64 (leNat l)) } }) ∧
    (MailTakes s (.port port) → leNat l ∉ [0x10, 0x11, 0x12, 0x20, 0x21, 0x30, 0x40, 0x50, 0x51, 0x60] → ∃ t,
      s.barAccess port 0x2000 (.write l c) = .next t ∧ { t with sext := s.sext } = s ∧ t.sext.mails = s.sext.mails ++ [⟨.port port, .refused, none⟩]) ∧
    (∀ m, c = some m → leNat l = mailOp m → s.barAccess port 0x2000 (.write l c) = execMail (.port port) m s)) ∧
  ∀ (s : State) (m : Mail), s.sext.mails.find? (fun y => y.src = m.src) = some m →
    let u : State := { s with sext := { s.sext with
      mails := s.sext.mails.filter fun y => y.src ≠ m.src
      box := assocSet s.sext.box m.src (assocGet s.sext.box m.src 0#64 ||| BitVec.ofNat 64 (m.status.code * 2 ^ 32 + 2 ^ 63)) } }
    exec (.mailboxComplete m.src) s = .next (match m.restart with | none => u | some n => { u with running := (s.running ++ [n]).dedup })

/-- R449, R451 to R454: FWUPDATE, ATTEST's report, EXTEND, COUNTERS, the sideband, a package reset and boot, and the hub's fatal error. The byte order of the report and of the measurement extension, and the signature, are the model's choices (log 15). -/
def Obligations.FirmwareAndAttestation : Prop :=
  (∀ (s : State) (src : MailSrc), MailTakes s src →
    (∀ img, Holds s src → exec (.fwupdate src img) s = .next (if img.valid = true ∧ s.sext.fused ≤ img.version
      then { s with sext := { s.sext with staged := (s.sext.staged.filter fun (y : FwImage) => y.slot ≠ img.slot) ++ [img] } }.mailed src 0x40 .ok else s.mailed src 0x40 .refused)) ∧
    (∀ nonce buf, ∃ vers key sig : List Byte, vers.length = 8 ∧ key.length = 64 ∧ sig.length = 29792 ∧
      exec (.attest src nonce buf) s = .next ({ s with sext := { s.sext with report := some (buf,
        beBytes 32 nonce.toNat ++ s.sext.measure.toList.flatMap (fun (m : BitVec 256) => beBytes 32 m.toNat) ++ vers ++ key ++ sig) } }.mailed
          src 0x50 .ok)) ∧
    (∀ r d, exec (.extend src r d) s = .next (if 4 ≤ r ∧ r ≤ 7 then { s with sext := s.sext.measured r d }.mailed src 0x51 .ok
      else s.mailed src 0x51 .refused)) ∧
    exec (.counters src) s = .next ({ s with sext := { s.sext with returned := some ⟨s.sext.refused, s.sext.discarded, s.sext.unmapped,
      s.sext.corrected, s.sext.dirtyLog, s.sext.dropped⟩ } }.mailed src 0x60 .ok)) ∧
  (∀ (s : State), exec (.sidebandCommand .counters) s = exec (.counters .sideband) s ∧
    (∀ a, exec (.sidebandCommand (.config a)) s = exec (.config .sideband a) s) ∧
    (∀ t, exec (.sidebandCommand (.reset t)) s = exec (.reset .sideband t) s) ∧
    (MailTakes s .sideband → exec (.sidebandCommand .counters) s = .next ({ s with sext := { s.sext with returned := some ⟨s.sext.refused,
      s.sext.discarded, s.sext.unmapped, s.sext.corrected, s.sext.dirtyLog, s.sext.dropped⟩ } }.mailed .sideband 0x60 .ok))) ∧
  (∀ s, ∃ t, exec .packageReset s = .next t ∧ t.sext = { Sextant.reset with
      stored := s.sext.stored, staged := s.sext.staged, fused := s.sext.fused } ∧ t.gens = s.gens ∧
    { t with sext := State.reset.sext, gens := State.reset.gens, freeCtr := State.reset.freeCtr, turn := State.reset.turn } = State.reset) ∧
  (∀ (s : State) (b : BootImages), s.sext.booted = true → exec (.boot b) s = .next s) ∧
  (∀ (s : State) (b0 : BootImages), s.sext.booted = false →
    let b := s.sext.staged.foldl BootImages.put b0
    (¬imageGood s b.sextant → exec (.boot b0) s = .next { s with
      hubUp := false, map2 := false, map1 := false,
      sext := { s.sext with booted := true, stored := b, staged := [], recovery := true, hubHeld := true } }) ∧
    (imageGood s b.sextant → ∃ t, exec (.boot b0) s = .next t ∧ (t.hubUp = true ↔ imageGood s b.hub) ∧ (t.map2 = true ↔ imageGood s b.edfen2) ∧
      (t.map1 = true ↔ imageGood s b.edfen1) ∧ t.sext.recovery = s.sext.recovery ∧ t.sext.booted = true ∧ t.sext.stored = b ∧ t.sext.staged = [] ∧
      t.sext.versions = [b.sextant.version, b.hub.version, b.edfen2.version, b.edfen1.version] ∧
      t.sext.measure[0]? = (s.sext.measured 0 b.sextant.digest).measure[0]? ∧
      (imageGood s b.hub → t.sext.measure[1]? = (s.sext.measured 1 b.hub.digest).measure[1]?) ∧
      (imageGood s b.edfen2 → imageGood s b.edfen1 →
        t.sext.measure[2]? = ((s.sext.measured 2 b.edfen2.digest).measured 2 b.edfen1.digest).measure[2]?) ∧
      { t with hubUp := s.hubUp, map2 := s.map2, map1 := s.map1, sext := s.sext } = s)) ∧
  ∀ s, exec .hubFatalError s = .next { s with hubUp := false, sext := { s.sext with fatal := true } }

/-- R442, 11_schedulers R357, R359, R360: a host port's accesses: notify windows, device memory, offsets that hold nothing, and a launch
record, which is refused and logged or arrives at the hub keyring. A port's requests are performed in their order, and one at a page that is
being migrated or expanded waits (05_memory R160, R166). That a write to a COMP page expands it first, or is discarded where its entry does not
allow that (log 67), and what accesses of other sizes do (log 106), are the model's choices. -/
def Obligations.HostAccesses : Prop :=
  (∀ (s : State) (port ctx idx : Nat) (v : BitVec 64),
    (notifyOpen s port ctx idx → exec (.hostNotifyWrite port ctx idx v) s = .next (s.notifyWrite (BitVec.ofNat 12 ctx) idx v) ∧
      exec (.hostNotifyRead port ctx idx) s =
        .next { s with sext := { s.sext with hostOut := some (leBytes 8 (s.notifyReg (BitVec.ofNat 12 ctx) idx).toNat) } }) ∧
    (¬notifyOpen s port ctx idx →
      exec (.hostNotifyWrite port ctx idx v) s = .next { s with sext := { s.sext with discarded := s.sext.discarded + 1 } } ∧
      exec (.hostNotifyRead port ctx idx) s = .next { s with sext := { s.sext with hostOut := none } })) ∧
  (∀ (s : State) (port addr size : Nat) (l : List Byte), l.length = size →
    let a := addr % 2 ^ 45 + s.pkgid.toNat * 2 ^ 45
    let queued (h : HostReq) (u : State) : State := { u with held := u.held ++ [⟨port, h⟩] }
    let dropped : State := { s with sext := { s.sext with discarded := s.sext.discarded + 1 } }
    let write := exec (.hostMemoryAccess port addr size (some l)) s
    let read := exec (.hostMemoryAccess port addr size none) s
    ((∃ h ∈ s.held, h.port = port) → write = .next (queued (.write a l) s) ∧ read = .next (queued (.read a size) s)) ∧
    ((∀ h ∈ s.held, h.port ≠ port) →
      (s.frozenIn a size = true → write = .next (queued (.write a l) s) ∧ read = .next (queued (.read a size) s)) ∧
      (s.frozenIn a size = false →
        (s.isFenced a = true → write = .next dropped ∧ read = .next { s with sext := { s.sext with hostOut := none } }) ∧
        (s.isFenced a = false → (∀ i < size, s.hostByte (a + i) = l[i]?) → read = .next { s with sext := { s.sext with hostOut := some l } }) ∧
        (s.isFenced a = false → s.compLeaf a size = none → write = .next (s.physWrite a l)) ∧
        (∀ c va pte, s.isFenced a = false → s.compLeaf a size = some (c, va, pte) →
          (pte.getLsbD 15 = false → write = .next dropped) ∧
          (pte.getLsbD 15 = true → write = .next (queued (.write a l) (s.startExpand c va ⟨pteFrame pte, 1, pte.extractLsb' 0 17⟩))))))) ∧
  (∀ (s : State) (port c r n : Nat) (l : List Byte) (m : Option MailCmd),
    (c < 4096 → r < 256 → s.barAccess port (0x800000 + 2048 * c + 8 * r) (.read 8) = exec (.hostNotifyRead port c r) s ∧
      (l.length = 8 → s.barAccess port (0x800000 + 2048 * c + 8 * r) (.write l m) =
        exec (.hostNotifyWrite port c r (BitVec.ofNat 64 (leNat l))) s)) ∧
    (l.length = 64 → s.barAccess port 0 (.write l m) =
      exec (.hostLaunchPost port ((List.range 16).map fun i => BitVec.ofNat 32 (leNat ((l.drop (4 * i)).take 4)))) s) ∧
    ∀ off, (64 ≤ off ∧ off < 0x1000) ∨ (0x1004 ≤ off ∧ off < 0x2000) ∨ (0x2040 ≤ off ∧ off < 0x800000) → 0 < n →
      s.barAccess port off (.read n) = exec (.hostUnmappedAccess port false) s ∧
      s.barAccess port off (.write l m) = exec (.hostUnmappedAccess port true) s) ∧
  (∀ (s : State) (port : Nat), exec (.hostUnmappedAccess port true) s = .next { s with sext := { s.sext with unmapped := s.sext.unmapped + 1 } } ∧
    exec (.hostUnmappedAccess port false) s = .next { s with sext := { s.sext with unmapped := s.sext.unmapped + 1, hostOut := none } }) ∧
  ∀ (s : State) (port : Nat) (r : List Word), r.length = 16 → (∀ h ∈ s.held, h.port ≠ port) →
    let c : BitVec 12 := (dw r 2).extractLsb' 0 12
    let caddr : DWord := dw r 13 ++ dw r 12
    let key : BitVec 48 := (dw r 1).extractLsb' 0 16 ++ dw r 0
    let logged : State := { s with sext := { s.sext with refused := s.sext.refused ++ [(key, c)] } }
    let big := tooLarge (dw r 6) (fld (dw r 11) 0 5 + 1)
    (¬hostLegal r → caddr = 0#64 ∨ s.ctxDead c = true → exec (.hostLaunchPost port r) s = .next logged) ∧
    (hostLegal r → big = false → s.sext.mayReach port c = true → s.room .hub c ≠ none → s.ctxDead c = true →
      exec (.hostLaunchPost port r) s = .next logged) ∧
    (hostLegal r → big = false → s.sext.mayReach port c = true → ∀ sp, s.room .hub c = some sp → s.ctxDead c = false →
      ∃ t y, exec (.hostLaunchPost port r) s = .next t ∧ (t.ring .hub).recs = (s.ring .hub).recs ++ [y] ∧ y.cls = 0#4 ∧ y.key = key ∧ y.ctx = c ∧
        y.payload = r.drop 4 ∧ y.prio = (dw r 1).extractLsb' 26 2 ∧ y.stream = (dw r 2).extractLsb' 16 15 ∧
        y.target = (dw r 3).extractLsb' 0 24 ∧ y.accepted = false ∧ y.spilled = sp ∧
        ∃ f, t.flights = s.flights ++ [f] ∧ f.kr = .hub ∧ f.arrived = some y.uid ∧ f.returns = .acceptance ∧ f.push.origin = some port ∧
          s.uid ≤ f.apos)

/-- 01_ties R29, R31, 07_keyring R261, 11_schedulers R382: a die's fatal error takes its waves and teams away and keeps its accepted
durable records for its mirror, dispatched work as retries, and lines still dirty in its L2 hold what memory last had (05_memory R171): those of which the event names a byte that memory last had,
and those with an error; JOURNAL_REPLAY puts them into the mirror's keyring and ready queue. What a failed die leaves in caches and in flight is the model's choice (log 20). -/
def Obligations.DieFailures : Prop :=
  (∀ (s : State) (die : Nat) (stale : List (Nat × Byte)), die < 8 → s.running.contains die = true → (∀ j ∈ s.jobs, j.d.eng ≠ .stack) →
    let dirty := s.l2.filter fun e => e.die == die && ((stale.any fun x =>
      x.1 / 128 == e.line && x.2 == (leBytes 128 e.old.toNat).getD (x.1 % 128) 0#8) || (List.range 128).any fun i => s.bad.contains (128 * e.line + i))
    ∃ t r, exec (.dieFatalError die stale) s = .next t ∧ t.replays = s.replays ++ [r] ∧ r.die = die ^^^ 1 ∧ die ∉ t.running ∧
      (∀ w ∈ t.waves, w.die ≠ die) ∧ (∀ y ∈ t.teams, y.die ≠ die) ∧ (∀ e ∈ t.scheds, e.1 ≠ die) ∧ t.ctxs = s.ctxs ∧
      t.mem = dirty.foldl (fun m (e : L2Line) => memPuts m (128 * e.line) (leBytes 128 e.old.toNat)) s.mem ∧
      t.sext.dirtyLog = (s.sext.dirtyLog ++ ((s.l1.filter fun l => l.pipe.die == die && l.dirty != 0#128).map (·.line) ++
        dirty.map (·.line))).dedup ∧
      (∀ e ∈ s.keyrings, ringLost die none e.1 = true → ∀ x ∈ (s.ring e.1).recs, durable x.cls = true → x.accepted = true →
        (∀ f ∈ s.flights, f.arrived = some x.uid → f.undo = none) → ∃ y, (KrId.die (die ^^^ 1), y) ∈ r.recs ∧ y.uid = x.uid ∧ y.payload = x.payload ∧ y.stream = x.stream ∧
          (x.dispatched = false → y.dispatched = false ∧ y.attempt = x.attempt ∧ y.latched = x.latched) ∧
          (x.dispatched = true → x.cls ≠ 0#4 → x.cls ≠ 1#4 → y.dispatched = false ∧ y.latched = true ∧ y.attempt = x.attempt + 1)) ∧
      (∀ e ∈ (s.sched die).ready, e.saved = none → e ∈ r.entries) ∧
      (∀ y ∈ s.teams, y.die = die → y.gone = false → ∀ e, y.ent = some e → ∃ z ∈ r.entries,
        z.record = e.record ∧ z.lo = e.lo ∧ z.hi = e.hi ∧ z.attempt = e.attempt + 1)) ∧
  ∀ (s : State) (die : Nat) (r : Replay), s.running.contains die = true → s.replays.filter (fun x => x.die == die) = [r] →
    (∀ e ∈ r.recs, e.1 = .die die) → ∃ t, exec (.journalReplay die) s = .next t ∧ (t.sched die).ready = (s.sched die).ready ++ r.entries ∧
      t.waves = s.waves ∧ t.mem = s.mem ∧ ∃ sp : Nat → Bool,
        (t.ring (.die die)).recs = (s.ring (.die die)).recs ++ r.recs.mapIdx (fun i e =>
          { e.2 with pos := (s.ring (.die die)).next + i, stamp := s.uid + i, spilled := sp i }) ∧
        (((s.ring (.die die)).recs.filter fun x => !x.dispatched && !x.spilled).length + r.recs.length ≤ 4096 → ∀ i < r.recs.length, sp i = false)

/-- 02_encoding R42, 04_pipeline R102, 06_group R215, R216: which party CLAUSE_SELECT grants, and that the grant makes its clause own the
pipeline with the header's COUNT and ALLOW; a fused group passed over eight times reserves.

02_encoding R41, 04_pipeline R105: HEADER_FETCH_COMPLETE brings the 64-byte line that a party misses into its instruction cache; a
page without execute permission, or an address in the spill range (05_memory R150) or the scratchpad aperture, traps PROT at the point that
led there; that no code lies in the aperture is the model's choice (log 86).

04_pipeline R112: a REGX that has waited REGXWAIT issue cycles traps REGXSTALL at its slot. R147, R148: the gating of a pipeline or
cluster: entry, its two checks, and waking. -/
def Obligations.Pipelines : Prop :=
  (
  (∀ (s : State) (p : PipeId) (v : View), s.pipeOpen p = true → s.pick p = some v → v.thr.dataErr = [] → v.thr.slot = 0 → ∀ w, s.codeWord v v.thr.hdr = some w →
    headerLegal w → ∃ t v', exec (.clauseSelect p) s = .next t ∧ t.view v.iss = some v' ∧ v'.thr.st = .owning ∧ v'.thr.slot = 1 ∧
      v'.thr.hdr = v.thr.hdr ∧ v'.thr.count = (w.extractLsb' 28 4).toNat ∧ v'.thr.allow = w.extractLsb' 24 4 ∧ v'.thr.yieldBit = w.getLsbD 15 ∧
      (v.fused = false → (t.pipe p).rrptr = BitVec.ofNat 3 (v.slotOn p)) ∧ t.mem = s.mem ∧ t.icache = s.icache ∧
      ∀ k ∈ v.act, ∀ l, v'.w.lanes[k]? = some l → l.l0 = none ∧ l.l1 = none ∧ l.l2 = none) ∧
  (∀ (s : State) (p : PipeId) (v : View) (k : Nat), (∀ y ∈ s.candidates p, y.fused = false) → k < 8 → v ∈ s.candidates p →
    v.slotOn p = ((s.pipe p).rrptr.toNat + 1 + k) % 8 → v.thr.yielding = false → (∀ y ∈ s.candidates p, y.slotOn p = v.slotOn p → y = v) →
    (∀ y ∈ s.candidates p, ∀ j < k, y.slotOn p = ((s.pipe p).rrptr.toNat + 1 + j) % 8 → y.thr.yielding = true) → s.pick p = some v) ∧
  (∀ (s : State) (p : PipeId) (v : View), v ∈ s.candidates p → v.fused = true →
    (∀ y ∈ s.candidates p, y.fused = true → y = v ∨ v.w.age < y.w.age) → s.pick p = some v) ∧
  ∀ (s : State) (u : Nat), exec (.groupReserve u) s = .next { s with
    waves := s.waves.map fun x => if x.uid == u then (if 8 ≤ x.passed then { x with resv := true } else x) else x }) ∧
  (
  (∀ (s : State) (i : Issuer) (v : View) (a : BitVec 54) (c : Ctx), s.view i = some v → s.running.contains v.w.die = true →
    v.thr.ending = false → v.thr.st = .ready ∨ v.thr.st = .owning → s.codeMissing v = some a → s.ctx? v.w.ctx = some c →
    2 ^ 54 - 2 ^ 48 ≤ a.toNat → exec (.headerFetchComplete i) s = .next (s.trap v
      { lanes := v.act, cause := .prot, addr := v.thr.hdr.setWidth 64, trapaddr := v.thr.hdr.extractLsb' 0 32, hdr := v.thr.orgHdr,
        slot := v.thr.orgSlot, kind := 3 })) ∧
  ∀ (s u : State) (i : Issuer) (v : View) (a : BitVec 54) (c : Ctx) (l : Nat) (p : DWord), s.view i = some v → s.running.contains v.w.die = true →
    v.thr.ending = false → v.thr.st = .ready ∨ v.thr.st = .owning → s.codeMissing v = some a → s.ctx? v.w.ctx = some c →
    a.toNat < 2 ^ 54 - 2 ^ 48 → s.translate v.w.die v.w.ctx a.toNat = (u, .leaf l p) →
    let attr := p.extractLsb' 0 17
    let pa := replicaAddr v.w.die attr (leafAddr l p a.toNat)
    (permits c .fetch attr = false → exec (.headerFetchComplete i) s = .next (u.trap v
      { lanes := v.act, cause := .prot, addr := v.thr.hdr.setWidth 64, trapaddr := v.thr.hdr.extractLsb' 0 32, hdr := v.thr.orgHdr, slot := v.thr.orgSlot, kind := 3 })) ∧
    (permits c .fetch attr = true → u.isFenced pa = false → u.frozenIn (pa / 64 * 64) 64 = false → attrComp attr = false →
      (u.icache.filter fun x => x.pipe = v.fetchPipe).length < 512 → (∀ k < 64, pa / 64 * 64 + k ∉ u.bad) → exec (.headerFetchComplete i) s = .next { u with icache := u.icache ++
        [⟨v.fetchPipe, v.w.ctx, BitVec.ofNat 48 (a.toNat / 64), (List.range 16).map fun k => wordAt (memGets u.mem (pa / 64 * 64) 64) k⟩] })) ∧
  (
  (∀ (s : State) (i : Issuer) (v : View) (x n c : Nat) (d : Option Nat) (hd : Bool) (l : Lane), s.view i = some v → v.lane = none → v.thr.st = .parked → v.thr.wait = .regx x d hd c →
    v.w.lanes[0]? = some l → n = l.regxwait.toNat → n ≠ 0 →
    (n ≤ c → exec (.regxstall i) s = .next ((s.unblock i).trap v
      { lanes := v.act, cause := .regxstall, addr := 0#64, trapaddr := v.thr.parkWord, hdr := v.thr.hdr, slot := v.thr.slot }).grantRegx) ∧
    (c < n → exec (.regxstall i) s = .next s)) ∧
  ∀ (s : State) (u : GateUnit),
    (s.unitGate u = .off → s.unitIdle u = true → s.unitWakes u = true → exec (.powerGateEntry u) s = .next (s.gateSet u .off false)) ∧
    (s.unitGate u = .off → s.unitIdle u = true → s.unitWakes u = false → exec (.powerGateEntry u) s = .next (match u with
      | .pipe _ => s.gateSet u .entering false
      | .cluster d c => (s.flushSlices ((List.range 32).map fun p => ⟨d, false, c, p⟩)).gateSet u .entering false)) ∧
    (s.unitGate u = .entering → s.unitWakes u = true → exec (.powerGateCommitCheck u) s = .next (s.gateSet u .aborting true)) ∧
    (s.unitGate u = .entering → s.unitWakes u = false → exec (.powerGateCommitCheck u) s = .next (match u with
      | .pipe p => { s with icache := s.icache.filter fun l => l.pipe ≠ p }.gateSet u .gated false
      | .cluster _ _ => s.gateSet u .gated false)) ∧
    (s.unitGate u = .gated → s.unitWakes u = true → exec (.powerGateWake u) s = .next (s.gateSet u .waking true)) ∧
    (s.unitGate u = .waking ∨ s.unitGate u = .aborting → exec (.powerGateReady u) s = .next (s.gateSet u .off false)))

/-- 11_schedulers R22, R362, R364, R365: LAUNCH_FORWARD moves the hub keyring's next launch record to the die keyring of its bearing;
SCHEDULER_DISPATCH turns the record selected into an entry of all its teams; an entry that 256 placements have passed becomes reserving.

R365 to R367: PLACEMENT_ROUND places the first entry in order whose next team fits, on the lowest cluster that it fits: the estimate is
charged, the waves stand READY at ENTRY on the sets chosen, with ARG in g1 : g0, and the ready queue goes on to the next team. -/
def Obligations.LaunchDispatchAndPlacement : Prop :=
  (
  (∀ (s : State) (r : Rec) (sp : Bool),
    (s.ring .hub).select (fun x => x.cls == 0#4 && x.accepted && (s.ctx? x.ctx).any fun c => c.st = .live) = some r → s.hubUp = true →
    let n := (s.bearingDie none r.ctx (r.target.extractLsb' 0 4).toNat (dw r.payload 11 ++ dw r.payload 10 : DWord).toNat)
    n.1.room (.die n.2) r.ctx = some sp → s.running.contains n.2 = true → ∃ t, exec (.launchForward .hub) s = .next t ∧
      (t.ring (.die n.2)).recs = (n.1.ring (.die n.2)).recs ++ [{ r with
        prio := BitVec.ofNat 2 (min 3 (r.prio.toNat + r.age / 65536)), age := 0, pos := (n.1.ring (.die n.2)).next, stamp := n.1.uid, spilled := !n.1.roomFree (.die n.2) }] ∧
      (∀ x ∈ (t.ring .hub).recs, x.uid ≠ r.uid) ∧ t.waves = s.waves ∧ t.mem = s.mem) ∧
  (∀ (s : State) (die : Nat) (r : Rec), s.running.contains die = true → (s.sched die).ready.length < 256 →
    (s.ring (.die die)).select (fun x => (x.cls == 0#4 || x.cls == 1#4) && x.accepted && (s.ctx? x.ctx).any fun c => c.st = .live) = some r →
    ∃ t e, exec (.schedulerDispatch die) s = .next t ∧ (t.sched die).ready = (s.sched die).ready ++ [e] ∧
      (t.ring (.die die)) = (s.dispatch (.die die) r.uid .scheduler).ring (.die die) ∧
      e.record = r.uid ∧ e.lo = 0 ∧ e.ctx = r.ctx ∧ e.stream = r.stream ∧ e.prio = BitVec.ofNat 2 (min 3 (r.prio.toNat + r.age / 65536)) ∧ e.attempt = r.attempt ∧ e.passed = 0 ∧ e.reserving = false ∧
      (r.cls = 0#4 → e.hi = (dw r.payload 4).toNat * (dw r.payload 5).toNat * (dw r.payload 6).toNat ∧
        e.entry.toNat = (dw r.payload 0).toNat + 2 ^ 32 * fld (dw r.payload 1) 0 22 ∧ e.arg = (dw r.payload 11 ++ dw r.payload 10 : DWord)) ∧
      (r.cls = 1#4 → e.hi = 1)) ∧
  ∀ (s : State) (die k : Nat), ∃ t, exec (.entryReserve die k) s = .next t ∧
    (t.sched die).ready = (s.sched die).ready.map (fun e => if e.k = k ∧ 256 ≤ e.passed then { e with reserving := true } else e) ∧
    { t with scheds := s.scheds } = s) ∧
  (
  (∀ (s : State) (die : Nat) (a b : List Entry) (e : Entry) (c : Nat) (x : Spot), s.running.contains die = true →
    (∀ y ∈ (s.sched die).ready, y.passed < 256 ∨ y.reserving = true) → orderEntries (s.sched die).ready = a ++ e :: b →
    (∀ y ∈ a, s.fitDie y die = none ∧ y.reserving = false) → s.fitDie e die = some (c, x) → e.saved = none → e.spawn = none →
    ∃ t tm ws, exec (.placementRound die) s = .next t ∧ tm ∈ t.teams ∧ tm.uid = s.uid ∧ t.waves = s.waves ++ ws ∧
      (t.die die).charged = (s.die die).charged + e.foot.energy ∧
      (t.sched die).ready = entriesAfter (a ++ e :: b) e (s.sched die).ready ∧
      tm.ctx = e.ctx ∧ tm.die = die ∧ tm.clu = c ∧ tm.grid = some e.grid ∧ tm.scrBase = x.scr ∧ tm.stBase = x.st ∧ tm.scratchSize = e.foot.scr ∧
      tm.scratch = [] ∧ tm.acc = [] ∧ tm.tiles = e.foot.tiles ∧ ws.length = x.bases.length ∧
      ∀ (i : Nat) (w : Wave), ws[i]? = some w → w.team = tm.uid ∧ w.ctx = e.ctx ∧ w.die = die ∧ w.clu = c ∧ x.bases[i]? = some w.base ∧
        w.bregs = e.foot.bregs ∧ w.xregs = 0 ∧ w.lanes.length = e.foot.width ∧ w.thr.st = .ready ∧ w.thr.hdr = e.entry ∧ w.thr.slot = 0 ∧
        w.teamIndex = BitVec.ofNat 32 e.lo ∧ w.gridx = BitVec.ofNat 32 (e.lo % e.gx) ∧ w.gridy = BitVec.ofNat 32 (e.lo / e.gx % e.gy) ∧
        w.gridz = BitVec.ofNat 32 (e.lo / (e.gx * e.gy)) ∧ w.attempt = e.attempt ∧ w.depth = e.depth ∧
        ∀ l ∈ w.lanes, l.waveid = BitVec.ofNat 5 i ∧ l.reg 0 = ⟨e.arg.extractLsb' 0 32, .addr⟩ ∧ l.reg 1 = ⟨e.arg.extractLsb' 32 32, .addr⟩ ∧
          ∀ r, 2 ≤ r → l.reg r = ⟨0#32, .none⟩) ∧
  (∀ (s : State) (e : Entry) (die c : Nat) (x : Spot), s.fitDie e die = some (c, x) ↔ s.placeable e = true ∧ c < 64 ∧ s.fit e die c = some x ∧
    ∀ k < c, s.fit e die k = none) ∧
  ∀ (s : State) (e : Entry) (die c : Nat) (x : Spot), s.fit e die c = some x →
    let ts := s.clusterTeams die c
    s.energyFits die e.foot.energy = true ∧ (ts.map (·.tiles)).sum + e.foot.tiles ≤ 16 ∧
    (e.foot.scr ≠ 0 → x.scr % 4096 = 0 ∧ (∀ t ∈ ts, x.scr + e.foot.scr ≤ t.scrBase ∨ t.scrBase + t.scratchSize ≤ x.scr) ∧
      ∀ r ∈ s.resvs, r.die = die → r.clu = c → x.scr + e.foot.scr ≤ r.base ∨ r.base + r.size ≤ x.scr) ∧
    (e.foot.stKiB ≠ 0 → x.st % 4096 = 0 ∧ ∀ t ∈ ts, x.st + 1024 * e.foot.stKiB ≤ t.stBase ∨ t.stBase + 1024 * t.stKiB ≤ x.st) ∧
    x.bases.length = (s.entryWaves e).length)

/-- 04_pipeline R138, 11_schedulers R376, R377: RETIRE_FINISH ends the wave: its records complete and a team with no other wave is done;
COMPLETION_PASS, of a die whose counter is 0 or has been since its last pass, takes its completed teams off the package counter; at 0 the grid is gone, its record complete, and its parent's
counter one less. -/
def Obligations.Completion : Prop :=
  (∀ (s : State) (v : View), s.view v.iss = some v → v.thr.wait = .retire → v.thr.drained = true → s.queueEmpty v.w = true →
    v.iss.lane = none ∨ v.w.width ≤ 1 → ∃ t, exec (.retireFinish v.iss) s = .next t ∧ t.wave? v.w.uid = none ∧
      (∀ e ∈ t.keyrings, ∀ r ∈ e.2.recs, r.dispatched = true → r.taker ≠ .handler v.w.uid ∧ ∀ l ∈ v.w.lanes, r.taker ≠ .lane l.uid) ∧
      ∀ w ∈ t.waves, ∃ y ∈ s.waves, y.uid = w.uid ∧ y.uid ≠ v.w.uid) ∧
  (∀ (s : State) (die : Nat) (g : Grid), s.hubUp = true → s.grids.find? (·.uid == g.uid) = some g →
    let idle := s.dieCount die g.uid = 0
    let due := assocGet g.due die 0
    let n := due + if s.dieCount die g.uid = 0 then assocGet g.done die 0 else 0
    let pass (x : Grid) : Grid :=
      { x with
        counter := x.counter - n
        due := x.due.filter fun e => e.1 != die
        done := if s.dieCount die g.uid = 0 then x.done.filter fun e => e.1 != die else x.done }
    let passes := idle ∨ due ≠ 0
    (¬passes → exec (.completionPass die g.uid) s = .next s) ∧
    (passes → g.counter ≠ n → n ≤ g.counter → exec (.completionPass die g.uid) s =
      .next { s with grids := s.grids.map fun x => if x.uid == g.uid then pass x else x }) ∧
    (passes → g.counter = n → g.caddr = 0#54 → g.parent = none → exec (.completionPass die g.uid) s =
      .next ({ s with grids := s.grids.filter fun x => x.uid != g.uid }.completeRec fun r => r.uid == g.record)) ∧
    (∀ p y, passes → g.counter = n → g.caddr = 0#54 → g.parent = some p → p ≠ g.uid → s.grids.find? (·.uid == p) = some y → 1 < y.counter →
      ∃ t, exec (.completionPass die g.uid) s = .next t ∧ t.grids = (s.grids.filter fun x => x.uid != g.uid).map fun x =>
        if x.uid == p then { x with counter := x.counter - 1 } else x)) ∧
  (∀ (s : State) (d k : Nat), s.dieCount d k = ((s.teams.filter fun t => !t.gone) ++ s.saved.map (·.team)).countP fun t =>
    t.die == d && t.grid == some k) ∧
  (∀ (s : State) (g : Grid) (f : Word → Word), g.caddr ≠ 0#54 → g.cdrop = true →
    s.caddrUpdate g f = ((s.modGrid g.uid fun x => { x with cdrop := false, cstall := false }).logDrop, true)) ∧
  (∀ (s : State) (p : Rec → Bool), ∀ e ∈ (s.completeRec p).keyrings, ∀ r ∈ e.2.recs, r.dispatched = true → p r = false) ∧
  ∀ (s : State) (g : Grid) (f : Word → Word) (u : State) (l : Nat) (p : DWord) (c : Ctx), g.caddr ≠ 0#54 → g.cdrop = false → s.ctx? g.ctx = some c →
    s.translate 8 g.ctx g.caddr.toNat = (u, .leaf l p) →
    let attr := p.extractLsb' 0 17
    let pa := leafAddr l p g.caddr.toNat
    let clear (t : State) : State := t.modGrid g.uid fun x => { x with cstall := false }
    let may := permits c (if g.cmode then .write else .atomic) attr
    (may = false → s.caddrUpdate g f = ((clear u).logDrop, true)) ∧
    (may = true → attrComp attr = false → u.isFenced pa = false → u.frozenIn pa 4 = false →
      s.caddrUpdate g f = ((clear u).pageWrite none attr pa (leBytes 4 (f (BitVec.ofNat 32 (leNat (memGets u.mem (replicaAddr 0 attr pa) 4)))).toNat), true))

/-- R368 to R370: an idle die asks its neighbours in turn; a victim whose last stealable entry has no stream gives up the upper half of its
unplaced teams; a refused thief waits for its timer.

R375, R376: a latched carrier whose own push is accepted is dispatched and its SPAWN record goes, under the carrier's identity, to the keyring of its bearing. The choice among entries with a stream is left out here (log 69). -/
def Obligations.StealingAndCarriers : Prop :=
  (
  (∀ (s : State) (die : Nat), s.running.contains die = true → (s.sched die).ready = [] →
    (s.ring (.die die)).select (fun x => (x.cls == 0#4 || x.cls == 1#4) && x.accepted && (s.ctx? x.ctx).any fun c => c.st = .live) = none →
    (s.sched die).asking = none → (s.sched die).waiting = false → ∃ t, exec (.stealRequest die) s = .next t ∧ { t with scheds := s.scheds } = s ∧
      t.sched die = { s.sched die with asking := some (if (s.sched die).up then (die + 1) % 8 else (die + 7) % 8), up := !(s.sched die).up }) ∧
  (∀ (s : State) (die : Nat), ∃ t, exec (.stealRetryTimer die) s = .next t ∧ t.sched die = { s.sched die with waiting := false } ∧
    { t with scheds := s.scheds } = s) ∧
  ∀ (s : State) (die v : Nat), v ≠ die → (s.sched die).asking = some v →
    (s.running.contains v = false → ∃ t, exec (.stealAnswer die) s = .next t ∧ t.sched die = { s.sched die with asking := none, waiting := true } ∧
      { t with scheds := s.scheds } = s) ∧
    (∀ a e, s.running.contains v = true →
      (orderEntries (s.sched v).ready).filter (fun y => (y.bearing == 8 || y.bearing == 9) && !y.reserving && y.saved.isNone) = a ++ [e] → e.stream = 0#15 →
      e.lo < e.hi → (∀ y ∈ (s.sched v).ready, y.lo < y.hi) → ∃ t, exec (.stealAnswer die) s = .next t ∧ (t.sched die).asking = none ∧
        let n := if e.hi - e.lo = 1 then 1 else (e.hi - e.lo) / 2
        (t.sched die).ready = (s.sched die).ready ++ [{ e with k := s.uid, lo := e.hi - n, passed := 0 }] ∧
        (t.sched v).ready = ((s.sched v).ready.map fun y => if y.k = e.k then { y with hi := y.hi - n } else y).filter fun y => y.lo < y.hi)) ∧
  (
  ∀ (s : State) (die clu : Nat) (r : Rec), s.running.contains die = true →
    (s.ring (.cluster die clu)).select (fun x => x.cls == 3#4 && x.car && x.latched && x.target.getLsbD 23 && x.accepted &&
      (s.ctx? x.ctx).any (fun c => c.st = .live) && !s.flights.any fun f => f.arrived == some x.uid && f.push.car) = some r →
    ∃ t f, exec (.spawnCarrierFire die clu) s = .next t ∧ t.flights = s.flights ++ [f] ∧ f.carrier = some (.cluster die clu, r.uid) ∧
      f.returns = .acceptance ∧ f.push.cls = 1#4 ∧ f.push.ctx = r.ctx ∧ f.push.words = 0#32 :: r.payload.drop 1 ∧ f.push.parent = r.parent ∧
      f.push.ident = r.spawn.bind (·.ident) ∧ f.push.counts = false ∧ (fld (dw r.payload 1) 0 4 = 9 → f.kr = .cluster die clu) ∧
      (fld (dw r.payload 1) 0 4 < 8 → f.kr = .die (if s.running.contains (fld (dw r.payload 1) 0 4) then fld (dw r.payload 1) 0 4
        else fld (dw r.payload 1) 0 4 ^^^ 1)))

/-- R379 to R381, R383: SWAP_OUT takes the candidate that goes first, saves its waves and frees what it holds; GRID_SWAP_OUT ends once no
team of the grid is placed; READMISSION returns a team whose wait is over to the front of its die's ready queue; and a waiter on the
completion word of a grid that lost a team goes on with BROKEN in d. -/
def Obligations.SwapOutAndReadmission : Prop :=
  (∀ (s : State) (t : Team), s.team? t.uid = some t → t ∈ s.teams → s.running.contains t.die = true → s.swapEligible t = true → s.makesRoom t = true →
    (∀ x ∈ s.teams, x.die = t.die → s.swapEligible x = true → s.makesRoom x = true →
      s.teamPrio t < s.teamPrio x ∨ (s.teamPrio t = s.teamPrio x ∧ x.placedAt ≤ t.placedAt)) →
    ∃ u v, exec (.swapOut t.uid) s = .next u ∧ u.saved = s.saved ++ [v] ∧ v.team.uid = t.uid ∧ v.team.scratch = t.scratch ∧ v.team.rsv = 0 ∧
      v.waves = (s.teamWaves t.uid).map Wave.pack ∧ v.ofCtx = false ∧ (∀ x ∈ u.teams, x.uid ≠ t.uid) ∧ (∀ w ∈ u.waves, w.team ≠ t.uid)) ∧
  (∀ (s : State) (t : Team), s.swapEligible t = true → (∀ w ∈ s.teamWaves t.uid, (∀ l ∈ w.lanes, l.own = none) → w.thr.st = .parked ∧
    ((∃ a, w.thr.wait = .counter a) ∨ ∃ i x d hd, w.thr.wait = .notify i x d hd)) ∧ t.launchq = []) ∧
  (∀ (s : State) (g : Grid), s.grids.find? (·.uid == g.uid) = some g → g.swapping = true → (∀ t ∈ s.teams, t.grid = some g.uid → t.gone = true) →
    exec (.gridSwapOut g.uid) s = .next { s with grids := s.grids.map fun x => if x.uid == g.uid
      then { x with swapping := false, swapped := s.saved.any fun y => y.team.grid == some g.uid } else x }) ∧
  (∀ (s : State) (v : Saved) (e : Entry) (c : Ctx) (g : Grid), s.saved.find? (fun y => y.team.uid == v.team.uid) = some v → v.ofCtx = false →
    s.ctx? v.team.ctx = some c → c.st = .live → v.team.ent = some e → s.savedReady v = true →
    v.team.grid = some g.uid → s.grids.find? (·.uid == g.uid) = some g → g.swapping = false → g.swapped = false →
    (∀ k ∈ s.scheds, ∀ x ∈ k.2.ready, x.saved ≠ some v.team.uid) → s.running.contains v.team.die = true →
    ∃ t x, exec (.readmission v.team.uid) s = .next t ∧ (t.sched v.team.die).ready = x :: (s.sched v.team.die).ready ∧
      x.saved = some v.team.uid ∧ x.prio = v.prio ∧ x.foot.energy = v.team.energy ∧ x.foot.scr = v.team.scratchSize ∧ x.ctx = e.ctx) ∧
  ∀ (s : State) (i : Issuer) (v : View) (va : BitVec 54) (g : Grid) (f : RFmt), s.view i = some v → v.thr.st = .parked →
    v.thr.wait = .counter va ∨ v.thr.wait = .drained va → v.thr.parkWord = encodeR 0x124 f → g ∈ s.grids → g.lost = true → g.ctx = v.w.ctx →
    g.caddr = va → va ≠ 0#54 → exec (.cwaitBroken i) s =
      .next (((s.writeLanes v.w.uid v.act f.d.toNat f.nw f.hd ⟨5#32, .i32⟩).clearReplay i).resumeAfter i)

/-- 02_encoding R51: the values of a 7-bit source field.

R52: an inline integer in the consuming format: two's complement in every integer element, the exact value in every floating-point
element but the six that E5M2 rounds, and FMT for the formats that take none. -/
def Obligations.SourceValues : Prop :=
  (
  (∀ (v : BitVec 7) (lit : Option Word),
    (v.toNat < 64 → ∃ r, decodeSrc v lit = .reg r ∧ r.toNat = v.toNat) ∧
    (64 ≤ v.toNat → v.toNat ≤ 66 → ∃ k, decodeSrc v lit = .latch k ∧ k.toNat = v.toNat - 64) ∧
    (72 ≤ v.toNat → v.toNat ≤ 79 → ∃ q, decodeSrc v lit = .port q ∧ q.toNat = v.toNat - 72) ∧
    (67 ≤ v.toNat ∧ v.toNat ≤ 71 ∨ 80 ≤ v.toNat ∧ v.toNat ≤ 94 → srcReserved (decodeSrc v lit) = true) ∧
    (v.toNat = 95 → decodeSrc v lit = .lit lit) ∧
    (96 ≤ v.toNat → ∃ n, decodeSrc v lit = .inl n ∧ n.toInt = v.toNat - 112)) ∧
  (∀ (s : State) (v : View) (sl : Slot), (∃ x ∈ sl.srcs, srcReserved x = true) → mapped (s.mapOf v.w) sl.op = true → gatewayOps.contains sl.op = false →
    classAllowed (classOf sl.op) v.thr.allow = true → classOf sl.op ≠ .g → endsClause.contains sl.op = false → sl.litOk = true →
    checkWord s v sl = some .illfld) ∧
  ∀ (x : Lane) (t : Tag) (p : Word),
    (∀ r, x.src t p (.reg r) = .ok (x.reg r.toNat)) ∧ (∀ q, x.src t p (.port q) = .ok ⟨p, .i32⟩) ∧
    (∀ w, x.src t p (.lit (some w)) = .ok ⟨w, t⟩) ∧ ∀ k y, x.latch k = some y → x.src t p (.latch k) = .ok y) ∧
  (
  ∀ v : BitVec 5,
    (∀ t ∈ [Tag.i32, .i8x4, .i16x2], ∃ w, inlineBits t v = some w ∧ ∀ k < t.elems, toSigned t.width (elem t w k) = v.toInt) ∧
    (∀ t ∈ [Tag.f32, .bf16x2, .f16x2, .e4m3x4], ∃ w, inlineBits t v = some w ∧ ∀ k < t.elems,
      (t.fmt.decode false (elem t w k)).eqv (.fin (decide (v.toInt < 0)) v.toInt.natAbs 0) = true) ∧
    (∃ w, inlineBits .e5m2x4 v = some w ∧ ∀ k < 4, (e5m2.decode false (elem .e5m2x4 w k)).eqv (.fin (decide (v.toInt < 0))
      (match v.toInt.natAbs with | 9 => 8 | 11 => 12 | 13 => 12 | 15 => 16 | n => n) 0) = true) ∧
    ∀ t ∈ [Tag.bfp8x4, .bfp4x8, .bfp2x16, .scale, .addr], inlineBits t v = none)

/-- R65 to R67, 14_hub R436: words written out from the encodings decode to the instructions they stand for, and opcode 0 to none. The words are written out from the encoding tables by hand. -/
def Obligations.DecodeWords : Prop :=
  decodeWord 0x0F003805#32 [] = some (.cww ⟨0#6, false, false, .inl 0#5, .reg 5#6⟩) ∧
  decodeWord 0x13800000#32 [] = some (.nop ⟨0#6, false, false, .reg 0#6, .reg 0#6⟩) ∧
  decodeWord 0x10800006#32 [] = some (.call ⟨0#6, 0#4, 6#12⟩) ∧
  decodeWord 0x38158308#32 [] = some (.kpush ⟨21#6, 8#4, 12#6, 8#6⟩) ∧
  decodeWord 0x54043C00#32 [] = some (.enrd ⟨4#6, false, false, .inl 8#5, .reg 0#6⟩) ∧
  decodeWord 0x0707095F#32 [0x8C#32] = some (.bfx ⟨7#6, false, false, .reg 18#6, .lit (some 0x8C#32)⟩) ∧
  decodeHub 0x00C5850B#32 = some (.nset ⟨10#5, 11#5, 12#5⟩) ∧ decodeHub 0x00C5B50B#32 = some (.svcdone ⟨10#5, 11#5, 12#5⟩) ∧
  ∀ w lits, w.extractLsb' 22 10 = 0#10 → decodeWord w lits = none

/-- R48 to R58, 14_hub R436: encoding a well-formed instruction and decoding its words gives it back, and a word that decodes is the word
of what it decodes to, every bit of it. -/
def Obligations.DecodeAndEncodeAgree : Prop :=
  (∀ i : Instr, i.wf = true → (match formOf i with | .h _ _ => decodeHub (headWord i) | _ => decodeWord (headWord i) (literalsOf i)) = some i) ∧
  (∀ (w : Word) (lits : List Word) (i : Instr), decodeWord w lits = some i → headWord i = w) ∧
  ∀ (w : Word) (i : Instr), decodeHub w = some i → headWord i = w ∧ i.wf = true

/-- R62: a slot that fails one of steps 2 to 5 traps its cause in every active lane; the order of those steps; an empty latch or unbound
port traps ILLFLD in the lanes that have it. Stated of the register instructions of `plainTable`. -/
def Obligations.CheckOrder : Prop :=
  (∀ e ∈ plainTable, ∀ (f : RFmt) (s : State) (v : View),
    (∀ c, Checked s v (slotR e.1 f) c → exec (e.2 f) s = .next (s.trapAll v (slotR e.1 f) ⟨c, none, false⟩)) ∧
    (s.cur.bind s.view = some v → v.thr.st = .owning → checkWord s v (slotR e.1 f) = none →
      let bad := v.act.filter fun k => (slotR e.1 f).srcs.any fun x => (v.w.lanes[k]?).any fun l => laneSrcBad l x
      bad ≠ [] → exec (e.2 f) s = .next (s.trapLanes v (slotR e.1 f) (bad.map fun k => (k, ⟨.illfld, none, false⟩))))) ∧
  ∀ (s : State) (v : View) (sl : Slot),
    let known := mapped (s.mapOf v.w) sl.op = true ∧ (gatewayOps.contains sl.op = true → v.w.gw = true)
    let classed := known ∧ classAllowed (classOf sl.op) v.thr.allow = true ∧ (classOf sl.op = .g → v.width ≠ 1) ∧
      (endsClause.contains sl.op = true → v.thr.slot + sl.nlits = v.thr.count) ∧ sl.litOk = true
    let fielded := classed ∧ sl.word.toNat &&& unusedBits sl.op = 0 ∧ (∀ x ∈ sl.srcs, srcReserved x = false) ∧ (∀ k, sl.tk = some k → k.toNat ≤ 8) ∧
      (∀ r ∈ sl.regs, regLegal v.w r = true) ∧ sl.bad = false
    (mapped (s.mapOf v.w) sl.op = false → checkWord s v sl = some .illop) ∧
    (mapped (s.mapOf v.w) sl.op = true → gatewayOps.contains sl.op = true → v.w.gw = false → checkWord s v sl = some .gwonly) ∧
    (known → ¬classed → checkWord s v sl = some .illcls) ∧
    (classed → ¬fielded → checkWord s v sl = some .illfld) ∧
    (fielded → checkWord s v sl = none) ∧
    ∀ body : State → View → State, s.cur.bind s.view = some v → v.thr.st = .owning → v.act ≠ [] → fielded →
      (∀ i is, v.srcBad sl = i :: is → issue sl body s = .next (s.trapLanes v sl ((i :: is).map fun k => (k, ⟨.illfld, none, false⟩)))) ∧
      (v.srcBad sl = [] → sl.priv = true → v.w.ctx ≠ 0#12 → issue sl body s = .next (s.trapAll v sl ⟨.priv, none, false⟩))

/-- The frame of a register instruction without a port source, trapping or not: nothing but its own wave changes, a double fault's FAULT
record apart. The one state outside the wave that a trap can change is the FAULT record of a double fault. -/
def Obligations.RegisterFrame : Prop :=
  ∀ e ∈ plainTable, ∀ (f : RFmt) (s t : State) (v : View), s.cur.bind s.view = some v → (slotR e.1 f).ports = [] → exec (e.2 f) s = .next t →
    { t with waves := s.waves, flights := s.flights, uid := s.uid } = s ∧ (∀ u ≠ v.w.uid, t.wave? u = s.wave? u) ∧
      (t.flights = s.flights ∨ ∃ x, t.flights = s.flights ++ [x] ∧ x.kr = .hub ∧ x.push.cls = 9#4) ∧
      t.waves.map (fun w => (w.uid, w.team, w.ctx, w.base, w.bregs, w.xregs)) = s.waves.map fun w => (w.uid, w.team, w.ctx, w.base, w.bregs, w.xregs)

/-- A step performs the turn at the head of the agenda: an owning party's decoded instruction, or the trap of a word that is none, then the end
of its turn; a hart's hub word or CSR read; an event; a host's access to BAR0. The agenda, which says whose turn it is, is the model's (log 1), not
the spec's. Around the turn a step adds what follows from it, which is nothing where nothing waits: a parked party whose condition an event made
hold goes on (04_pipeline R100, R104; the order among several is the model's, log 13), and so do host requests that stalled. -/
def Obligations.StepRunsDecoded : Prop :=
  (∀ (s : State) (i : Issuer) (rest : List Turn) (v : View) (w : Word) (lits : List Word) (x : Instr), s.agenda = .slot i :: rest →
    let u := { s with agenda := rest }
    u.view i = some v → v.thr.st = .owning → v.thr.ending = false → v.thr.dataErr = [] → (∀ p ∈ v.pipes, (s.pipe p).switching = false) →
    u.codeWord v (v.thr.hdr + BitVec.ofNat 54 (4 * v.thr.slot)) = some w →
    allSome ((v.thr.litSlots w).map fun k => u.codeWord v (v.thr.hdr + BitVec.ofNat 54 (4 * k))) = some lits →
    (decodeWord w lits = none → step s = .next (s.after (u.endTurn (u.trap v
      { lanes := v.act, cause := .illop, addr := 0#64, trapaddr := w, hdr := v.thr.hdr, slot := v.thr.slot }) i))) ∧
    (decodeWord w lits = some x →
    (∀ t, exec x { u with cur := some i } = .next t → step s = .next (s.after (u.endTurn t i))) ∧
    (∀ r, exec x { u with cur := some i } = .fault r → step s = .fault r) ∧ ∀ r, exec x { u with cur := some i } = .refused r → step s = .refused r)) ∧
  (∀ (u t : State) (i : Issuer), (u.endTurn t i).cur = none ∧ { u.endTurn t i with cur := t.cur, waves := t.waves } = t) ∧
  (∀ s t : State, { s.latchWakes t with pipes := t.pipes, clusters := t.clusters, saved := t.saved } = t ∧
    (t.lost = [] → t.held = [] → (∀ e ∈ t.keyrings, ∀ r ∈ e.2.recs, r.spilled = false) →
      (∀ w ∈ t.waves, ∀ i ∈ w.issuers, ∀ v, t.view i = some v → v.thr.st = .parked → t.waitHolds v = false) → s.after t = s.latchWakes t)) ∧
  (∀ (s : State) (i : Issuer) (v : View), s.view i = some v → v.thr.st = .parked →
    (s.waitHolds v = false → s.settleParty i = s) ∧
    (s.waitHolds v = true → s.running.contains v.w.die = true → v.w.thr.st ≠ .suspended → (∃ c, s.ctx? v.w.ctx = some c ∧ c.st = .live) →
      (∀ l, v.thr.wait = .ports l → s.settleParty i = s.resumeAt i) ∧
      (∀ l, v.thr.wait = .wfm l → s.settleParty i = (s.modThr i fun t => { t with owed := some (t.parkWord, l) }).resumeAfter i) ∧
      ∀ x, (∀ l, v.thr.wait ≠ .ports l) → (∀ l, v.thr.wait ≠ .wfm l) → decodeWord v.thr.parkWord v.thr.parkSrc = some x →
        let go := s.modThr i fun t => { t with st := .owning, wait := .nothing }
        ∀ t, exec x { go with cur := some i } = .next t → t.point i ≠ go.point i → ∀ y, t.view i = some y →
          ∃ z, (s.settleParty i).view i = some z ∧ z.thr.st = (if y.thr.st = .owning then .ready else y.thr.st) ∧ z.thr.hdr = y.thr.hdr ∧
            z.thr.slot = y.thr.slot)) ∧
  (∀ (s : State) (rest : List Turn),
    (∀ h csr rd, s.agenda = .csrRead h csr rd :: rest → step s = .next (s.after ({ s with agenda := rest }.csrRead h csr rd))) ∧
    ∀ port off op t, s.agenda = .bar port off op :: rest → { s with agenda := rest }.barAccess port off op = .next t → step s = .next (s.after t)) ∧
  (∀ (s : State) (h : Nat) (rest : List Turn) (x : Instr) (l : List Byte), s.agenda = .hart h :: rest →
    let u := { s with agenda := rest }
    let a := (s.hart h).pc + s.pkgid.toNat * 2 ^ 45
    s.hubUp = true → h < 24 → (s.hart h).exc = none → (s.hart h).held = none → (s.hart h).mode = .m → (s.hart h).pc + 4 ≤ 2 ^ 45 → s.frozenIn a 4 = false →
    l.length = 4 → (∀ k < 4, s.hostByte (a + k) = l[k]?) → decodeHub (BitVec.ofNat 32 (leNat l)) = some x →
    ∀ t, exec x { u with curHart := some h } = .next t → step s = .next (s.after { t with curHart := none })) ∧
  ∀ (s : State) (x : Instr) (rest : List Turn), s.agenda = .event x :: rest →
    (∀ t, exec x { s with agenda := rest } = .next t → step s = .next (s.after t)) ∧
    (∀ r, exec x { s with agenda := rest } = .fault r → step s = .fault r) ∧ ∀ r, exec x { s with agenda := rest } = .refused r → step s = .refused r

/-- What reset leaves, as 04_pipeline R99, 11_schedulers R362, 13_gateways R416, R418, 14_hub R428 and 15_sextant R443, R445, R451, R452 say. -/
def Obligations.ResetState : Prop :=
  let s := State.reset
  s.waves = [] ∧ s.teams = [] ∧ s.flights = [] ∧ s.jobs = [] ∧ s.l1 = [] ∧ s.icache = [] ∧
  (∀ p, (s.pipe p).rrptr = 7#3 ∧ (s.pipe p).wake = false ∧ (s.pipe p).gate = .off ∧ s.poolFree p = 512) ∧ (∀ k, (s.ring k).recs = []) ∧
  (∀ d, (s.sched d).rot = 0#3) ∧ s.hubRot = 0#3 ∧
  (∀ d p, (s.tildor d p).st = 0#2 ∧ (s.tildor d p).gen = 0#2 ∧ (s.tildor d p).half = false ∧ (s.tildor d p).threshold = 2 ^ 20 ∧ (s.tildor d p).replays = 0) ∧
  (∀ h, (s.hart h).hctx = 0#12 ∧ (s.hart h).hrkey = BitVec.allOnes 64 ∧ (s.hart h).hwkey = BitVec.allOnes 64 ∧ (s.hart h).hcfg = 4#3 ∧ (s.hart h).hfstat = 0#4) ∧
  s.sext.owner = none ∧ s.sext.gen = 0#16 ∧ s.sext.budget = 3569600 ∧ s.sext.shares = List.replicate 8 128 ∧ (∀ i < 8, s.sext.measure[i]? = some 0#256) ∧
  s.hubUp = false ∧ s.map2 = false ∧ s.map1 = false ∧ s.sext.own = [] ∧
  (∀ d, (s.die d).energy = 0) ∧ ∃ c, s.ctxs = [c] ∧ c.id = 0#12 ∧ c.st = .live ∧ c.rkey = BitVec.allOnes 64 ∧ c.wkey = BitVec.allOnes 64

/-- Reset memory is in its canonical form. The canonical form, and that an unlisted byte reads 0, are the model's choices (log 2). -/
def Obligations.ResetMemoryCanonical : Prop :=
  State.reset.memOk = true

/-- Every step keeps memory, scratchpads and named regions in their canonical form, so that equal memories are equal data. The canonical form is the model's (log 2). -/
def Obligations.StepKeepsMemoryCanonical : Prop :=
  ∀ s t : State, s.memOk = true → step s = .next t → t.memOk = true

end
end

