-- ==== Sys2Proof/Laws/Issue.lean ====
section
/-! SUPPORT. What the shared operations of an issuing slot can do: `issue`, the pops of port sources, slots that lanes perform and
slots that the wave performs once. -/

namespace Sys2Proof.Machine

/-- No lane of a slot that issues has an empty latch or an unbound port among the sources it reads. -/
theorem Issues.srcBad {s : State} {v : View} {sl : Slot} (h : Issues s v sl) : v.srcBad sl = [] := by
  have ok : ∀ i ∈ v.act, (sl.lowest = true → i = v.low) → (sl.srcs.any fun x => (v.lane? i).any fun l => laneSrcBad l x) = false := by
    intro i hi hl
    rw [List.any_eq_false]
    intro x hx
    simp only [Option.any_eq_true, not_exists, not_and]
    intro y hy
    rw [h.srcs i hi hl y hy x hx]
    simp
  unfold View.srcBad
  simp only
  split
  · have hm : v.low ∈ v.act := by
      unfold View.low
      cases hv : v.act with
      | nil => exact absurd hv h.lanes
      | cons j l => simp
    exact if_neg (by rw [ok v.low hm fun _ => rfl]; simp)
  · rename_i hl
    rw [List.filter_eq_nil_iff]
    intro i hi
    rw [ok i hi fun e => absurd e hl]
    simp

/-- A slot that issues performs its instruction. -/
theorem Issues.next {s : State} {v : View} {sl : Slot} (h : Issues s v sl) (body : State → View → State) :
    issue sl body s = .next (body s v) := by
  have hp : (sl.priv && v.w.ctx != 0#12) = false := by
    cases e : sl.priv with
    | false => rfl
    | true => simp [h.priv e]
  simp only [issue, h.view, h.owns, h.lanes, h.word, h.srcBad, hp, h.free]
  simp

theorem Issues.wave {s : State} {v : View} {sl : Slot} (h : Issues s v sl) : s.wave? v.w.uid = some v.w := by
  have hv := h.view
  cases hc : s.cur with
  | none => simp [hc] at hv
  | some i =>
    simp only [hc, Option.bind_some] at hv
    have key : ∃ w, s.wave? i.wave = some w ∧ v.w = w := by
      unfold State.view at hv
      split at hv
      · cases hv
      · split at hv
        · cases hv
        · cases hv; exact ⟨_, ‹_›, rfl⟩
      · split at hv
        · cases hv
        · rename_i hw _ _ _ _
          simp only [Option.map_eq_some_iff] at hv
          obtain ⟨t, -, rfl⟩ := hv
          exact ⟨_, hw, rfl⟩
    obtain ⟨w, hw, e⟩ := key
    have hu : w.uid = i.wave := by
      have := List.find?_some hw
      simpa using this
    rw [e, hu, hw]

/-! ## What a pop leaves alone -/

/-- A lane without its ports. -/
def Lane.bare (l : Lane) : Lane := { l with ports := Vector.replicate 8 Port.reset }

/-- A wave without its lanes' ports. -/
def Wave.bare (w : Wave) : Wave := { w with lanes := w.lanes.map Lane.bare }

theorem modLane_bare (s : State) (u i : Nat) (f : Lane → Lane) (hf : ∀ l, (f l).bare = l.bare) :
    (s.modLane u i f).waves.map Wave.bare = s.waves.map Wave.bare := by
  simp only [State.modLane, State.modWave, List.map_map]
  apply List.map_congr_left
  intro w _
  simp only [Function.comp]
  split
  · simp only [Wave.modLane, Wave.bare]
    congr 1
    apply List.ext_getElem?
    intro n
    simp only [List.getElem?_map, List.getElem?_modify]
    cases w.lanes[n]? with
    | none => rfl
    | some x => by_cases h : i = n <;> simp [h, hf]
  · rfl

theorem setPort_bare (l : Lane) (q : Nat) (p : Port) : (l.setPort q p).bare = l.bare := rfl

theorem dieWrite_waves (s : State) (d a : Nat) (l : List Byte) : (s.dieWrite d a l).waves = s.waves := by
  unfold State.dieWrite
  have key : ∀ (ks : List Nat) (s : State), (ks.foldl (fun s k => s.l2Own d k) s).waves = s.waves := by
    intro ks
    induction ks with
    | nil => intro s; rfl
    | cons k ks ih =>
      intro s
      rw [List.foldl_cons, ih]
      rfl
  exact key _ _

theorem writeBack_waves (s : State) (l : L1Line) : (s.writeBack l).waves = s.waves := by
  unfold State.writeBack
  split
  · rfl
  · split
    · rfl
    · have key : ∀ (d : List Host.Cell) (s : State), (d.foldl (fun s c => s.dieWrite l.pipe.die c.1 [c.2]) s).waves = s.waves := by
        intro d
        induction d with
        | nil => intro s; rfl
        | cons c d ih => intro s; rw [List.foldl_cons, ih, dieWrite_waves]
      exact key _ _

theorem cleanSlices_waves (s : State) (ps : List PipeId) : (s.cleanSlices ps).waves = s.waves := by
  simp only [State.cleanSlices]
  generalize s.l1.filter (fun l => ps.contains l.pipe) = d
  induction d generalizing s with
  | nil => rfl
  | cons c d ih => rw [List.foldl_cons, ih, writeBack_waves]

theorem flushSlices_waves (s : State) (ps : List PipeId) : (s.flushSlices ps).waves = s.waves := cleanSlices_waves s ps

theorem dispatch_waves (s : State) (k : KrId) (u : Nat) (t : Taker) : (s.dispatch k u t).waves = s.waves := rfl

theorem l1Acquire_waves (s : State) (ps : List PipeId) : (s.l1Acquire ps).waves = s.waves := by
  unfold State.l1Acquire
  exact (flushSlices_waves _ _)

theorem popRec_waves {s s' : State} {w : Wave} {i : Nat} {p : Port} {img : List Word} (h : s.popRec w i p = some (s', img)) :
    s'.waves = s.waves := by
  unfold State.popRec at h
  split at h
  · cases h
  · cases h; exact (l1Acquire_waves _ _).trans (dispatch_waves _ _ _ _)

/-- A pop changes nothing of any wave but its lanes' ports. -/
theorem popElem_bare (w : Wave) (i q : Nat) : ∀ (fuel : Nat) (s s' : State) (x : Word), State.popElem w i q fuel s = some (s', x) →
    s'.waves.map Wave.bare = s.waves.map Wave.bare := by
  intro fuel
  induction fuel with
  | zero =>
    intro s s' x h
    unfold State.popElem at h
    split at h
    · cases h
    · simp only at h
      split at h
      · cases h
      · cases h; exact modLane_bare _ _ _ _ fun l => setPort_bare l _ _
  | succ n ih =>
    intro s s' x h
    unfold State.popElem at h
    split at h
    · cases h
    · simp only at h
      split at h
      · split at h
        · cases h
        · rename_i hp
          rw [ih _ _ _ h, modLane_bare _ _ _ _ fun l => setPort_bare l _ _, popRec_waves hp]
      · cases h; exact modLane_bare _ _ _ _ fun l => setPort_bare l _ _

theorem popAll_bare (w : Wave) : ∀ (l : List (Nat × Nat)) (s s' : State) (vs : List Word), State.popAll w l s = some (s', vs) →
    s'.waves.map Wave.bare = s.waves.map Wave.bare
  | [], s, s', vs, h => by cases h; rfl
  | (i, q) :: l, s, s', vs, h => by
    unfold State.popAll at h
    split at h
    · cases h
    · rename_i hp
      split at h
      · cases h
      · rename_i hq
        cases h
        rw [popAll_bare w l _ _ _ hq, popElem_bare w i q _ _ _ _ hp]

theorem bare_uid (w : Wave) : w.bare.uid = w.uid := rfl

theorem wave?_bare {s s' : State} (h : s'.waves.map Wave.bare = s.waves.map Wave.bare) (u : Nat) :
    (s'.wave? u).map Wave.bare = (s.wave? u).map Wave.bare := by
  have key (l : List Wave) : (l.find? (·.uid == u)).map Wave.bare = (l.map Wave.bare).find? (·.uid == u) := by
    rw [List.find?_map]; rfl
  simp only [State.wave?, key, h]

theorem lane?_bare {s s' : State} (h : s'.waves.map Wave.bare = s.waves.map Wave.bare) (u i : Nat) :
    (s'.lane? u i).map Lane.bare = (s.lane? u i).map Lane.bare := by
  have hw := wave?_bare h u
  simp only [State.lane?]
  cases h1 : s.wave? u <;> cases h2 : s'.wave? u <;> simp only [h1, h2, Option.map_some, Option.map_none] at hw
  · rfl
  · cases hw
  · cases hw
  · rename_i w w'
    injection hw with hw
    have : w'.bare.lanes[i]? = w.bare.lanes[i]? := by rw [hw]
    simpa [Wave.bare] using this

theorem takes_bare {s s' : State} {v : View} {sl : Slot} {lanes : List Nat} {l : List (Nat × Word × Word)}
    (h : s.takes v sl lanes = some (s', l)) : s'.waves.map Wave.bare = s.waves.map Wave.bare := by
  unfold State.takes at h
  split at h
  · cases h; rfl
  · simp only [Option.map_eq_some_iff] at h
    obtain ⟨e, he, h⟩ := h
    cases h
    exact popAll_bare _ _ _ _ _ he

theorem takes_fst {s s' : State} {v : View} {sl : Slot} {lanes : List Nat} {l : List (Nat × Word × Word)}
    (h : s.takes v sl lanes = some (s', l)) : l.map (·.1) = lanes := by
  unfold State.takes at h
  split at h
  · cases h; simp [Function.comp_def]
  · simp only [Option.map_eq_some_iff] at h
    obtain ⟨e, -, h⟩ := h
    cases h
    apply List.ext_getElem?
    intro n
    simp only [List.getElem?_map, List.getElem?_mapIdx, Option.map_map]
    cases lanes[n]? <;> rfl

/-! ## Slots that lanes perform -/

/-- A slot whose sources can be supplied and whose early checks pass goes on with what it took. -/
theorem withPops_takes {sl : Slot} {s s' : State} {v : View} {lanes : List Nat} {l : List (Nat × Word × Word)}
    {early : List (Nat × Word × Word) → List (Nat × Fail)} (k : State → List (Nat × Word × Word) → State)
    (h : s.takes v sl lanes = some (s', l))
    (he : sl.ports ≠ [] → (early (lanes.map fun i => (i, 0#32, 0#32))).filter (fun e => !e.2.late) = []) :
    withPops sl s v lanes early k = k s' l := by
  unfold State.takes at h
  unfold withPops
  split at h
  · rename_i hp
    cases h
    simp only [hp, if_true]
  · rename_i hp
    simp only [Option.map_eq_some_iff] at h
    obtain ⟨e, h1, h2⟩ := h
    cases h2
    have h3 : State.popAll v.w (sl.takes lanes) s = some e := h1
    simp only [if_neg hp, he hp, h3]

/-- A lane's instruction does what `g` says of every lane that meets `ok` and `val`; `ok` does not depend on the ports, and where it
holds only a check of step 7 of R62 can fail before anything is popped. -/
structure LaneDoes (fn : LaneFn) (ok : Lane → Prop) (val : Word → Word → Lane → Prop) (g : Nat → Word → Word → Lane → Lane) : Prop where
  does : ∀ i pa pb x, ok x → val pa pb x → fn i pa pb x = .ok (g i pa pb x)
  early : ∀ i x e, ok x → fn i 0#32 0#32 x = .error e → e.late = true
  bare : ∀ x y, x.bare = y.bare → ok x → ok y

/-- Without a condition on the elements taken, no check can fail. -/
theorem LaneDoes.plain {fn : LaneFn} {ok : Lane → Prop} {g : Nat → Word → Word → Lane → Lane}
    (does : ∀ i pa pb x, ok x → fn i pa pb x = .ok (g i pa pb x)) (bare : ∀ x y, x.bare = y.bare → ok x → ok y) :
    LaneDoes fn ok (fun _ _ _ => True) g :=
  ⟨fun i pa pb x h _ => does i pa pb x h, fun i x e h he => by (rw [does i _ _ x h] at he; cases he), bare⟩

theorem evalLanes_ok {w : Wave} {l : List (Nat × Word × Word)} {fn : LaneFn} {g : Nat → Word → Word → Lane → Lane}
    (h : ∀ e ∈ l, ∀ x, w.lanes[e.1]? = some x → fn e.1 e.2.1 e.2.2 x = .ok (g e.1 e.2.1 e.2.2 x)) :
    evalLanes w l fn = ([], l.filterMap fun e => (w.lanes[e.1]?).map fun x => (e.1, g e.1 e.2.1 e.2.2 x)) := by
  unfold evalLanes
  congr 1
  · rw [List.filterMap_eq_nil_iff]
    intro e he
    cases hx : w.lanes[e.1]? with
    | none => rfl
    | some x => simp only [h e he x hx]
  · apply List.filterMap_congr
    intro e he
    cases hx : w.lanes[e.1]? with
    | none => rfl
    | some x => simp only [h e he x hx, Option.map_some]

theorem evalLanes_late {w : Wave} {l : List Nat} {fn : LaneFn}
    (h : ∀ k ∈ l, ∀ x, w.lanes[k]? = some x → ∀ e, fn k 0#32 0#32 x = .error e → e.late = true) :
    (evalLanes w (l.map fun i => (i, 0#32, 0#32)) fn).1.filter (fun e => !e.2.late) = [] := by
  rw [List.filter_eq_nil_iff]
  intro e he
  simp only [evalLanes, List.mem_filterMap, List.mem_map] at he
  obtain ⟨a, ⟨k, hk, rfl⟩, h2⟩ := he
  cases hx : w.lanes[k]? with
  | none => simp [hx] at h2
  | some x =>
    simp only [hx] at h2
    cases hf : fn k 0#32 0#32 x with
    | ok y => simp [hf] at h2
    | error f =>
      simp only [hf, Option.some.injEq] at h2
      subst h2
      simp [h k hk x hx f hf]

/-- Lanes that differ in their ports only. -/
theorem takes_lane {s s' : State} {v : View} {sl : Slot} {lanes : List Nat} {l : List (Nat × Word × Word)} {k : Nat} {x : Lane}
    (h : s.takes v sl lanes = some (s', l)) (hx : s'.lane? v.w.uid k = some x) :
    ∃ y, s.lane? v.w.uid k = some y ∧ y.bare = x.bare := by
  have := lane?_bare (takes_bare h) v.w.uid k
  rw [hx] at this
  cases hy : s.lane? v.w.uid k with
  | none => simp [hy] at this
  | some y => simp only [hy, Option.map_some, Option.some.injEq] at this; exact ⟨y, rfl, this.symm⟩

theorem laneOpPost_takes {sl : Slot} {fn : State → LaneFn} {ok : Lane → Prop} {val : Word → Word → Lane → Prop}
    {g : Nat → Word → Word → Lane → Lane} {post : State → List (Nat × Word × Word) → State}
    {s s' : State} {v : View} {l : List (Nat × Word × Word)} (hd : LaneDoes (fn s') ok val g)
    (h0 : ∀ i x e, ok x → fn s i 0#32 0#32 x = .error e → e.late = true) (hw : s.wave? v.w.uid = some v.w)
    (h : s.takes v sl v.act = some (s', l)) (ho : ∀ k ∈ v.act, ∀ x, s.lane? v.w.uid k = some x → ok x)
    (hv : ∀ e ∈ l, ∀ x, s'.lane? v.w.uid e.1 = some x → val e.2.1 e.2.2 x) :
    laneOpPost sl fn post s v = (post (s'.setLanes v.w.uid
      (l.filterMap fun e => (s'.lane? v.w.uid e.1).map fun x => (e.1, g e.1 e.2.1 e.2.2 x))) l).advance v.iss (1 + sl.nlits) := by
  have hb := takes_bare h
  have ho' : ∀ k ∈ v.act, ∀ x, v.w.lanes[k]? = some x → ok x := fun k hk x hx => ho k hk x (by simp [State.lane?, hw, hx])
  have hs' : ∀ k ∈ v.act, ∀ x, s'.lane? v.w.uid k = some x → ok x := by
    intro k hk x hx
    obtain ⟨y, hy, e⟩ := takes_lane h hx
    exact hd.bare y x e (ho k hk y hy)
  unfold laneOpPost
  rw [withPops_takes _ h]
  · have hw' := wave?_bare hb v.w.uid
    rw [hw] at hw'
    cases hx : s'.wave? v.w.uid with
    | none => simp [hx] at hw'
    | some w =>
      have hl : ∀ e ∈ l, ∀ x, w.lanes[e.1]? = some x → fn s' e.1 e.2.1 e.2.2 x = .ok (g e.1 e.2.1 e.2.2 x) := fun e he x hx' =>
        have hx'' : s'.lane? v.w.uid e.1 = some x := by simp [State.lane?, hx, hx']
        hd.does _ _ _ _ (hs' e.1 (by rw [← takes_fst h]; exact List.mem_map_of_mem he) x hx'') (hv e he x hx'')
      simp only [evalLanes_ok hl]
      simp only [State.lane?, hx, Option.bind_some]
  · intro _
    exact evalLanes_late fun k hk x hx e he => h0 k x e (ho' k hk x hx) he

theorem laneOp_takes {sl : Slot} {fn : LaneFn} {ok : Lane → Prop} {val : Word → Word → Lane → Prop} {g : Nat → Word → Word → Lane → Lane}
    {s s' : State} {v : View} {l : List (Nat × Word × Word)} (hd : LaneDoes fn ok val g) (hw : s.wave? v.w.uid = some v.w)
    (h : s.takes v sl v.act = some (s', l)) (ho : ∀ k ∈ v.act, ∀ x, s.lane? v.w.uid k = some x → ok x)
    (hv : ∀ e ∈ l, ∀ x, s'.lane? v.w.uid e.1 = some x → val e.2.1 e.2.2 x) :
    laneOp sl fn s v = s'.laneStep v sl l g :=
  laneOpPost_takes (fn := fun _ => fn) (post := fun s _ => s) hd hd.early hw h ho hv

/-- An instruction that lanes perform completes as `LaneDoes` says. -/
theorem completes_laneOp {i : Instr} {sl : Slot} {fn : LaneFn} {ok : Lane → Prop} {val : Word → Word → Lane → Prop}
    {g : Word → Word → Lane → Lane} (hi : ∀ s, exec i s = issue sl (laneOp sl fn) s) (hd : LaneDoes fn ok val fun _ => g) :
    CompletesWhen i sl ok val g := by
  intro s s' v l hs ht ho hv
  rw [hi, hs.next, laneOp_takes hd hs.wave ht ho hv]

/-! ## Slots that the wave performs once -/

/-- A wave's instruction that reads `a` of the lowest active lane goes on with it; before anything is popped only a check of step 7
may fail. -/
theorem waveOp_takes {α : Type} {sl : Slot} {read : Word → Word → Lane → Except Fail α}
    {k : State → View → α → State → State} {s s' : State} {v : View} {pa pb : Word} {x : Lane} {a : α}
    (hw : s.wave? v.w.uid = some v.w) (h : s.takes v sl [v.low] = some (s', [(v.low, pa, pb)]))
    (hx : s'.lane? v.w.uid v.low = some x) (hr : read pa pb x = .ok a)
    (he : ∀ y e, y.bare = x.bare → read 0#32 0#32 y = .error e → e.late = true) :
    waveOp sl read k s v = k s' v a s := by
  unfold waveOp
  simp only
  rw [withPops_takes _ h]
  · have hx' : (s'.wave? v.w.uid).bind (·.lanes[v.low]?) = some x := hx
    simp only [hx', hr]
  · intro _
    rw [List.filter_eq_nil_iff]
    intro e hm
    obtain ⟨y, hy, hb⟩ := takes_lane h hx
    have hy' : v.w.lanes[v.low]? = some y := by simpa [State.lane?, hw] using hy
    simp only [List.map, List.head?, hy'] at hm
    cases hf : read 0#32 0#32 y with
    | ok _ => simp [hf] at hm
    | error f =>
      simp only [hf, List.mem_map] at hm
      obtain ⟨j, -, rfl⟩ := hm
      simp [he y f hb hf]

/-! ## Sources of a lane and its ports -/

theorem src_bare {x y : Lane} (h : x.bare = y.bare) (t p s) : x.src t p s = y.src t p s := by
  have h1 : x.regs = y.regs := by have := congrArg Lane.regs h; exact this
  have h2 : x.l0 = y.l0 := by have := congrArg Lane.l0 h; exact this
  have h3 : x.l1 = y.l1 := by have := congrArg Lane.l1 h; exact this
  have h4 : x.l2 = y.l2 := by have := congrArg Lane.l2 h; exact this
  cases s <;> simp [Lane.src, Lane.reg, Lane.latch, h1, h2, h3, h4]

theorem reg_bare {x y : Lane} (h : x.bare = y.bare) (r) : x.reg r = y.reg r := by
  have h1 : x.regs = y.regs := by have := congrArg Lane.regs h; exact this
  simp [Lane.reg, h1]

theorem srcTag_bare {x y : Lane} (h : x.bare = y.bare) (s) : x.srcTag s = y.srcTag s := by
  have h1 : x.regs = y.regs := by have := congrArg Lane.regs h; exact this
  have h2 : x.l0 = y.l0 := by have := congrArg Lane.l0 h; exact this
  have h3 : x.l1 = y.l1 := by have := congrArg Lane.l1 h; exact this
  have h4 : x.l2 = y.l2 := by have := congrArg Lane.l2 h; exact this
  cases s <;> simp [Lane.srcTag, Lane.reg, Lane.latch, h1, h2, h3, h4]

theorem carries_bare {x y : Lane} (h : x.bare = y.bare) (t s p) : x.carries t s p ↔ y.carries t s p := by
  simp [Lane.carries, src_bare h]

theorem polyTag_bare {x y : Lane} (h : x.bare = y.bare) (l) : x.polyTag l = y.polyTag l := by
  have : x.srcTag = y.srcTag := funext fun s => srcTag_bare h s
  simp [Lane.polyTag, this]

theorem agree_bare {x y : Lane} (h : x.bare = y.bare) (l t) (ha : x.agree l t) : y.agree l t := by
  refine ⟨(polyTag_bare h l).symm.trans ha.1, fun s hs => (carries_bare h _ _ _).1 (ha.2 s hs)⟩

theorem readable_bare {x y : Lane} (h : x.bare = y.bare) (c s) : x.readable c s ↔ y.readable c s := carries_bare h _ _ _

/-- the source's success does not depend on the element -/

theorem src_pop {x : Lane} {t s} {r : Reg} (p) (h : x.src t 0#32 s = .ok r) : ∃ r', x.src t p s = .ok r' ∧ r'.tag = r.tag := by
  cases s with
  | port q => cases h; exact ⟨_, rfl, rfl⟩
  | lit w => cases w with
    | none => cases h
    | some w => exact ⟨r, h, rfl⟩
  | _ => exact ⟨r, h, rfl⟩

theorem carries_src {x : Lane} {t s pr} (p) (h : x.carries t s pr) : ∃ r, x.src t p s = .ok r ∧ pr r.tag := by
  obtain ⟨r, h1, h2⟩ := h
  obtain ⟨r', h3, h4⟩ := src_pop p h1
  exact ⟨r', h3, h4 ▸ h2⟩

theorem poly_agree {x : Lane} {t : Tag} {adm : Tag → Bool} (ha : adm t = true) (ht : t ≠ .none) :
    ∀ (l : List (Src × Word)), (∀ s ∈ l.map (·.1), x.carries t s (· = t)) →
    x.poly adm t l = .ok (l.map fun e => x.bits t e.2 e.1)
  | [], _ => rfl
  | (s, p) :: l, h => by
    obtain ⟨r, h1, h2⟩ := carries_src p (h s (by simp))
    have ih := poly_agree ha ht l fun s hs => h s (by simp at hs ⊢; exact .inr hs)
    simp [Lane.poly, h1, h2, ha, ht, ih, Lane.bits]


end Sys2Proof.Machine
end

