-- ==== Sys2Proof/Laws/Memory.lean ====
section
/-! SUPPORT. The laws of memory: a read after a write, and that every memory operation keeps the canonical form. -/

namespace Sys2Proof.Machine

theorem memGet_nil (a : Nat) : memGet [] a = 0#8 := rfl

/-- An address below a canonical list's bound is unlisted. -/
theorem memGet_below : ∀ (m : List Host.Cell) (lo a : Nat), memWfFrom lo m = true → a < lo → memGet m a = 0#8
  | [], _, _, _, _ => rfl
  | (k, b) :: m, lo, a, h, ha => by
    simp only [memWfFrom, Bool.and_eq_true, decide_eq_true_eq] at h
    have hk : a ≠ k := by omega
    simp only [memGet, hk, if_false]
    exact memGet_below m (k + 1) a h.2 (by omega)

theorem memWfFrom_mono : ∀ (m : List Host.Cell) (lo lo' : Nat), lo' ≤ lo → memWfFrom lo m = true → memWfFrom lo' m = true
  | [], _, _, _, _ => rfl
  | (k, b) :: m, lo, lo', h, hm => by
    simp only [memWfFrom, Bool.and_eq_true, decide_eq_true_eq] at hm ⊢
    exact ⟨⟨by omega, hm.1.2⟩, hm.2⟩

/-- A write keeps the canonical form. -/
theorem memPut_wfFrom : ∀ (m : List Host.Cell) (lo a : Nat) (v : Byte), lo ≤ a → memWfFrom lo m = true →
    memWfFrom lo (memPut m a v) = true
  | [], lo, a, v, ha, _ => by
    by_cases hv : v = 0#8 <;> simp [memPut, memWfFrom, hv, ha]
  | (k, b) :: m, lo, a, v, ha, h => by
    have h0 := h
    simp only [memWfFrom, Bool.and_eq_true, decide_eq_true_eq] at h
    obtain ⟨⟨h1, h2⟩, h3⟩ := h
    unfold memPut
    split
    · split
      · exact h0
      · rename_i hk hv
        simp only [memWfFrom, Bool.and_eq_true, decide_eq_true_eq]
        exact ⟨⟨ha, by simpa using hv⟩, ⟨⟨by omega, h2⟩, h3⟩⟩
    · split
      · split
        · exact memWfFrom_mono m (k + 1) lo (by omega) h3
        · rename_i hk hv
          subst_vars
          simp only [memWfFrom, Bool.and_eq_true, decide_eq_true_eq]
          exact ⟨⟨ha, by simpa using hv⟩, h3⟩
      · simp only [memWfFrom, Bool.and_eq_true, decide_eq_true_eq]
        exact ⟨⟨h1, h2⟩, memPut_wfFrom m (k + 1) a v (by omega) h3⟩

theorem memPut_wf (m : List Host.Cell) (a : Nat) (v : Byte) (h : Memory.wf m = true) : Memory.wf (memPut m a v) = true :=
  memPut_wfFrom m 0 a v (Nat.zero_le a) h

/-- A byte written reads back, and every other address reads as before. -/
theorem memGet_memPut : ∀ (m : List Host.Cell) (lo a c : Nat) (v : Byte), lo ≤ a → memWfFrom lo m = true →
    memGet (memPut m a v) c = if c = a then v else memGet m c
  | [], lo, a, c, v, _, _ => by
    by_cases hv : v = 0#8 <;> by_cases hc : c = a <;> simp [memPut, memGet, hv, hc]
  | (k, b) :: m, lo, a, c, v, ha, h => by
    simp only [memWfFrom, Bool.and_eq_true, decide_eq_true_eq] at h
    obtain ⟨⟨h1, h2⟩, h3⟩ := h
    unfold memPut
    split
    · rename_i hk
      split
      · rename_i hv
        split
        · rename_i hc
          subst hc; subst hv
          simp only [memGet, Nat.ne_of_lt hk, if_false]
          exact memGet_below m (k + 1) c h3 (by omega)
        · rfl
      · simp only [memGet]
    · rename_i hk
      split
      · rename_i he
        subst he
        split
        · rename_i hv
          by_cases hc : c = a
          · subst hc; subst hv
            simp only [if_true]
            exact memGet_below m (c + 1) c h3 (by omega)
          · simp only [memGet, hc, if_false]
        · by_cases hc : c = a <;> simp [memGet, hc]
      · rename_i he
        by_cases hc : c = k
        · have : c ≠ a := by omega
          simp only [memGet, hc, if_true]; rw [if_neg (by omega)]
        · simp only [memGet, hc, if_false]
          exact memGet_memPut m (k + 1) a c v (by omega) h3

theorem memPuts_wf : ∀ (l : List Byte) (m : List Host.Cell) (a : Nat), Memory.wf m = true → Memory.wf (memPuts m a l) = true
  | [], _, _, h => h
  | b :: l, m, a, h => memPuts_wf l (memPut m a b) (a + 1) (memPut_wf m a b h)

/-- Bytes outside a write read as before. -/
theorem memGet_memPuts : ∀ (l : List Byte) (m : List Host.Cell) (a c : Nat), Memory.wf m = true →
    memGet (memPuts m a l) c = if a ≤ c ∧ c < a + l.length then l.getD (c - a) 0#8 else memGet m c
  | [], m, a, c, _ => by
    have h : ¬(a ≤ c ∧ c < a + ([] : List Byte).length) := by simp
    simp only [memPuts, if_neg h]
  | b :: l, m, a, c, h => by
    rw [memPuts, memGet_memPuts l _ (a + 1) c (memPut_wf m a b h), memGet_memPut m 0 a c b (Nat.zero_le a) h]
    by_cases hc : c = a
    · subst hc; simp
    · by_cases h1 : a + 1 ≤ c
      · have e : c - a = (c - (a + 1)) + 1 := by omega
        by_cases h2 : c < a + 1 + l.length
        · have h3 : a ≤ c ∧ c < a + (b :: l).length := ⟨by omega, by simp; omega⟩
          simp only [h1, h2, and_self, if_true, if_pos h3, e, List.getD_cons_succ]
        · have h3 : ¬(a ≤ c ∧ c < a + (b :: l).length) := by simp; omega
          simp only [h1, h2, and_false, if_false, if_neg h3, hc]
      · have h3 : ¬(a ≤ c ∧ c < a + (b :: l).length) := by omega
        simp only [h1, false_and, if_false, if_neg h3, hc]

theorem memWfFrom_filter : ∀ (m : List Host.Cell) (lo : Nat) (p : Host.Cell → Bool), memWfFrom lo m = true →
    memWfFrom lo (m.filter p) = true
  | [], _, _, _ => rfl
  | (k, b) :: m, lo, p, h => by
    simp only [memWfFrom, Bool.and_eq_true, decide_eq_true_eq] at h
    obtain ⟨⟨h1, h2⟩, h3⟩ := h
    have ih := memWfFrom_filter m (k + 1) p h3
    by_cases hp : p (k, b) = true
    · rw [List.filter_cons_of_pos hp]
      simp only [memWfFrom, Bool.and_eq_true, decide_eq_true_eq]
      exact ⟨⟨h1, h2⟩, ih⟩
    · rw [List.filter_cons_of_neg hp]
      exact memWfFrom_mono _ (k + 1) lo (by omega) ih

theorem foldl_memPut_wf (f : Host.Cell → Nat) : ∀ (l m : List Host.Cell), Memory.wf m = true →
    Memory.wf (l.foldl (fun m c => memPut m (f c) c.2) m) = true
  | [], _, h => h
  | c :: l, m, h => foldl_memPut_wf f l (memPut m (f c) c.2) (memPut_wf m (f c) c.2 h)

/-- Moving a range of memory keeps the canonical form. -/
theorem copyCells_wf (m : List Host.Cell) (src dst n : Nat) (h : Memory.wf m = true) : Memory.wf (copyCells m src dst n) = true :=
  foldl_memPut_wf (fun c => c.1 - src + dst) _ _ (memWfFrom_filter m 0 _ h)

/-- Renaming the package of memory keeps the canonical form. -/
theorem rekey_wf (old new : BitVec 12) (m : List Host.Cell) (h : Memory.wf m = true) : Memory.wf (rekey old new m) = true :=
  foldl_memPut_wf (fun c => c.1 % 2 ^ 45 + new.toNat * 2 ^ 45) _ _ (memWfFrom_filter m 0 _ h)

theorem physWrite_wf (s : State) (a : Nat) (l : List Byte) (h : Memory.wf s.mem = true) : Memory.wf (s.physWrite a l).mem = true :=
  memPuts_wf l s.mem a h

/-- Bytes outside a physical write read as before. -/
theorem physWrite_get (s : State) (a c : Nat) (l : List Byte) (h : Memory.wf s.mem = true) :
    memGet (s.physWrite a l).mem c = if a ≤ c ∧ c < a + l.length then l.getD (c - a) 0#8 else memGet s.mem c :=
  memGet_memPuts l s.mem a c h

theorem copyPart_wf (s : State) (m : Migration) (o n : Nat) (h : Memory.wf s.mem = true) : Memory.wf (s.copyPart m o n).mem = true :=
  copyCells_wf s.mem _ _ n h

theorem reset_mem_wf : Memory.wf State.reset.mem = true := rfl

end Sys2Proof.Machine
end

