-- ==== Sys2Proof/Laws/State.lean ====
section
/-! SUPPORT. The laws of the record updates: for every update of State, what each field is after it. An update that changes one part
leaves every other field as it was, so that a proof need not unfold it. -/

namespace Sys2Proof.Machine

variable (s : State)

/-! ### modWave -/

@[simp] theorem State.modWave_waves (u : Nat) (f : Wave → Wave) : (s.modWave u f).waves = s.waves.map fun w => if w.uid == u then f w else w := rfl
@[simp] theorem State.modWave_teams (u : Nat) (f : Wave → Wave) : (s.modWave u f).teams = s.teams := rfl
@[simp] theorem State.modWave_pipes (u : Nat) (f : Wave → Wave) : (s.modWave u f).pipes = s.pipes := rfl
@[simp] theorem State.modWave_ctxs (u : Nat) (f : Wave → Wave) : (s.modWave u f).ctxs = s.ctxs := rfl
@[simp] theorem State.modWave_nrgs (u : Nat) (f : Wave → Wave) : (s.modWave u f).nrgs = s.nrgs := rfl
@[simp] theorem State.modWave_keyrings (u : Nat) (f : Wave → Wave) : (s.modWave u f).keyrings = s.keyrings := rfl
@[simp] theorem State.modWave_flights (u : Nat) (f : Wave → Wave) : (s.modWave u f).flights = s.flights := rfl
@[simp] theorem State.modWave_mem (u : Nat) (f : Wave → Wave) : (s.modWave u f).mem = s.mem := rfl
@[simp] theorem State.modWave_bad (u : Nat) (f : Wave → Wave) : (s.modWave u f).bad = s.bad := rfl
@[simp] theorem State.modWave_errs (u : Nat) (f : Wave → Wave) : (s.modWave u f).errs = s.errs := rfl
@[simp] theorem State.modWave_lost (u : Nat) (f : Wave → Wave) : (s.modWave u f).lost = s.lost := rfl
@[simp] theorem State.modWave_l1 (u : Nat) (f : Wave → Wave) : (s.modWave u f).l1 = s.l1 := rfl
@[simp] theorem State.modWave_l2 (u : Nat) (f : Wave → Wave) : (s.modWave u f).l2 = s.l2 := rfl
@[simp] theorem State.modWave_ro (u : Nat) (f : Wave → Wave) : (s.modWave u f).ro = s.ro := rfl
@[simp] theorem State.modWave_icache (u : Nat) (f : Wave → Wave) : (s.modWave u f).icache = s.icache := rfl
@[simp] theorem State.modWave_tlb (u : Nat) (f : Wave → Wave) : (s.modWave u f).tlb = s.tlb := rfl
@[simp] theorem State.modWave_migrations (u : Nat) (f : Wave → Wave) : (s.modWave u f).migrations = s.migrations := rfl
@[simp] theorem State.modWave_expands (u : Nat) (f : Wave → Wave) : (s.modWave u f).expands = s.expands := rfl
@[simp] theorem State.modWave_pkgid (u : Nat) (f : Wave → Wave) : (s.modWave u f).pkgid = s.pkgid := rfl
@[simp] theorem State.modWave_fenced (u : Nat) (f : Wave → Wave) : (s.modWave u f).fenced = s.fenced := rfl
@[simp] theorem State.modWave_running (u : Nat) (f : Wave → Wave) : (s.modWave u f).running = s.running := rfl
@[simp] theorem State.modWave_dies (u : Nat) (f : Wave → Wave) : (s.modWave u f).dies = s.dies := rfl
@[simp] theorem State.modWave_clusters (u : Nat) (f : Wave → Wave) : (s.modWave u f).clusters = s.clusters := rfl
@[simp] theorem State.modWave_resvs (u : Nat) (f : Wave → Wave) : (s.modWave u f).resvs = s.resvs := rfl
@[simp] theorem State.modWave_grids (u : Nat) (f : Wave → Wave) : (s.modWave u f).grids = s.grids := rfl
@[simp] theorem State.modWave_scheds (u : Nat) (f : Wave → Wave) : (s.modWave u f).scheds = s.scheds := rfl
@[simp] theorem State.modWave_hubRot (u : Nat) (f : Wave → Wave) : (s.modWave u f).hubRot = s.hubRot := rfl
@[simp] theorem State.modWave_jobs (u : Nat) (f : Wave → Wave) : (s.modWave u f).jobs = s.jobs := rfl
@[simp] theorem State.modWave_saved (u : Nat) (f : Wave → Wave) : (s.modWave u f).saved = s.saved := rfl
@[simp] theorem State.modWave_journal (u : Nat) (f : Wave → Wave) : (s.modWave u f).journal = s.journal := rfl
@[simp] theorem State.modWave_replays (u : Nat) (f : Wave → Wave) : (s.modWave u f).replays = s.replays := rfl
@[simp] theorem State.modWave_harts (u : Nat) (f : Wave → Wave) : (s.modWave u f).harts = s.harts := rfl
@[simp] theorem State.modWave_held (u : Nat) (f : Wave → Wave) : (s.modWave u f).held = s.held := rfl
@[simp] theorem State.modWave_handles (u : Nat) (f : Wave → Wave) : (s.modWave u f).handles = s.handles := rfl
@[simp] theorem State.modWave_gens (u : Nat) (f : Wave → Wave) : (s.modWave u f).gens = s.gens := rfl
@[simp] theorem State.modWave_cmds (u : Nat) (f : Wave → Wave) : (s.modWave u f).cmds = s.cmds := rfl
@[simp] theorem State.modWave_hubUp (u : Nat) (f : Wave → Wave) : (s.modWave u f).hubUp = s.hubUp := rfl
@[simp] theorem State.modWave_sext (u : Nat) (f : Wave → Wave) : (s.modWave u f).sext = s.sext := rfl
@[simp] theorem State.modWave_tildors (u : Nat) (f : Wave → Wave) : (s.modWave u f).tildors = s.tildors := rfl
@[simp] theorem State.modWave_domain (u : Nat) (f : Wave → Wave) : (s.modWave u f).domain = s.domain := rfl
@[simp] theorem State.modWave_standby (u : Nat) (f : Wave → Wave) : (s.modWave u f).standby = s.standby := rfl
@[simp] theorem State.modWave_map2 (u : Nat) (f : Wave → Wave) : (s.modWave u f).map2 = s.map2 := rfl
@[simp] theorem State.modWave_map1 (u : Nat) (f : Wave → Wave) : (s.modWave u f).map1 = s.map1 := rfl
@[simp] theorem State.modWave_agenda (u : Nat) (f : Wave → Wave) : (s.modWave u f).agenda = s.agenda := rfl
@[simp] theorem State.modWave_turn (u : Nat) (f : Wave → Wave) : (s.modWave u f).turn = s.turn := rfl
@[simp] theorem State.modWave_cur (u : Nat) (f : Wave → Wave) : (s.modWave u f).cur = s.cur := rfl
@[simp] theorem State.modWave_curHart (u : Nat) (f : Wave → Wave) : (s.modWave u f).curHart = s.curHart := rfl
@[simp] theorem State.modWave_freeCtr (u : Nat) (f : Wave → Wave) : (s.modWave u f).freeCtr = s.freeCtr := rfl
@[simp] theorem State.modWave_uid (u : Nat) (f : Wave → Wave) : (s.modWave u f).uid = s.uid := rfl

/-! ### modTeam -/

@[simp] theorem State.modTeam_waves (u : Nat) (f : Team → Team) : (s.modTeam u f).waves = s.waves := rfl
@[simp] theorem State.modTeam_teams (u : Nat) (f : Team → Team) : (s.modTeam u f).teams = s.teams.map fun t => if t.uid == u then f t else t := rfl
@[simp] theorem State.modTeam_pipes (u : Nat) (f : Team → Team) : (s.modTeam u f).pipes = s.pipes := rfl
@[simp] theorem State.modTeam_ctxs (u : Nat) (f : Team → Team) : (s.modTeam u f).ctxs = s.ctxs := rfl
@[simp] theorem State.modTeam_nrgs (u : Nat) (f : Team → Team) : (s.modTeam u f).nrgs = s.nrgs := rfl
@[simp] theorem State.modTeam_keyrings (u : Nat) (f : Team → Team) : (s.modTeam u f).keyrings = s.keyrings := rfl
@[simp] theorem State.modTeam_flights (u : Nat) (f : Team → Team) : (s.modTeam u f).flights = s.flights := rfl
@[simp] theorem State.modTeam_mem (u : Nat) (f : Team → Team) : (s.modTeam u f).mem = s.mem := rfl
@[simp] theorem State.modTeam_bad (u : Nat) (f : Team → Team) : (s.modTeam u f).bad = s.bad := rfl
@[simp] theorem State.modTeam_errs (u : Nat) (f : Team → Team) : (s.modTeam u f).errs = s.errs := rfl
@[simp] theorem State.modTeam_lost (u : Nat) (f : Team → Team) : (s.modTeam u f).lost = s.lost := rfl
@[simp] theorem State.modTeam_l1 (u : Nat) (f : Team → Team) : (s.modTeam u f).l1 = s.l1 := rfl
@[simp] theorem State.modTeam_l2 (u : Nat) (f : Team → Team) : (s.modTeam u f).l2 = s.l2 := rfl
@[simp] theorem State.modTeam_ro (u : Nat) (f : Team → Team) : (s.modTeam u f).ro = s.ro := rfl
@[simp] theorem State.modTeam_icache (u : Nat) (f : Team → Team) : (s.modTeam u f).icache = s.icache := rfl
@[simp] theorem State.modTeam_tlb (u : Nat) (f : Team → Team) : (s.modTeam u f).tlb = s.tlb := rfl
@[simp] theorem State.modTeam_migrations (u : Nat) (f : Team → Team) : (s.modTeam u f).migrations = s.migrations := rfl
@[simp] theorem State.modTeam_expands (u : Nat) (f : Team → Team) : (s.modTeam u f).expands = s.expands := rfl
@[simp] theorem State.modTeam_pkgid (u : Nat) (f : Team → Team) : (s.modTeam u f).pkgid = s.pkgid := rfl
@[simp] theorem State.modTeam_fenced (u : Nat) (f : Team → Team) : (s.modTeam u f).fenced = s.fenced := rfl
@[simp] theorem State.modTeam_running (u : Nat) (f : Team → Team) : (s.modTeam u f).running = s.running := rfl
@[simp] theorem State.modTeam_dies (u : Nat) (f : Team → Team) : (s.modTeam u f).dies = s.dies := rfl
@[simp] theorem State.modTeam_clusters (u : Nat) (f : Team → Team) : (s.modTeam u f).clusters = s.clusters := rfl
@[simp] theorem State.modTeam_resvs (u : Nat) (f : Team → Team) : (s.modTeam u f).resvs = s.resvs := rfl
@[simp] theorem State.modTeam_grids (u : Nat) (f : Team → Team) : (s.modTeam u f).grids = s.grids := rfl
@[simp] theorem State.modTeam_scheds (u : Nat) (f : Team → Team) : (s.modTeam u f).scheds = s.scheds := rfl
@[simp] theorem State.modTeam_hubRot (u : Nat) (f : Team → Team) : (s.modTeam u f).hubRot = s.hubRot := rfl
@[simp] theorem State.modTeam_jobs (u : Nat) (f : Team → Team) : (s.modTeam u f).jobs = s.jobs := rfl
@[simp] theorem State.modTeam_saved (u : Nat) (f : Team → Team) : (s.modTeam u f).saved = s.saved := rfl
@[simp] theorem State.modTeam_journal (u : Nat) (f : Team → Team) : (s.modTeam u f).journal = s.journal := rfl
@[simp] theorem State.modTeam_replays (u : Nat) (f : Team → Team) : (s.modTeam u f).replays = s.replays := rfl
@[simp] theorem State.modTeam_harts (u : Nat) (f : Team → Team) : (s.modTeam u f).harts = s.harts := rfl
@[simp] theorem State.modTeam_held (u : Nat) (f : Team → Team) : (s.modTeam u f).held = s.held := rfl
@[simp] theorem State.modTeam_handles (u : Nat) (f : Team → Team) : (s.modTeam u f).handles = s.handles := rfl
@[simp] theorem State.modTeam_gens (u : Nat) (f : Team → Team) : (s.modTeam u f).gens = s.gens := rfl
@[simp] theorem State.modTeam_cmds (u : Nat) (f : Team → Team) : (s.modTeam u f).cmds = s.cmds := rfl
@[simp] theorem State.modTeam_hubUp (u : Nat) (f : Team → Team) : (s.modTeam u f).hubUp = s.hubUp := rfl
@[simp] theorem State.modTeam_sext (u : Nat) (f : Team → Team) : (s.modTeam u f).sext = s.sext := rfl
@[simp] theorem State.modTeam_tildors (u : Nat) (f : Team → Team) : (s.modTeam u f).tildors = s.tildors := rfl
@[simp] theorem State.modTeam_domain (u : Nat) (f : Team → Team) : (s.modTeam u f).domain = s.domain := rfl
@[simp] theorem State.modTeam_standby (u : Nat) (f : Team → Team) : (s.modTeam u f).standby = s.standby := rfl
@[simp] theorem State.modTeam_map2 (u : Nat) (f : Team → Team) : (s.modTeam u f).map2 = s.map2 := rfl
@[simp] theorem State.modTeam_map1 (u : Nat) (f : Team → Team) : (s.modTeam u f).map1 = s.map1 := rfl
@[simp] theorem State.modTeam_agenda (u : Nat) (f : Team → Team) : (s.modTeam u f).agenda = s.agenda := rfl
@[simp] theorem State.modTeam_turn (u : Nat) (f : Team → Team) : (s.modTeam u f).turn = s.turn := rfl
@[simp] theorem State.modTeam_cur (u : Nat) (f : Team → Team) : (s.modTeam u f).cur = s.cur := rfl
@[simp] theorem State.modTeam_curHart (u : Nat) (f : Team → Team) : (s.modTeam u f).curHart = s.curHart := rfl
@[simp] theorem State.modTeam_freeCtr (u : Nat) (f : Team → Team) : (s.modTeam u f).freeCtr = s.freeCtr := rfl
@[simp] theorem State.modTeam_uid (u : Nat) (f : Team → Team) : (s.modTeam u f).uid = s.uid := rfl

/-! ### modCtx -/

@[simp] theorem State.modCtx_waves (c : BitVec 12) (f : Ctx → Ctx) : (s.modCtx c f).waves = s.waves := rfl
@[simp] theorem State.modCtx_teams (c : BitVec 12) (f : Ctx → Ctx) : (s.modCtx c f).teams = s.teams := rfl
@[simp] theorem State.modCtx_pipes (c : BitVec 12) (f : Ctx → Ctx) : (s.modCtx c f).pipes = s.pipes := rfl
@[simp] theorem State.modCtx_ctxs (c : BitVec 12) (f : Ctx → Ctx) : (s.modCtx c f).ctxs = s.ctxs.map fun x => if x.id == c then f x else x := rfl
@[simp] theorem State.modCtx_nrgs (c : BitVec 12) (f : Ctx → Ctx) : (s.modCtx c f).nrgs = s.nrgs := rfl
@[simp] theorem State.modCtx_keyrings (c : BitVec 12) (f : Ctx → Ctx) : (s.modCtx c f).keyrings = s.keyrings := rfl
@[simp] theorem State.modCtx_flights (c : BitVec 12) (f : Ctx → Ctx) : (s.modCtx c f).flights = s.flights := rfl
@[simp] theorem State.modCtx_mem (c : BitVec 12) (f : Ctx → Ctx) : (s.modCtx c f).mem = s.mem := rfl
@[simp] theorem State.modCtx_bad (c : BitVec 12) (f : Ctx → Ctx) : (s.modCtx c f).bad = s.bad := rfl
@[simp] theorem State.modCtx_errs (c : BitVec 12) (f : Ctx → Ctx) : (s.modCtx c f).errs = s.errs := rfl
@[simp] theorem State.modCtx_lost (c : BitVec 12) (f : Ctx → Ctx) : (s.modCtx c f).lost = s.lost := rfl
@[simp] theorem State.modCtx_l1 (c : BitVec 12) (f : Ctx → Ctx) : (s.modCtx c f).l1 = s.l1 := rfl
@[simp] theorem State.modCtx_l2 (c : BitVec 12) (f : Ctx → Ctx) : (s.modCtx c f).l2 = s.l2 := rfl
@[simp] theorem State.modCtx_ro (c : BitVec 12) (f : Ctx → Ctx) : (s.modCtx c f).ro = s.ro := rfl
@[simp] theorem State.modCtx_icache (c : BitVec 12) (f : Ctx → Ctx) : (s.modCtx c f).icache = s.icache := rfl
@[simp] theorem State.modCtx_tlb (c : BitVec 12) (f : Ctx → Ctx) : (s.modCtx c f).tlb = s.tlb := rfl
@[simp] theorem State.modCtx_migrations (c : BitVec 12) (f : Ctx → Ctx) : (s.modCtx c f).migrations = s.migrations := rfl
@[simp] theorem State.modCtx_expands (c : BitVec 12) (f : Ctx → Ctx) : (s.modCtx c f).expands = s.expands := rfl
@[simp] theorem State.modCtx_pkgid (c : BitVec 12) (f : Ctx → Ctx) : (s.modCtx c f).pkgid = s.pkgid := rfl
@[simp] theorem State.modCtx_fenced (c : BitVec 12) (f : Ctx → Ctx) : (s.modCtx c f).fenced = s.fenced := rfl
@[simp] theorem State.modCtx_running (c : BitVec 12) (f : Ctx → Ctx) : (s.modCtx c f).running = s.running := rfl
@[simp] theorem State.modCtx_dies (c : BitVec 12) (f : Ctx → Ctx) : (s.modCtx c f).dies = s.dies := rfl
@[simp] theorem State.modCtx_clusters (c : BitVec 12) (f : Ctx → Ctx) : (s.modCtx c f).clusters = s.clusters := rfl
@[simp] theorem State.modCtx_resvs (c : BitVec 12) (f : Ctx → Ctx) : (s.modCtx c f).resvs = s.resvs := rfl
@[simp] theorem State.modCtx_grids (c : BitVec 12) (f : Ctx → Ctx) : (s.modCtx c f).grids = s.grids := rfl
@[simp] theorem State.modCtx_scheds (c : BitVec 12) (f : Ctx → Ctx) : (s.modCtx c f).scheds = s.scheds := rfl
@[simp] theorem State.modCtx_hubRot (c : BitVec 12) (f : Ctx → Ctx) : (s.modCtx c f).hubRot = s.hubRot := rfl
@[simp] theorem State.modCtx_jobs (c : BitVec 12) (f : Ctx → Ctx) : (s.modCtx c f).jobs = s.jobs := rfl
@[simp] theorem State.modCtx_saved (c : BitVec 12) (f : Ctx → Ctx) : (s.modCtx c f).saved = s.saved := rfl
@[simp] theorem State.modCtx_journal (c : BitVec 12) (f : Ctx → Ctx) : (s.modCtx c f).journal = s.journal := rfl
@[simp] theorem State.modCtx_replays (c : BitVec 12) (f : Ctx → Ctx) : (s.modCtx c f).replays = s.replays := rfl
@[simp] theorem State.modCtx_harts (c : BitVec 12) (f : Ctx → Ctx) : (s.modCtx c f).harts = s.harts := rfl
@[simp] theorem State.modCtx_held (c : BitVec 12) (f : Ctx → Ctx) : (s.modCtx c f).held = s.held := rfl
@[simp] theorem State.modCtx_handles (c : BitVec 12) (f : Ctx → Ctx) : (s.modCtx c f).handles = s.handles := rfl
@[simp] theorem State.modCtx_gens (c : BitVec 12) (f : Ctx → Ctx) : (s.modCtx c f).gens = s.gens := rfl
@[simp] theorem State.modCtx_cmds (c : BitVec 12) (f : Ctx → Ctx) : (s.modCtx c f).cmds = s.cmds := rfl
@[simp] theorem State.modCtx_hubUp (c : BitVec 12) (f : Ctx → Ctx) : (s.modCtx c f).hubUp = s.hubUp := rfl
@[simp] theorem State.modCtx_sext (c : BitVec 12) (f : Ctx → Ctx) : (s.modCtx c f).sext = s.sext := rfl
@[simp] theorem State.modCtx_tildors (c : BitVec 12) (f : Ctx → Ctx) : (s.modCtx c f).tildors = s.tildors := rfl
@[simp] theorem State.modCtx_domain (c : BitVec 12) (f : Ctx → Ctx) : (s.modCtx c f).domain = s.domain := rfl
@[simp] theorem State.modCtx_standby (c : BitVec 12) (f : Ctx → Ctx) : (s.modCtx c f).standby = s.standby := rfl
@[simp] theorem State.modCtx_map2 (c : BitVec 12) (f : Ctx → Ctx) : (s.modCtx c f).map2 = s.map2 := rfl
@[simp] theorem State.modCtx_map1 (c : BitVec 12) (f : Ctx → Ctx) : (s.modCtx c f).map1 = s.map1 := rfl
@[simp] theorem State.modCtx_agenda (c : BitVec 12) (f : Ctx → Ctx) : (s.modCtx c f).agenda = s.agenda := rfl
@[simp] theorem State.modCtx_turn (c : BitVec 12) (f : Ctx → Ctx) : (s.modCtx c f).turn = s.turn := rfl
@[simp] theorem State.modCtx_cur (c : BitVec 12) (f : Ctx → Ctx) : (s.modCtx c f).cur = s.cur := rfl
@[simp] theorem State.modCtx_curHart (c : BitVec 12) (f : Ctx → Ctx) : (s.modCtx c f).curHart = s.curHart := rfl
@[simp] theorem State.modCtx_freeCtr (c : BitVec 12) (f : Ctx → Ctx) : (s.modCtx c f).freeCtr = s.freeCtr := rfl
@[simp] theorem State.modCtx_uid (c : BitVec 12) (f : Ctx → Ctx) : (s.modCtx c f).uid = s.uid := rfl

/-! ### setPipe -/

@[simp] theorem State.setPipe_waves (p : PipeId) (x : Pipe) : (s.setPipe p x).waves = s.waves := rfl
@[simp] theorem State.setPipe_teams (p : PipeId) (x : Pipe) : (s.setPipe p x).teams = s.teams := rfl
@[simp] theorem State.setPipe_pipes (p : PipeId) (x : Pipe) : (s.setPipe p x).pipes = assocSet s.pipes p x := rfl
@[simp] theorem State.setPipe_ctxs (p : PipeId) (x : Pipe) : (s.setPipe p x).ctxs = s.ctxs := rfl
@[simp] theorem State.setPipe_nrgs (p : PipeId) (x : Pipe) : (s.setPipe p x).nrgs = s.nrgs := rfl
@[simp] theorem State.setPipe_keyrings (p : PipeId) (x : Pipe) : (s.setPipe p x).keyrings = s.keyrings := rfl
@[simp] theorem State.setPipe_flights (p : PipeId) (x : Pipe) : (s.setPipe p x).flights = s.flights := rfl
@[simp] theorem State.setPipe_mem (p : PipeId) (x : Pipe) : (s.setPipe p x).mem = s.mem := rfl
@[simp] theorem State.setPipe_bad (p : PipeId) (x : Pipe) : (s.setPipe p x).bad = s.bad := rfl
@[simp] theorem State.setPipe_errs (p : PipeId) (x : Pipe) : (s.setPipe p x).errs = s.errs := rfl
@[simp] theorem State.setPipe_lost (p : PipeId) (x : Pipe) : (s.setPipe p x).lost = s.lost := rfl
@[simp] theorem State.setPipe_l1 (p : PipeId) (x : Pipe) : (s.setPipe p x).l1 = s.l1 := rfl
@[simp] theorem State.setPipe_l2 (p : PipeId) (x : Pipe) : (s.setPipe p x).l2 = s.l2 := rfl
@[simp] theorem State.setPipe_ro (p : PipeId) (x : Pipe) : (s.setPipe p x).ro = s.ro := rfl
@[simp] theorem State.setPipe_icache (p : PipeId) (x : Pipe) : (s.setPipe p x).icache = s.icache := rfl
@[simp] theorem State.setPipe_tlb (p : PipeId) (x : Pipe) : (s.setPipe p x).tlb = s.tlb := rfl
@[simp] theorem State.setPipe_migrations (p : PipeId) (x : Pipe) : (s.setPipe p x).migrations = s.migrations := rfl
@[simp] theorem State.setPipe_expands (p : PipeId) (x : Pipe) : (s.setPipe p x).expands = s.expands := rfl
@[simp] theorem State.setPipe_pkgid (p : PipeId) (x : Pipe) : (s.setPipe p x).pkgid = s.pkgid := rfl
@[simp] theorem State.setPipe_fenced (p : PipeId) (x : Pipe) : (s.setPipe p x).fenced = s.fenced := rfl
@[simp] theorem State.setPipe_running (p : PipeId) (x : Pipe) : (s.setPipe p x).running = s.running := rfl
@[simp] theorem State.setPipe_dies (p : PipeId) (x : Pipe) : (s.setPipe p x).dies = s.dies := rfl
@[simp] theorem State.setPipe_clusters (p : PipeId) (x : Pipe) : (s.setPipe p x).clusters = s.clusters := rfl
@[simp] theorem State.setPipe_resvs (p : PipeId) (x : Pipe) : (s.setPipe p x).resvs = s.resvs := rfl
@[simp] theorem State.setPipe_grids (p : PipeId) (x : Pipe) : (s.setPipe p x).grids = s.grids := rfl
@[simp] theorem State.setPipe_scheds (p : PipeId) (x : Pipe) : (s.setPipe p x).scheds = s.scheds := rfl
@[simp] theorem State.setPipe_hubRot (p : PipeId) (x : Pipe) : (s.setPipe p x).hubRot = s.hubRot := rfl
@[simp] theorem State.setPipe_jobs (p : PipeId) (x : Pipe) : (s.setPipe p x).jobs = s.jobs := rfl
@[simp] theorem State.setPipe_saved (p : PipeId) (x : Pipe) : (s.setPipe p x).saved = s.saved := rfl
@[simp] theorem State.setPipe_journal (p : PipeId) (x : Pipe) : (s.setPipe p x).journal = s.journal := rfl
@[simp] theorem State.setPipe_replays (p : PipeId) (x : Pipe) : (s.setPipe p x).replays = s.replays := rfl
@[simp] theorem State.setPipe_harts (p : PipeId) (x : Pipe) : (s.setPipe p x).harts = s.harts := rfl
@[simp] theorem State.setPipe_held (p : PipeId) (x : Pipe) : (s.setPipe p x).held = s.held := rfl
@[simp] theorem State.setPipe_handles (p : PipeId) (x : Pipe) : (s.setPipe p x).handles = s.handles := rfl
@[simp] theorem State.setPipe_gens (p : PipeId) (x : Pipe) : (s.setPipe p x).gens = s.gens := rfl
@[simp] theorem State.setPipe_cmds (p : PipeId) (x : Pipe) : (s.setPipe p x).cmds = s.cmds := rfl
@[simp] theorem State.setPipe_hubUp (p : PipeId) (x : Pipe) : (s.setPipe p x).hubUp = s.hubUp := rfl
@[simp] theorem State.setPipe_sext (p : PipeId) (x : Pipe) : (s.setPipe p x).sext = s.sext := rfl
@[simp] theorem State.setPipe_tildors (p : PipeId) (x : Pipe) : (s.setPipe p x).tildors = s.tildors := rfl
@[simp] theorem State.setPipe_domain (p : PipeId) (x : Pipe) : (s.setPipe p x).domain = s.domain := rfl
@[simp] theorem State.setPipe_standby (p : PipeId) (x : Pipe) : (s.setPipe p x).standby = s.standby := rfl
@[simp] theorem State.setPipe_map2 (p : PipeId) (x : Pipe) : (s.setPipe p x).map2 = s.map2 := rfl
@[simp] theorem State.setPipe_map1 (p : PipeId) (x : Pipe) : (s.setPipe p x).map1 = s.map1 := rfl
@[simp] theorem State.setPipe_agenda (p : PipeId) (x : Pipe) : (s.setPipe p x).agenda = s.agenda := rfl
@[simp] theorem State.setPipe_turn (p : PipeId) (x : Pipe) : (s.setPipe p x).turn = s.turn := rfl
@[simp] theorem State.setPipe_cur (p : PipeId) (x : Pipe) : (s.setPipe p x).cur = s.cur := rfl
@[simp] theorem State.setPipe_curHart (p : PipeId) (x : Pipe) : (s.setPipe p x).curHart = s.curHart := rfl
@[simp] theorem State.setPipe_freeCtr (p : PipeId) (x : Pipe) : (s.setPipe p x).freeCtr = s.freeCtr := rfl
@[simp] theorem State.setPipe_uid (p : PipeId) (x : Pipe) : (s.setPipe p x).uid = s.uid := rfl

/-! ### modLane -/

@[simp] theorem State.modLane_waves (u i : Nat) (f : Lane → Lane) : (s.modLane u i f).waves = s.waves.map fun w => if w.uid == u then w.modLane i f else w := rfl
@[simp] theorem State.modLane_teams (u i : Nat) (f : Lane → Lane) : (s.modLane u i f).teams = s.teams := rfl
@[simp] theorem State.modLane_pipes (u i : Nat) (f : Lane → Lane) : (s.modLane u i f).pipes = s.pipes := rfl
@[simp] theorem State.modLane_ctxs (u i : Nat) (f : Lane → Lane) : (s.modLane u i f).ctxs = s.ctxs := rfl
@[simp] theorem State.modLane_nrgs (u i : Nat) (f : Lane → Lane) : (s.modLane u i f).nrgs = s.nrgs := rfl
@[simp] theorem State.modLane_keyrings (u i : Nat) (f : Lane → Lane) : (s.modLane u i f).keyrings = s.keyrings := rfl
@[simp] theorem State.modLane_flights (u i : Nat) (f : Lane → Lane) : (s.modLane u i f).flights = s.flights := rfl
@[simp] theorem State.modLane_mem (u i : Nat) (f : Lane → Lane) : (s.modLane u i f).mem = s.mem := rfl
@[simp] theorem State.modLane_bad (u i : Nat) (f : Lane → Lane) : (s.modLane u i f).bad = s.bad := rfl
@[simp] theorem State.modLane_errs (u i : Nat) (f : Lane → Lane) : (s.modLane u i f).errs = s.errs := rfl
@[simp] theorem State.modLane_lost (u i : Nat) (f : Lane → Lane) : (s.modLane u i f).lost = s.lost := rfl
@[simp] theorem State.modLane_l1 (u i : Nat) (f : Lane → Lane) : (s.modLane u i f).l1 = s.l1 := rfl
@[simp] theorem State.modLane_l2 (u i : Nat) (f : Lane → Lane) : (s.modLane u i f).l2 = s.l2 := rfl
@[simp] theorem State.modLane_ro (u i : Nat) (f : Lane → Lane) : (s.modLane u i f).ro = s.ro := rfl
@[simp] theorem State.modLane_icache (u i : Nat) (f : Lane → Lane) : (s.modLane u i f).icache = s.icache := rfl
@[simp] theorem State.modLane_tlb (u i : Nat) (f : Lane → Lane) : (s.modLane u i f).tlb = s.tlb := rfl
@[simp] theorem State.modLane_migrations (u i : Nat) (f : Lane → Lane) : (s.modLane u i f).migrations = s.migrations := rfl
@[simp] theorem State.modLane_expands (u i : Nat) (f : Lane → Lane) : (s.modLane u i f).expands = s.expands := rfl
@[simp] theorem State.modLane_pkgid (u i : Nat) (f : Lane → Lane) : (s.modLane u i f).pkgid = s.pkgid := rfl
@[simp] theorem State.modLane_fenced (u i : Nat) (f : Lane → Lane) : (s.modLane u i f).fenced = s.fenced := rfl
@[simp] theorem State.modLane_running (u i : Nat) (f : Lane → Lane) : (s.modLane u i f).running = s.running := rfl
@[simp] theorem State.modLane_dies (u i : Nat) (f : Lane → Lane) : (s.modLane u i f).dies = s.dies := rfl
@[simp] theorem State.modLane_clusters (u i : Nat) (f : Lane → Lane) : (s.modLane u i f).clusters = s.clusters := rfl
@[simp] theorem State.modLane_resvs (u i : Nat) (f : Lane → Lane) : (s.modLane u i f).resvs = s.resvs := rfl
@[simp] theorem State.modLane_grids (u i : Nat) (f : Lane → Lane) : (s.modLane u i f).grids = s.grids := rfl
@[simp] theorem State.modLane_scheds (u i : Nat) (f : Lane → Lane) : (s.modLane u i f).scheds = s.scheds := rfl
@[simp] theorem State.modLane_hubRot (u i : Nat) (f : Lane → Lane) : (s.modLane u i f).hubRot = s.hubRot := rfl
@[simp] theorem State.modLane_jobs (u i : Nat) (f : Lane → Lane) : (s.modLane u i f).jobs = s.jobs := rfl
@[simp] theorem State.modLane_saved (u i : Nat) (f : Lane → Lane) : (s.modLane u i f).saved = s.saved := rfl
@[simp] theorem State.modLane_journal (u i : Nat) (f : Lane → Lane) : (s.modLane u i f).journal = s.journal := rfl
@[simp] theorem State.modLane_replays (u i : Nat) (f : Lane → Lane) : (s.modLane u i f).replays = s.replays := rfl
@[simp] theorem State.modLane_harts (u i : Nat) (f : Lane → Lane) : (s.modLane u i f).harts = s.harts := rfl
@[simp] theorem State.modLane_held (u i : Nat) (f : Lane → Lane) : (s.modLane u i f).held = s.held := rfl
@[simp] theorem State.modLane_handles (u i : Nat) (f : Lane → Lane) : (s.modLane u i f).handles = s.handles := rfl
@[simp] theorem State.modLane_gens (u i : Nat) (f : Lane → Lane) : (s.modLane u i f).gens = s.gens := rfl
@[simp] theorem State.modLane_cmds (u i : Nat) (f : Lane → Lane) : (s.modLane u i f).cmds = s.cmds := rfl
@[simp] theorem State.modLane_hubUp (u i : Nat) (f : Lane → Lane) : (s.modLane u i f).hubUp = s.hubUp := rfl
@[simp] theorem State.modLane_sext (u i : Nat) (f : Lane → Lane) : (s.modLane u i f).sext = s.sext := rfl
@[simp] theorem State.modLane_tildors (u i : Nat) (f : Lane → Lane) : (s.modLane u i f).tildors = s.tildors := rfl
@[simp] theorem State.modLane_domain (u i : Nat) (f : Lane → Lane) : (s.modLane u i f).domain = s.domain := rfl
@[simp] theorem State.modLane_standby (u i : Nat) (f : Lane → Lane) : (s.modLane u i f).standby = s.standby := rfl
@[simp] theorem State.modLane_map2 (u i : Nat) (f : Lane → Lane) : (s.modLane u i f).map2 = s.map2 := rfl
@[simp] theorem State.modLane_map1 (u i : Nat) (f : Lane → Lane) : (s.modLane u i f).map1 = s.map1 := rfl
@[simp] theorem State.modLane_agenda (u i : Nat) (f : Lane → Lane) : (s.modLane u i f).agenda = s.agenda := rfl
@[simp] theorem State.modLane_turn (u i : Nat) (f : Lane → Lane) : (s.modLane u i f).turn = s.turn := rfl
@[simp] theorem State.modLane_cur (u i : Nat) (f : Lane → Lane) : (s.modLane u i f).cur = s.cur := rfl
@[simp] theorem State.modLane_curHart (u i : Nat) (f : Lane → Lane) : (s.modLane u i f).curHart = s.curHart := rfl
@[simp] theorem State.modLane_freeCtr (u i : Nat) (f : Lane → Lane) : (s.modLane u i f).freeCtr = s.freeCtr := rfl
@[simp] theorem State.modLane_uid (u i : Nat) (f : Lane → Lane) : (s.modLane u i f).uid = s.uid := rfl

/-! ### setRing -/

@[simp] theorem State.setRing_waves (k : KrId) (r : Keyring) : (s.setRing k r).waves = s.waves := rfl
@[simp] theorem State.setRing_teams (k : KrId) (r : Keyring) : (s.setRing k r).teams = s.teams := rfl
@[simp] theorem State.setRing_pipes (k : KrId) (r : Keyring) : (s.setRing k r).pipes = s.pipes := rfl
@[simp] theorem State.setRing_ctxs (k : KrId) (r : Keyring) : (s.setRing k r).ctxs = s.ctxs := rfl
@[simp] theorem State.setRing_nrgs (k : KrId) (r : Keyring) : (s.setRing k r).nrgs = s.nrgs := rfl
@[simp] theorem State.setRing_keyrings (k : KrId) (r : Keyring) : (s.setRing k r).keyrings = assocSet s.keyrings k r := rfl
@[simp] theorem State.setRing_flights (k : KrId) (r : Keyring) : (s.setRing k r).flights = s.flights := rfl
@[simp] theorem State.setRing_mem (k : KrId) (r : Keyring) : (s.setRing k r).mem = s.mem := rfl
@[simp] theorem State.setRing_bad (k : KrId) (r : Keyring) : (s.setRing k r).bad = s.bad := rfl
@[simp] theorem State.setRing_errs (k : KrId) (r : Keyring) : (s.setRing k r).errs = s.errs := rfl
@[simp] theorem State.setRing_lost (k : KrId) (r : Keyring) : (s.setRing k r).lost = s.lost := rfl
@[simp] theorem State.setRing_l1 (k : KrId) (r : Keyring) : (s.setRing k r).l1 = s.l1 := rfl
@[simp] theorem State.setRing_l2 (k : KrId) (r : Keyring) : (s.setRing k r).l2 = s.l2 := rfl
@[simp] theorem State.setRing_ro (k : KrId) (r : Keyring) : (s.setRing k r).ro = s.ro := rfl
@[simp] theorem State.setRing_icache (k : KrId) (r : Keyring) : (s.setRing k r).icache = s.icache := rfl
@[simp] theorem State.setRing_tlb (k : KrId) (r : Keyring) : (s.setRing k r).tlb = s.tlb := rfl
@[simp] theorem State.setRing_migrations (k : KrId) (r : Keyring) : (s.setRing k r).migrations = s.migrations := rfl
@[simp] theorem State.setRing_expands (k : KrId) (r : Keyring) : (s.setRing k r).expands = s.expands := rfl
@[simp] theorem State.setRing_pkgid (k : KrId) (r : Keyring) : (s.setRing k r).pkgid = s.pkgid := rfl
@[simp] theorem State.setRing_fenced (k : KrId) (r : Keyring) : (s.setRing k r).fenced = s.fenced := rfl
@[simp] theorem State.setRing_running (k : KrId) (r : Keyring) : (s.setRing k r).running = s.running := rfl
@[simp] theorem State.setRing_dies (k : KrId) (r : Keyring) : (s.setRing k r).dies = s.dies := rfl
@[simp] theorem State.setRing_clusters (k : KrId) (r : Keyring) : (s.setRing k r).clusters = s.clusters := rfl
@[simp] theorem State.setRing_resvs (k : KrId) (r : Keyring) : (s.setRing k r).resvs = s.resvs := rfl
@[simp] theorem State.setRing_grids (k : KrId) (r : Keyring) : (s.setRing k r).grids = s.grids := rfl
@[simp] theorem State.setRing_scheds (k : KrId) (r : Keyring) : (s.setRing k r).scheds = s.scheds := rfl
@[simp] theorem State.setRing_hubRot (k : KrId) (r : Keyring) : (s.setRing k r).hubRot = s.hubRot := rfl
@[simp] theorem State.setRing_jobs (k : KrId) (r : Keyring) : (s.setRing k r).jobs = s.jobs := rfl
@[simp] theorem State.setRing_saved (k : KrId) (r : Keyring) : (s.setRing k r).saved = s.saved := rfl
@[simp] theorem State.setRing_journal (k : KrId) (r : Keyring) : (s.setRing k r).journal = s.journal := rfl
@[simp] theorem State.setRing_replays (k : KrId) (r : Keyring) : (s.setRing k r).replays = s.replays := rfl
@[simp] theorem State.setRing_harts (k : KrId) (r : Keyring) : (s.setRing k r).harts = s.harts := rfl
@[simp] theorem State.setRing_held (k : KrId) (r : Keyring) : (s.setRing k r).held = s.held := rfl
@[simp] theorem State.setRing_handles (k : KrId) (r : Keyring) : (s.setRing k r).handles = s.handles := rfl
@[simp] theorem State.setRing_gens (k : KrId) (r : Keyring) : (s.setRing k r).gens = s.gens := rfl
@[simp] theorem State.setRing_cmds (k : KrId) (r : Keyring) : (s.setRing k r).cmds = s.cmds := rfl
@[simp] theorem State.setRing_hubUp (k : KrId) (r : Keyring) : (s.setRing k r).hubUp = s.hubUp := rfl
@[simp] theorem State.setRing_sext (k : KrId) (r : Keyring) : (s.setRing k r).sext = s.sext := rfl
@[simp] theorem State.setRing_tildors (k : KrId) (r : Keyring) : (s.setRing k r).tildors = s.tildors := rfl
@[simp] theorem State.setRing_domain (k : KrId) (r : Keyring) : (s.setRing k r).domain = s.domain := rfl
@[simp] theorem State.setRing_standby (k : KrId) (r : Keyring) : (s.setRing k r).standby = s.standby := rfl
@[simp] theorem State.setRing_map2 (k : KrId) (r : Keyring) : (s.setRing k r).map2 = s.map2 := rfl
@[simp] theorem State.setRing_map1 (k : KrId) (r : Keyring) : (s.setRing k r).map1 = s.map1 := rfl
@[simp] theorem State.setRing_agenda (k : KrId) (r : Keyring) : (s.setRing k r).agenda = s.agenda := rfl
@[simp] theorem State.setRing_turn (k : KrId) (r : Keyring) : (s.setRing k r).turn = s.turn := rfl
@[simp] theorem State.setRing_cur (k : KrId) (r : Keyring) : (s.setRing k r).cur = s.cur := rfl
@[simp] theorem State.setRing_curHart (k : KrId) (r : Keyring) : (s.setRing k r).curHart = s.curHart := rfl
@[simp] theorem State.setRing_freeCtr (k : KrId) (r : Keyring) : (s.setRing k r).freeCtr = s.freeCtr := rfl
@[simp] theorem State.setRing_uid (k : KrId) (r : Keyring) : (s.setRing k r).uid = s.uid := rfl

/-! ### modRing -/

@[simp] theorem State.modRing_waves (k : KrId) (f : Keyring → Keyring) : (s.modRing k f).waves = s.waves := rfl
@[simp] theorem State.modRing_teams (k : KrId) (f : Keyring → Keyring) : (s.modRing k f).teams = s.teams := rfl
@[simp] theorem State.modRing_pipes (k : KrId) (f : Keyring → Keyring) : (s.modRing k f).pipes = s.pipes := rfl
@[simp] theorem State.modRing_ctxs (k : KrId) (f : Keyring → Keyring) : (s.modRing k f).ctxs = s.ctxs := rfl
@[simp] theorem State.modRing_nrgs (k : KrId) (f : Keyring → Keyring) : (s.modRing k f).nrgs = s.nrgs := rfl
@[simp] theorem State.modRing_keyrings (k : KrId) (f : Keyring → Keyring) : (s.modRing k f).keyrings = assocSet s.keyrings k (f (s.ring k)) := rfl
@[simp] theorem State.modRing_flights (k : KrId) (f : Keyring → Keyring) : (s.modRing k f).flights = s.flights := rfl
@[simp] theorem State.modRing_mem (k : KrId) (f : Keyring → Keyring) : (s.modRing k f).mem = s.mem := rfl
@[simp] theorem State.modRing_bad (k : KrId) (f : Keyring → Keyring) : (s.modRing k f).bad = s.bad := rfl
@[simp] theorem State.modRing_errs (k : KrId) (f : Keyring → Keyring) : (s.modRing k f).errs = s.errs := rfl
@[simp] theorem State.modRing_lost (k : KrId) (f : Keyring → Keyring) : (s.modRing k f).lost = s.lost := rfl
@[simp] theorem State.modRing_l1 (k : KrId) (f : Keyring → Keyring) : (s.modRing k f).l1 = s.l1 := rfl
@[simp] theorem State.modRing_l2 (k : KrId) (f : Keyring → Keyring) : (s.modRing k f).l2 = s.l2 := rfl
@[simp] theorem State.modRing_ro (k : KrId) (f : Keyring → Keyring) : (s.modRing k f).ro = s.ro := rfl
@[simp] theorem State.modRing_icache (k : KrId) (f : Keyring → Keyring) : (s.modRing k f).icache = s.icache := rfl
@[simp] theorem State.modRing_tlb (k : KrId) (f : Keyring → Keyring) : (s.modRing k f).tlb = s.tlb := rfl
@[simp] theorem State.modRing_migrations (k : KrId) (f : Keyring → Keyring) : (s.modRing k f).migrations = s.migrations := rfl
@[simp] theorem State.modRing_expands (k : KrId) (f : Keyring → Keyring) : (s.modRing k f).expands = s.expands := rfl
@[simp] theorem State.modRing_pkgid (k : KrId) (f : Keyring → Keyring) : (s.modRing k f).pkgid = s.pkgid := rfl
@[simp] theorem State.modRing_fenced (k : KrId) (f : Keyring → Keyring) : (s.modRing k f).fenced = s.fenced := rfl
@[simp] theorem State.modRing_running (k : KrId) (f : Keyring → Keyring) : (s.modRing k f).running = s.running := rfl
@[simp] theorem State.modRing_dies (k : KrId) (f : Keyring → Keyring) : (s.modRing k f).dies = s.dies := rfl
@[simp] theorem State.modRing_clusters (k : KrId) (f : Keyring → Keyring) : (s.modRing k f).clusters = s.clusters := rfl
@[simp] theorem State.modRing_resvs (k : KrId) (f : Keyring → Keyring) : (s.modRing k f).resvs = s.resvs := rfl
@[simp] theorem State.modRing_grids (k : KrId) (f : Keyring → Keyring) : (s.modRing k f).grids = s.grids := rfl
@[simp] theorem State.modRing_scheds (k : KrId) (f : Keyring → Keyring) : (s.modRing k f).scheds = s.scheds := rfl
@[simp] theorem State.modRing_hubRot (k : KrId) (f : Keyring → Keyring) : (s.modRing k f).hubRot = s.hubRot := rfl
@[simp] theorem State.modRing_jobs (k : KrId) (f : Keyring → Keyring) : (s.modRing k f).jobs = s.jobs := rfl
@[simp] theorem State.modRing_saved (k : KrId) (f : Keyring → Keyring) : (s.modRing k f).saved = s.saved := rfl
@[simp] theorem State.modRing_journal (k : KrId) (f : Keyring → Keyring) : (s.modRing k f).journal = s.journal := rfl
@[simp] theorem State.modRing_replays (k : KrId) (f : Keyring → Keyring) : (s.modRing k f).replays = s.replays := rfl
@[simp] theorem State.modRing_harts (k : KrId) (f : Keyring → Keyring) : (s.modRing k f).harts = s.harts := rfl
@[simp] theorem State.modRing_held (k : KrId) (f : Keyring → Keyring) : (s.modRing k f).held = s.held := rfl
@[simp] theorem State.modRing_handles (k : KrId) (f : Keyring → Keyring) : (s.modRing k f).handles = s.handles := rfl
@[simp] theorem State.modRing_gens (k : KrId) (f : Keyring → Keyring) : (s.modRing k f).gens = s.gens := rfl
@[simp] theorem State.modRing_cmds (k : KrId) (f : Keyring → Keyring) : (s.modRing k f).cmds = s.cmds := rfl
@[simp] theorem State.modRing_hubUp (k : KrId) (f : Keyring → Keyring) : (s.modRing k f).hubUp = s.hubUp := rfl
@[simp] theorem State.modRing_sext (k : KrId) (f : Keyring → Keyring) : (s.modRing k f).sext = s.sext := rfl
@[simp] theorem State.modRing_tildors (k : KrId) (f : Keyring → Keyring) : (s.modRing k f).tildors = s.tildors := rfl
@[simp] theorem State.modRing_domain (k : KrId) (f : Keyring → Keyring) : (s.modRing k f).domain = s.domain := rfl
@[simp] theorem State.modRing_standby (k : KrId) (f : Keyring → Keyring) : (s.modRing k f).standby = s.standby := rfl
@[simp] theorem State.modRing_map2 (k : KrId) (f : Keyring → Keyring) : (s.modRing k f).map2 = s.map2 := rfl
@[simp] theorem State.modRing_map1 (k : KrId) (f : Keyring → Keyring) : (s.modRing k f).map1 = s.map1 := rfl
@[simp] theorem State.modRing_agenda (k : KrId) (f : Keyring → Keyring) : (s.modRing k f).agenda = s.agenda := rfl
@[simp] theorem State.modRing_turn (k : KrId) (f : Keyring → Keyring) : (s.modRing k f).turn = s.turn := rfl
@[simp] theorem State.modRing_cur (k : KrId) (f : Keyring → Keyring) : (s.modRing k f).cur = s.cur := rfl
@[simp] theorem State.modRing_curHart (k : KrId) (f : Keyring → Keyring) : (s.modRing k f).curHart = s.curHart := rfl
@[simp] theorem State.modRing_freeCtr (k : KrId) (f : Keyring → Keyring) : (s.modRing k f).freeCtr = s.freeCtr := rfl
@[simp] theorem State.modRing_uid (k : KrId) (f : Keyring → Keyring) : (s.modRing k f).uid = s.uid := rfl

/-! ### modDie -/

@[simp] theorem State.modDie_waves (n : Nat) (f : Die → Die) : (s.modDie n f).waves = s.waves := rfl
@[simp] theorem State.modDie_teams (n : Nat) (f : Die → Die) : (s.modDie n f).teams = s.teams := rfl
@[simp] theorem State.modDie_pipes (n : Nat) (f : Die → Die) : (s.modDie n f).pipes = s.pipes := rfl
@[simp] theorem State.modDie_ctxs (n : Nat) (f : Die → Die) : (s.modDie n f).ctxs = s.ctxs := rfl
@[simp] theorem State.modDie_nrgs (n : Nat) (f : Die → Die) : (s.modDie n f).nrgs = s.nrgs := rfl
@[simp] theorem State.modDie_keyrings (n : Nat) (f : Die → Die) : (s.modDie n f).keyrings = s.keyrings := rfl
@[simp] theorem State.modDie_flights (n : Nat) (f : Die → Die) : (s.modDie n f).flights = s.flights := rfl
@[simp] theorem State.modDie_mem (n : Nat) (f : Die → Die) : (s.modDie n f).mem = s.mem := rfl
@[simp] theorem State.modDie_bad (n : Nat) (f : Die → Die) : (s.modDie n f).bad = s.bad := rfl
@[simp] theorem State.modDie_errs (n : Nat) (f : Die → Die) : (s.modDie n f).errs = s.errs := rfl
@[simp] theorem State.modDie_lost (n : Nat) (f : Die → Die) : (s.modDie n f).lost = s.lost := rfl
@[simp] theorem State.modDie_l1 (n : Nat) (f : Die → Die) : (s.modDie n f).l1 = s.l1 := rfl
@[simp] theorem State.modDie_l2 (n : Nat) (f : Die → Die) : (s.modDie n f).l2 = s.l2 := rfl
@[simp] theorem State.modDie_ro (n : Nat) (f : Die → Die) : (s.modDie n f).ro = s.ro := rfl
@[simp] theorem State.modDie_icache (n : Nat) (f : Die → Die) : (s.modDie n f).icache = s.icache := rfl
@[simp] theorem State.modDie_tlb (n : Nat) (f : Die → Die) : (s.modDie n f).tlb = s.tlb := rfl
@[simp] theorem State.modDie_migrations (n : Nat) (f : Die → Die) : (s.modDie n f).migrations = s.migrations := rfl
@[simp] theorem State.modDie_expands (n : Nat) (f : Die → Die) : (s.modDie n f).expands = s.expands := rfl
@[simp] theorem State.modDie_pkgid (n : Nat) (f : Die → Die) : (s.modDie n f).pkgid = s.pkgid := rfl
@[simp] theorem State.modDie_fenced (n : Nat) (f : Die → Die) : (s.modDie n f).fenced = s.fenced := rfl
@[simp] theorem State.modDie_running (n : Nat) (f : Die → Die) : (s.modDie n f).running = s.running := rfl
@[simp] theorem State.modDie_dies (n : Nat) (f : Die → Die) : (s.modDie n f).dies = assocSet s.dies n (f (s.die n)) := rfl
@[simp] theorem State.modDie_clusters (n : Nat) (f : Die → Die) : (s.modDie n f).clusters = s.clusters := rfl
@[simp] theorem State.modDie_resvs (n : Nat) (f : Die → Die) : (s.modDie n f).resvs = s.resvs := rfl
@[simp] theorem State.modDie_grids (n : Nat) (f : Die → Die) : (s.modDie n f).grids = s.grids := rfl
@[simp] theorem State.modDie_scheds (n : Nat) (f : Die → Die) : (s.modDie n f).scheds = s.scheds := rfl
@[simp] theorem State.modDie_hubRot (n : Nat) (f : Die → Die) : (s.modDie n f).hubRot = s.hubRot := rfl
@[simp] theorem State.modDie_jobs (n : Nat) (f : Die → Die) : (s.modDie n f).jobs = s.jobs := rfl
@[simp] theorem State.modDie_saved (n : Nat) (f : Die → Die) : (s.modDie n f).saved = s.saved := rfl
@[simp] theorem State.modDie_journal (n : Nat) (f : Die → Die) : (s.modDie n f).journal = s.journal := rfl
@[simp] theorem State.modDie_replays (n : Nat) (f : Die → Die) : (s.modDie n f).replays = s.replays := rfl
@[simp] theorem State.modDie_harts (n : Nat) (f : Die → Die) : (s.modDie n f).harts = s.harts := rfl
@[simp] theorem State.modDie_held (n : Nat) (f : Die → Die) : (s.modDie n f).held = s.held := rfl
@[simp] theorem State.modDie_handles (n : Nat) (f : Die → Die) : (s.modDie n f).handles = s.handles := rfl
@[simp] theorem State.modDie_gens (n : Nat) (f : Die → Die) : (s.modDie n f).gens = s.gens := rfl
@[simp] theorem State.modDie_cmds (n : Nat) (f : Die → Die) : (s.modDie n f).cmds = s.cmds := rfl
@[simp] theorem State.modDie_hubUp (n : Nat) (f : Die → Die) : (s.modDie n f).hubUp = s.hubUp := rfl
@[simp] theorem State.modDie_sext (n : Nat) (f : Die → Die) : (s.modDie n f).sext = s.sext := rfl
@[simp] theorem State.modDie_tildors (n : Nat) (f : Die → Die) : (s.modDie n f).tildors = s.tildors := rfl
@[simp] theorem State.modDie_domain (n : Nat) (f : Die → Die) : (s.modDie n f).domain = s.domain := rfl
@[simp] theorem State.modDie_standby (n : Nat) (f : Die → Die) : (s.modDie n f).standby = s.standby := rfl
@[simp] theorem State.modDie_map2 (n : Nat) (f : Die → Die) : (s.modDie n f).map2 = s.map2 := rfl
@[simp] theorem State.modDie_map1 (n : Nat) (f : Die → Die) : (s.modDie n f).map1 = s.map1 := rfl
@[simp] theorem State.modDie_agenda (n : Nat) (f : Die → Die) : (s.modDie n f).agenda = s.agenda := rfl
@[simp] theorem State.modDie_turn (n : Nat) (f : Die → Die) : (s.modDie n f).turn = s.turn := rfl
@[simp] theorem State.modDie_cur (n : Nat) (f : Die → Die) : (s.modDie n f).cur = s.cur := rfl
@[simp] theorem State.modDie_curHart (n : Nat) (f : Die → Die) : (s.modDie n f).curHart = s.curHart := rfl
@[simp] theorem State.modDie_freeCtr (n : Nat) (f : Die → Die) : (s.modDie n f).freeCtr = s.freeCtr := rfl
@[simp] theorem State.modDie_uid (n : Nat) (f : Die → Die) : (s.modDie n f).uid = s.uid := rfl

/-! ### modSext -/

@[simp] theorem State.modSext_waves (f : Sextant → Sextant) : (s.modSext f).waves = s.waves := rfl
@[simp] theorem State.modSext_teams (f : Sextant → Sextant) : (s.modSext f).teams = s.teams := rfl
@[simp] theorem State.modSext_pipes (f : Sextant → Sextant) : (s.modSext f).pipes = s.pipes := rfl
@[simp] theorem State.modSext_ctxs (f : Sextant → Sextant) : (s.modSext f).ctxs = s.ctxs := rfl
@[simp] theorem State.modSext_nrgs (f : Sextant → Sextant) : (s.modSext f).nrgs = s.nrgs := rfl
@[simp] theorem State.modSext_keyrings (f : Sextant → Sextant) : (s.modSext f).keyrings = s.keyrings := rfl
@[simp] theorem State.modSext_flights (f : Sextant → Sextant) : (s.modSext f).flights = s.flights := rfl
@[simp] theorem State.modSext_mem (f : Sextant → Sextant) : (s.modSext f).mem = s.mem := rfl
@[simp] theorem State.modSext_bad (f : Sextant → Sextant) : (s.modSext f).bad = s.bad := rfl
@[simp] theorem State.modSext_errs (f : Sextant → Sextant) : (s.modSext f).errs = s.errs := rfl
@[simp] theorem State.modSext_lost (f : Sextant → Sextant) : (s.modSext f).lost = s.lost := rfl
@[simp] theorem State.modSext_l1 (f : Sextant → Sextant) : (s.modSext f).l1 = s.l1 := rfl
@[simp] theorem State.modSext_l2 (f : Sextant → Sextant) : (s.modSext f).l2 = s.l2 := rfl
@[simp] theorem State.modSext_ro (f : Sextant → Sextant) : (s.modSext f).ro = s.ro := rfl
@[simp] theorem State.modSext_icache (f : Sextant → Sextant) : (s.modSext f).icache = s.icache := rfl
@[simp] theorem State.modSext_tlb (f : Sextant → Sextant) : (s.modSext f).tlb = s.tlb := rfl
@[simp] theorem State.modSext_migrations (f : Sextant → Sextant) : (s.modSext f).migrations = s.migrations := rfl
@[simp] theorem State.modSext_expands (f : Sextant → Sextant) : (s.modSext f).expands = s.expands := rfl
@[simp] theorem State.modSext_pkgid (f : Sextant → Sextant) : (s.modSext f).pkgid = s.pkgid := rfl
@[simp] theorem State.modSext_fenced (f : Sextant → Sextant) : (s.modSext f).fenced = s.fenced := rfl
@[simp] theorem State.modSext_running (f : Sextant → Sextant) : (s.modSext f).running = s.running := rfl
@[simp] theorem State.modSext_dies (f : Sextant → Sextant) : (s.modSext f).dies = s.dies := rfl
@[simp] theorem State.modSext_clusters (f : Sextant → Sextant) : (s.modSext f).clusters = s.clusters := rfl
@[simp] theorem State.modSext_resvs (f : Sextant → Sextant) : (s.modSext f).resvs = s.resvs := rfl
@[simp] theorem State.modSext_grids (f : Sextant → Sextant) : (s.modSext f).grids = s.grids := rfl
@[simp] theorem State.modSext_scheds (f : Sextant → Sextant) : (s.modSext f).scheds = s.scheds := rfl
@[simp] theorem State.modSext_hubRot (f : Sextant → Sextant) : (s.modSext f).hubRot = s.hubRot := rfl
@[simp] theorem State.modSext_jobs (f : Sextant → Sextant) : (s.modSext f).jobs = s.jobs := rfl
@[simp] theorem State.modSext_saved (f : Sextant → Sextant) : (s.modSext f).saved = s.saved := rfl
@[simp] theorem State.modSext_journal (f : Sextant → Sextant) : (s.modSext f).journal = s.journal := rfl
@[simp] theorem State.modSext_replays (f : Sextant → Sextant) : (s.modSext f).replays = s.replays := rfl
@[simp] theorem State.modSext_harts (f : Sextant → Sextant) : (s.modSext f).harts = s.harts := rfl
@[simp] theorem State.modSext_held (f : Sextant → Sextant) : (s.modSext f).held = s.held := rfl
@[simp] theorem State.modSext_handles (f : Sextant → Sextant) : (s.modSext f).handles = s.handles := rfl
@[simp] theorem State.modSext_gens (f : Sextant → Sextant) : (s.modSext f).gens = s.gens := rfl
@[simp] theorem State.modSext_cmds (f : Sextant → Sextant) : (s.modSext f).cmds = s.cmds := rfl
@[simp] theorem State.modSext_hubUp (f : Sextant → Sextant) : (s.modSext f).hubUp = s.hubUp := rfl
@[simp] theorem State.modSext_sext (f : Sextant → Sextant) : (s.modSext f).sext = f s.sext := rfl
@[simp] theorem State.modSext_tildors (f : Sextant → Sextant) : (s.modSext f).tildors = s.tildors := rfl
@[simp] theorem State.modSext_domain (f : Sextant → Sextant) : (s.modSext f).domain = s.domain := rfl
@[simp] theorem State.modSext_standby (f : Sextant → Sextant) : (s.modSext f).standby = s.standby := rfl
@[simp] theorem State.modSext_map2 (f : Sextant → Sextant) : (s.modSext f).map2 = s.map2 := rfl
@[simp] theorem State.modSext_map1 (f : Sextant → Sextant) : (s.modSext f).map1 = s.map1 := rfl
@[simp] theorem State.modSext_agenda (f : Sextant → Sextant) : (s.modSext f).agenda = s.agenda := rfl
@[simp] theorem State.modSext_turn (f : Sextant → Sextant) : (s.modSext f).turn = s.turn := rfl
@[simp] theorem State.modSext_cur (f : Sextant → Sextant) : (s.modSext f).cur = s.cur := rfl
@[simp] theorem State.modSext_curHart (f : Sextant → Sextant) : (s.modSext f).curHart = s.curHart := rfl
@[simp] theorem State.modSext_freeCtr (f : Sextant → Sextant) : (s.modSext f).freeCtr = s.freeCtr := rfl
@[simp] theorem State.modSext_uid (f : Sextant → Sextant) : (s.modSext f).uid = s.uid := rfl

/-! ### modGrid -/

@[simp] theorem State.modGrid_waves (g : Nat) (f : Grid → Grid) : (s.modGrid g f).waves = s.waves := rfl
@[simp] theorem State.modGrid_teams (g : Nat) (f : Grid → Grid) : (s.modGrid g f).teams = s.teams := rfl
@[simp] theorem State.modGrid_pipes (g : Nat) (f : Grid → Grid) : (s.modGrid g f).pipes = s.pipes := rfl
@[simp] theorem State.modGrid_ctxs (g : Nat) (f : Grid → Grid) : (s.modGrid g f).ctxs = s.ctxs := rfl
@[simp] theorem State.modGrid_nrgs (g : Nat) (f : Grid → Grid) : (s.modGrid g f).nrgs = s.nrgs := rfl
@[simp] theorem State.modGrid_keyrings (g : Nat) (f : Grid → Grid) : (s.modGrid g f).keyrings = s.keyrings := rfl
@[simp] theorem State.modGrid_flights (g : Nat) (f : Grid → Grid) : (s.modGrid g f).flights = s.flights := rfl
@[simp] theorem State.modGrid_mem (g : Nat) (f : Grid → Grid) : (s.modGrid g f).mem = s.mem := rfl
@[simp] theorem State.modGrid_bad (g : Nat) (f : Grid → Grid) : (s.modGrid g f).bad = s.bad := rfl
@[simp] theorem State.modGrid_errs (g : Nat) (f : Grid → Grid) : (s.modGrid g f).errs = s.errs := rfl
@[simp] theorem State.modGrid_lost (g : Nat) (f : Grid → Grid) : (s.modGrid g f).lost = s.lost := rfl
@[simp] theorem State.modGrid_l1 (g : Nat) (f : Grid → Grid) : (s.modGrid g f).l1 = s.l1 := rfl
@[simp] theorem State.modGrid_l2 (g : Nat) (f : Grid → Grid) : (s.modGrid g f).l2 = s.l2 := rfl
@[simp] theorem State.modGrid_ro (g : Nat) (f : Grid → Grid) : (s.modGrid g f).ro = s.ro := rfl
@[simp] theorem State.modGrid_icache (g : Nat) (f : Grid → Grid) : (s.modGrid g f).icache = s.icache := rfl
@[simp] theorem State.modGrid_tlb (g : Nat) (f : Grid → Grid) : (s.modGrid g f).tlb = s.tlb := rfl
@[simp] theorem State.modGrid_migrations (g : Nat) (f : Grid → Grid) : (s.modGrid g f).migrations = s.migrations := rfl
@[simp] theorem State.modGrid_expands (g : Nat) (f : Grid → Grid) : (s.modGrid g f).expands = s.expands := rfl
@[simp] theorem State.modGrid_pkgid (g : Nat) (f : Grid → Grid) : (s.modGrid g f).pkgid = s.pkgid := rfl
@[simp] theorem State.modGrid_fenced (g : Nat) (f : Grid → Grid) : (s.modGrid g f).fenced = s.fenced := rfl
@[simp] theorem State.modGrid_running (g : Nat) (f : Grid → Grid) : (s.modGrid g f).running = s.running := rfl
@[simp] theorem State.modGrid_dies (g : Nat) (f : Grid → Grid) : (s.modGrid g f).dies = s.dies := rfl
@[simp] theorem State.modGrid_clusters (g : Nat) (f : Grid → Grid) : (s.modGrid g f).clusters = s.clusters := rfl
@[simp] theorem State.modGrid_resvs (g : Nat) (f : Grid → Grid) : (s.modGrid g f).resvs = s.resvs := rfl
@[simp] theorem State.modGrid_grids (g : Nat) (f : Grid → Grid) : (s.modGrid g f).grids = s.grids.map fun x => if x.uid == g then f x else x := rfl
@[simp] theorem State.modGrid_scheds (g : Nat) (f : Grid → Grid) : (s.modGrid g f).scheds = s.scheds := rfl
@[simp] theorem State.modGrid_hubRot (g : Nat) (f : Grid → Grid) : (s.modGrid g f).hubRot = s.hubRot := rfl
@[simp] theorem State.modGrid_jobs (g : Nat) (f : Grid → Grid) : (s.modGrid g f).jobs = s.jobs := rfl
@[simp] theorem State.modGrid_saved (g : Nat) (f : Grid → Grid) : (s.modGrid g f).saved = s.saved := rfl
@[simp] theorem State.modGrid_journal (g : Nat) (f : Grid → Grid) : (s.modGrid g f).journal = s.journal := rfl
@[simp] theorem State.modGrid_replays (g : Nat) (f : Grid → Grid) : (s.modGrid g f).replays = s.replays := rfl
@[simp] theorem State.modGrid_harts (g : Nat) (f : Grid → Grid) : (s.modGrid g f).harts = s.harts := rfl
@[simp] theorem State.modGrid_held (g : Nat) (f : Grid → Grid) : (s.modGrid g f).held = s.held := rfl
@[simp] theorem State.modGrid_handles (g : Nat) (f : Grid → Grid) : (s.modGrid g f).handles = s.handles := rfl
@[simp] theorem State.modGrid_gens (g : Nat) (f : Grid → Grid) : (s.modGrid g f).gens = s.gens := rfl
@[simp] theorem State.modGrid_cmds (g : Nat) (f : Grid → Grid) : (s.modGrid g f).cmds = s.cmds := rfl
@[simp] theorem State.modGrid_hubUp (g : Nat) (f : Grid → Grid) : (s.modGrid g f).hubUp = s.hubUp := rfl
@[simp] theorem State.modGrid_sext (g : Nat) (f : Grid → Grid) : (s.modGrid g f).sext = s.sext := rfl
@[simp] theorem State.modGrid_tildors (g : Nat) (f : Grid → Grid) : (s.modGrid g f).tildors = s.tildors := rfl
@[simp] theorem State.modGrid_domain (g : Nat) (f : Grid → Grid) : (s.modGrid g f).domain = s.domain := rfl
@[simp] theorem State.modGrid_standby (g : Nat) (f : Grid → Grid) : (s.modGrid g f).standby = s.standby := rfl
@[simp] theorem State.modGrid_map2 (g : Nat) (f : Grid → Grid) : (s.modGrid g f).map2 = s.map2 := rfl
@[simp] theorem State.modGrid_map1 (g : Nat) (f : Grid → Grid) : (s.modGrid g f).map1 = s.map1 := rfl
@[simp] theorem State.modGrid_agenda (g : Nat) (f : Grid → Grid) : (s.modGrid g f).agenda = s.agenda := rfl
@[simp] theorem State.modGrid_turn (g : Nat) (f : Grid → Grid) : (s.modGrid g f).turn = s.turn := rfl
@[simp] theorem State.modGrid_cur (g : Nat) (f : Grid → Grid) : (s.modGrid g f).cur = s.cur := rfl
@[simp] theorem State.modGrid_curHart (g : Nat) (f : Grid → Grid) : (s.modGrid g f).curHart = s.curHart := rfl
@[simp] theorem State.modGrid_freeCtr (g : Nat) (f : Grid → Grid) : (s.modGrid g f).freeCtr = s.freeCtr := rfl
@[simp] theorem State.modGrid_uid (g : Nat) (f : Grid → Grid) : (s.modGrid g f).uid = s.uid := rfl

/-! ### modJob -/

@[simp] theorem State.modJob_waves (k : Nat) (f : Job → Job) : (s.modJob k f).waves = s.waves := rfl
@[simp] theorem State.modJob_teams (k : Nat) (f : Job → Job) : (s.modJob k f).teams = s.teams := rfl
@[simp] theorem State.modJob_pipes (k : Nat) (f : Job → Job) : (s.modJob k f).pipes = s.pipes := rfl
@[simp] theorem State.modJob_ctxs (k : Nat) (f : Job → Job) : (s.modJob k f).ctxs = s.ctxs := rfl
@[simp] theorem State.modJob_nrgs (k : Nat) (f : Job → Job) : (s.modJob k f).nrgs = s.nrgs := rfl
@[simp] theorem State.modJob_keyrings (k : Nat) (f : Job → Job) : (s.modJob k f).keyrings = s.keyrings := rfl
@[simp] theorem State.modJob_flights (k : Nat) (f : Job → Job) : (s.modJob k f).flights = s.flights := rfl
@[simp] theorem State.modJob_mem (k : Nat) (f : Job → Job) : (s.modJob k f).mem = s.mem := rfl
@[simp] theorem State.modJob_bad (k : Nat) (f : Job → Job) : (s.modJob k f).bad = s.bad := rfl
@[simp] theorem State.modJob_errs (k : Nat) (f : Job → Job) : (s.modJob k f).errs = s.errs := rfl
@[simp] theorem State.modJob_lost (k : Nat) (f : Job → Job) : (s.modJob k f).lost = s.lost := rfl
@[simp] theorem State.modJob_l1 (k : Nat) (f : Job → Job) : (s.modJob k f).l1 = s.l1 := rfl
@[simp] theorem State.modJob_l2 (k : Nat) (f : Job → Job) : (s.modJob k f).l2 = s.l2 := rfl
@[simp] theorem State.modJob_ro (k : Nat) (f : Job → Job) : (s.modJob k f).ro = s.ro := rfl
@[simp] theorem State.modJob_icache (k : Nat) (f : Job → Job) : (s.modJob k f).icache = s.icache := rfl
@[simp] theorem State.modJob_tlb (k : Nat) (f : Job → Job) : (s.modJob k f).tlb = s.tlb := rfl
@[simp] theorem State.modJob_migrations (k : Nat) (f : Job → Job) : (s.modJob k f).migrations = s.migrations := rfl
@[simp] theorem State.modJob_expands (k : Nat) (f : Job → Job) : (s.modJob k f).expands = s.expands := rfl
@[simp] theorem State.modJob_pkgid (k : Nat) (f : Job → Job) : (s.modJob k f).pkgid = s.pkgid := rfl
@[simp] theorem State.modJob_fenced (k : Nat) (f : Job → Job) : (s.modJob k f).fenced = s.fenced := rfl
@[simp] theorem State.modJob_running (k : Nat) (f : Job → Job) : (s.modJob k f).running = s.running := rfl
@[simp] theorem State.modJob_dies (k : Nat) (f : Job → Job) : (s.modJob k f).dies = s.dies := rfl
@[simp] theorem State.modJob_clusters (k : Nat) (f : Job → Job) : (s.modJob k f).clusters = s.clusters := rfl
@[simp] theorem State.modJob_resvs (k : Nat) (f : Job → Job) : (s.modJob k f).resvs = s.resvs := rfl
@[simp] theorem State.modJob_grids (k : Nat) (f : Job → Job) : (s.modJob k f).grids = s.grids := rfl
@[simp] theorem State.modJob_scheds (k : Nat) (f : Job → Job) : (s.modJob k f).scheds = s.scheds := rfl
@[simp] theorem State.modJob_hubRot (k : Nat) (f : Job → Job) : (s.modJob k f).hubRot = s.hubRot := rfl
@[simp] theorem State.modJob_jobs (k : Nat) (f : Job → Job) : (s.modJob k f).jobs = s.jobs.map fun j => if j.k == k then f j else j := rfl
@[simp] theorem State.modJob_saved (k : Nat) (f : Job → Job) : (s.modJob k f).saved = s.saved := rfl
@[simp] theorem State.modJob_journal (k : Nat) (f : Job → Job) : (s.modJob k f).journal = s.journal := rfl
@[simp] theorem State.modJob_replays (k : Nat) (f : Job → Job) : (s.modJob k f).replays = s.replays := rfl
@[simp] theorem State.modJob_harts (k : Nat) (f : Job → Job) : (s.modJob k f).harts = s.harts := rfl
@[simp] theorem State.modJob_held (k : Nat) (f : Job → Job) : (s.modJob k f).held = s.held := rfl
@[simp] theorem State.modJob_handles (k : Nat) (f : Job → Job) : (s.modJob k f).handles = s.handles := rfl
@[simp] theorem State.modJob_gens (k : Nat) (f : Job → Job) : (s.modJob k f).gens = s.gens := rfl
@[simp] theorem State.modJob_cmds (k : Nat) (f : Job → Job) : (s.modJob k f).cmds = s.cmds := rfl
@[simp] theorem State.modJob_hubUp (k : Nat) (f : Job → Job) : (s.modJob k f).hubUp = s.hubUp := rfl
@[simp] theorem State.modJob_sext (k : Nat) (f : Job → Job) : (s.modJob k f).sext = s.sext := rfl
@[simp] theorem State.modJob_tildors (k : Nat) (f : Job → Job) : (s.modJob k f).tildors = s.tildors := rfl
@[simp] theorem State.modJob_domain (k : Nat) (f : Job → Job) : (s.modJob k f).domain = s.domain := rfl
@[simp] theorem State.modJob_standby (k : Nat) (f : Job → Job) : (s.modJob k f).standby = s.standby := rfl
@[simp] theorem State.modJob_map2 (k : Nat) (f : Job → Job) : (s.modJob k f).map2 = s.map2 := rfl
@[simp] theorem State.modJob_map1 (k : Nat) (f : Job → Job) : (s.modJob k f).map1 = s.map1 := rfl
@[simp] theorem State.modJob_agenda (k : Nat) (f : Job → Job) : (s.modJob k f).agenda = s.agenda := rfl
@[simp] theorem State.modJob_turn (k : Nat) (f : Job → Job) : (s.modJob k f).turn = s.turn := rfl
@[simp] theorem State.modJob_cur (k : Nat) (f : Job → Job) : (s.modJob k f).cur = s.cur := rfl
@[simp] theorem State.modJob_curHart (k : Nat) (f : Job → Job) : (s.modJob k f).curHart = s.curHart := rfl
@[simp] theorem State.modJob_freeCtr (k : Nat) (f : Job → Job) : (s.modJob k f).freeCtr = s.freeCtr := rfl
@[simp] theorem State.modJob_uid (k : Nat) (f : Job → Job) : (s.modJob k f).uid = s.uid := rfl

/-! ### modHart -/

@[simp] theorem State.modHart_waves (h : Nat) (f : Hart → Hart) : (s.modHart h f).waves = s.waves := rfl
@[simp] theorem State.modHart_teams (h : Nat) (f : Hart → Hart) : (s.modHart h f).teams = s.teams := rfl
@[simp] theorem State.modHart_pipes (h : Nat) (f : Hart → Hart) : (s.modHart h f).pipes = s.pipes := rfl
@[simp] theorem State.modHart_ctxs (h : Nat) (f : Hart → Hart) : (s.modHart h f).ctxs = s.ctxs := rfl
@[simp] theorem State.modHart_nrgs (h : Nat) (f : Hart → Hart) : (s.modHart h f).nrgs = s.nrgs := rfl
@[simp] theorem State.modHart_keyrings (h : Nat) (f : Hart → Hart) : (s.modHart h f).keyrings = s.keyrings := rfl
@[simp] theorem State.modHart_flights (h : Nat) (f : Hart → Hart) : (s.modHart h f).flights = s.flights := rfl
@[simp] theorem State.modHart_mem (h : Nat) (f : Hart → Hart) : (s.modHart h f).mem = s.mem := rfl
@[simp] theorem State.modHart_bad (h : Nat) (f : Hart → Hart) : (s.modHart h f).bad = s.bad := rfl
@[simp] theorem State.modHart_errs (h : Nat) (f : Hart → Hart) : (s.modHart h f).errs = s.errs := rfl
@[simp] theorem State.modHart_lost (h : Nat) (f : Hart → Hart) : (s.modHart h f).lost = s.lost := rfl
@[simp] theorem State.modHart_l1 (h : Nat) (f : Hart → Hart) : (s.modHart h f).l1 = s.l1 := rfl
@[simp] theorem State.modHart_l2 (h : Nat) (f : Hart → Hart) : (s.modHart h f).l2 = s.l2 := rfl
@[simp] theorem State.modHart_ro (h : Nat) (f : Hart → Hart) : (s.modHart h f).ro = s.ro := rfl
@[simp] theorem State.modHart_icache (h : Nat) (f : Hart → Hart) : (s.modHart h f).icache = s.icache := rfl
@[simp] theorem State.modHart_tlb (h : Nat) (f : Hart → Hart) : (s.modHart h f).tlb = s.tlb := rfl
@[simp] theorem State.modHart_migrations (h : Nat) (f : Hart → Hart) : (s.modHart h f).migrations = s.migrations := rfl
@[simp] theorem State.modHart_expands (h : Nat) (f : Hart → Hart) : (s.modHart h f).expands = s.expands := rfl
@[simp] theorem State.modHart_pkgid (h : Nat) (f : Hart → Hart) : (s.modHart h f).pkgid = s.pkgid := rfl
@[simp] theorem State.modHart_fenced (h : Nat) (f : Hart → Hart) : (s.modHart h f).fenced = s.fenced := rfl
@[simp] theorem State.modHart_running (h : Nat) (f : Hart → Hart) : (s.modHart h f).running = s.running := rfl
@[simp] theorem State.modHart_dies (h : Nat) (f : Hart → Hart) : (s.modHart h f).dies = s.dies := rfl
@[simp] theorem State.modHart_clusters (h : Nat) (f : Hart → Hart) : (s.modHart h f).clusters = s.clusters := rfl
@[simp] theorem State.modHart_resvs (h : Nat) (f : Hart → Hart) : (s.modHart h f).resvs = s.resvs := rfl
@[simp] theorem State.modHart_grids (h : Nat) (f : Hart → Hart) : (s.modHart h f).grids = s.grids := rfl
@[simp] theorem State.modHart_scheds (h : Nat) (f : Hart → Hart) : (s.modHart h f).scheds = s.scheds := rfl
@[simp] theorem State.modHart_hubRot (h : Nat) (f : Hart → Hart) : (s.modHart h f).hubRot = s.hubRot := rfl
@[simp] theorem State.modHart_jobs (h : Nat) (f : Hart → Hart) : (s.modHart h f).jobs = s.jobs := rfl
@[simp] theorem State.modHart_saved (h : Nat) (f : Hart → Hart) : (s.modHart h f).saved = s.saved := rfl
@[simp] theorem State.modHart_journal (h : Nat) (f : Hart → Hart) : (s.modHart h f).journal = s.journal := rfl
@[simp] theorem State.modHart_replays (h : Nat) (f : Hart → Hart) : (s.modHart h f).replays = s.replays := rfl
@[simp] theorem State.modHart_harts (h : Nat) (f : Hart → Hart) : (s.modHart h f).harts = assocSet s.harts h (f (s.hart h)) := rfl
@[simp] theorem State.modHart_held (h : Nat) (f : Hart → Hart) : (s.modHart h f).held = s.held := rfl
@[simp] theorem State.modHart_handles (h : Nat) (f : Hart → Hart) : (s.modHart h f).handles = s.handles := rfl
@[simp] theorem State.modHart_gens (h : Nat) (f : Hart → Hart) : (s.modHart h f).gens = s.gens := rfl
@[simp] theorem State.modHart_cmds (h : Nat) (f : Hart → Hart) : (s.modHart h f).cmds = s.cmds := rfl
@[simp] theorem State.modHart_hubUp (h : Nat) (f : Hart → Hart) : (s.modHart h f).hubUp = s.hubUp := rfl
@[simp] theorem State.modHart_sext (h : Nat) (f : Hart → Hart) : (s.modHart h f).sext = s.sext := rfl
@[simp] theorem State.modHart_tildors (h : Nat) (f : Hart → Hart) : (s.modHart h f).tildors = s.tildors := rfl
@[simp] theorem State.modHart_domain (h : Nat) (f : Hart → Hart) : (s.modHart h f).domain = s.domain := rfl
@[simp] theorem State.modHart_standby (h : Nat) (f : Hart → Hart) : (s.modHart h f).standby = s.standby := rfl
@[simp] theorem State.modHart_map2 (h : Nat) (f : Hart → Hart) : (s.modHart h f).map2 = s.map2 := rfl
@[simp] theorem State.modHart_map1 (h : Nat) (f : Hart → Hart) : (s.modHart h f).map1 = s.map1 := rfl
@[simp] theorem State.modHart_agenda (h : Nat) (f : Hart → Hart) : (s.modHart h f).agenda = s.agenda := rfl
@[simp] theorem State.modHart_turn (h : Nat) (f : Hart → Hart) : (s.modHart h f).turn = s.turn := rfl
@[simp] theorem State.modHart_cur (h : Nat) (f : Hart → Hart) : (s.modHart h f).cur = s.cur := rfl
@[simp] theorem State.modHart_curHart (h : Nat) (f : Hart → Hart) : (s.modHart h f).curHart = s.curHart := rfl
@[simp] theorem State.modHart_freeCtr (h : Nat) (f : Hart → Hart) : (s.modHart h f).freeCtr = s.freeCtr := rfl
@[simp] theorem State.modHart_uid (h : Nat) (f : Hart → Hart) : (s.modHart h f).uid = s.uid := rfl

/-! ### modSched -/

@[simp] theorem State.modSched_waves (n : Nat) (f : Sched → Sched) : (s.modSched n f).waves = s.waves := rfl
@[simp] theorem State.modSched_teams (n : Nat) (f : Sched → Sched) : (s.modSched n f).teams = s.teams := rfl
@[simp] theorem State.modSched_pipes (n : Nat) (f : Sched → Sched) : (s.modSched n f).pipes = s.pipes := rfl
@[simp] theorem State.modSched_ctxs (n : Nat) (f : Sched → Sched) : (s.modSched n f).ctxs = s.ctxs := rfl
@[simp] theorem State.modSched_nrgs (n : Nat) (f : Sched → Sched) : (s.modSched n f).nrgs = s.nrgs := rfl
@[simp] theorem State.modSched_keyrings (n : Nat) (f : Sched → Sched) : (s.modSched n f).keyrings = s.keyrings := rfl
@[simp] theorem State.modSched_flights (n : Nat) (f : Sched → Sched) : (s.modSched n f).flights = s.flights := rfl
@[simp] theorem State.modSched_mem (n : Nat) (f : Sched → Sched) : (s.modSched n f).mem = s.mem := rfl
@[simp] theorem State.modSched_bad (n : Nat) (f : Sched → Sched) : (s.modSched n f).bad = s.bad := rfl
@[simp] theorem State.modSched_errs (n : Nat) (f : Sched → Sched) : (s.modSched n f).errs = s.errs := rfl
@[simp] theorem State.modSched_lost (n : Nat) (f : Sched → Sched) : (s.modSched n f).lost = s.lost := rfl
@[simp] theorem State.modSched_l1 (n : Nat) (f : Sched → Sched) : (s.modSched n f).l1 = s.l1 := rfl
@[simp] theorem State.modSched_l2 (n : Nat) (f : Sched → Sched) : (s.modSched n f).l2 = s.l2 := rfl
@[simp] theorem State.modSched_ro (n : Nat) (f : Sched → Sched) : (s.modSched n f).ro = s.ro := rfl
@[simp] theorem State.modSched_icache (n : Nat) (f : Sched → Sched) : (s.modSched n f).icache = s.icache := rfl
@[simp] theorem State.modSched_tlb (n : Nat) (f : Sched → Sched) : (s.modSched n f).tlb = s.tlb := rfl
@[simp] theorem State.modSched_migrations (n : Nat) (f : Sched → Sched) : (s.modSched n f).migrations = s.migrations := rfl
@[simp] theorem State.modSched_expands (n : Nat) (f : Sched → Sched) : (s.modSched n f).expands = s.expands := rfl
@[simp] theorem State.modSched_pkgid (n : Nat) (f : Sched → Sched) : (s.modSched n f).pkgid = s.pkgid := rfl
@[simp] theorem State.modSched_fenced (n : Nat) (f : Sched → Sched) : (s.modSched n f).fenced = s.fenced := rfl
@[simp] theorem State.modSched_running (n : Nat) (f : Sched → Sched) : (s.modSched n f).running = s.running := rfl
@[simp] theorem State.modSched_dies (n : Nat) (f : Sched → Sched) : (s.modSched n f).dies = s.dies := rfl
@[simp] theorem State.modSched_clusters (n : Nat) (f : Sched → Sched) : (s.modSched n f).clusters = s.clusters := rfl
@[simp] theorem State.modSched_resvs (n : Nat) (f : Sched → Sched) : (s.modSched n f).resvs = s.resvs := rfl
@[simp] theorem State.modSched_grids (n : Nat) (f : Sched → Sched) : (s.modSched n f).grids = s.grids := rfl
@[simp] theorem State.modSched_scheds (n : Nat) (f : Sched → Sched) : (s.modSched n f).scheds = assocSet s.scheds n (f (s.sched n)) := rfl
@[simp] theorem State.modSched_hubRot (n : Nat) (f : Sched → Sched) : (s.modSched n f).hubRot = s.hubRot := rfl
@[simp] theorem State.modSched_jobs (n : Nat) (f : Sched → Sched) : (s.modSched n f).jobs = s.jobs := rfl
@[simp] theorem State.modSched_saved (n : Nat) (f : Sched → Sched) : (s.modSched n f).saved = s.saved := rfl
@[simp] theorem State.modSched_journal (n : Nat) (f : Sched → Sched) : (s.modSched n f).journal = s.journal := rfl
@[simp] theorem State.modSched_replays (n : Nat) (f : Sched → Sched) : (s.modSched n f).replays = s.replays := rfl
@[simp] theorem State.modSched_harts (n : Nat) (f : Sched → Sched) : (s.modSched n f).harts = s.harts := rfl
@[simp] theorem State.modSched_held (n : Nat) (f : Sched → Sched) : (s.modSched n f).held = s.held := rfl
@[simp] theorem State.modSched_handles (n : Nat) (f : Sched → Sched) : (s.modSched n f).handles = s.handles := rfl
@[simp] theorem State.modSched_gens (n : Nat) (f : Sched → Sched) : (s.modSched n f).gens = s.gens := rfl
@[simp] theorem State.modSched_cmds (n : Nat) (f : Sched → Sched) : (s.modSched n f).cmds = s.cmds := rfl
@[simp] theorem State.modSched_hubUp (n : Nat) (f : Sched → Sched) : (s.modSched n f).hubUp = s.hubUp := rfl
@[simp] theorem State.modSched_sext (n : Nat) (f : Sched → Sched) : (s.modSched n f).sext = s.sext := rfl
@[simp] theorem State.modSched_tildors (n : Nat) (f : Sched → Sched) : (s.modSched n f).tildors = s.tildors := rfl
@[simp] theorem State.modSched_domain (n : Nat) (f : Sched → Sched) : (s.modSched n f).domain = s.domain := rfl
@[simp] theorem State.modSched_standby (n : Nat) (f : Sched → Sched) : (s.modSched n f).standby = s.standby := rfl
@[simp] theorem State.modSched_map2 (n : Nat) (f : Sched → Sched) : (s.modSched n f).map2 = s.map2 := rfl
@[simp] theorem State.modSched_map1 (n : Nat) (f : Sched → Sched) : (s.modSched n f).map1 = s.map1 := rfl
@[simp] theorem State.modSched_agenda (n : Nat) (f : Sched → Sched) : (s.modSched n f).agenda = s.agenda := rfl
@[simp] theorem State.modSched_turn (n : Nat) (f : Sched → Sched) : (s.modSched n f).turn = s.turn := rfl
@[simp] theorem State.modSched_cur (n : Nat) (f : Sched → Sched) : (s.modSched n f).cur = s.cur := rfl
@[simp] theorem State.modSched_curHart (n : Nat) (f : Sched → Sched) : (s.modSched n f).curHart = s.curHart := rfl
@[simp] theorem State.modSched_freeCtr (n : Nat) (f : Sched → Sched) : (s.modSched n f).freeCtr = s.freeCtr := rfl
@[simp] theorem State.modSched_uid (n : Nat) (f : Sched → Sched) : (s.modSched n f).uid = s.uid := rfl

/-! ### modCluster -/

@[simp] theorem State.modCluster_waves (die clu : Nat) (f : Cluster → Cluster) : (s.modCluster die clu f).waves = s.waves := rfl
@[simp] theorem State.modCluster_teams (die clu : Nat) (f : Cluster → Cluster) : (s.modCluster die clu f).teams = s.teams := rfl
@[simp] theorem State.modCluster_pipes (die clu : Nat) (f : Cluster → Cluster) : (s.modCluster die clu f).pipes = s.pipes := rfl
@[simp] theorem State.modCluster_ctxs (die clu : Nat) (f : Cluster → Cluster) : (s.modCluster die clu f).ctxs = s.ctxs := rfl
@[simp] theorem State.modCluster_nrgs (die clu : Nat) (f : Cluster → Cluster) : (s.modCluster die clu f).nrgs = s.nrgs := rfl
@[simp] theorem State.modCluster_keyrings (die clu : Nat) (f : Cluster → Cluster) : (s.modCluster die clu f).keyrings = s.keyrings := rfl
@[simp] theorem State.modCluster_flights (die clu : Nat) (f : Cluster → Cluster) : (s.modCluster die clu f).flights = s.flights := rfl
@[simp] theorem State.modCluster_mem (die clu : Nat) (f : Cluster → Cluster) : (s.modCluster die clu f).mem = s.mem := rfl
@[simp] theorem State.modCluster_bad (die clu : Nat) (f : Cluster → Cluster) : (s.modCluster die clu f).bad = s.bad := rfl
@[simp] theorem State.modCluster_errs (die clu : Nat) (f : Cluster → Cluster) : (s.modCluster die clu f).errs = s.errs := rfl
@[simp] theorem State.modCluster_lost (die clu : Nat) (f : Cluster → Cluster) : (s.modCluster die clu f).lost = s.lost := rfl
@[simp] theorem State.modCluster_l1 (die clu : Nat) (f : Cluster → Cluster) : (s.modCluster die clu f).l1 = s.l1 := rfl
@[simp] theorem State.modCluster_l2 (die clu : Nat) (f : Cluster → Cluster) : (s.modCluster die clu f).l2 = s.l2 := rfl
@[simp] theorem State.modCluster_ro (die clu : Nat) (f : Cluster → Cluster) : (s.modCluster die clu f).ro = s.ro := rfl
@[simp] theorem State.modCluster_icache (die clu : Nat) (f : Cluster → Cluster) : (s.modCluster die clu f).icache = s.icache := rfl
@[simp] theorem State.modCluster_tlb (die clu : Nat) (f : Cluster → Cluster) : (s.modCluster die clu f).tlb = s.tlb := rfl
@[simp] theorem State.modCluster_migrations (die clu : Nat) (f : Cluster → Cluster) : (s.modCluster die clu f).migrations = s.migrations := rfl
@[simp] theorem State.modCluster_expands (die clu : Nat) (f : Cluster → Cluster) : (s.modCluster die clu f).expands = s.expands := rfl
@[simp] theorem State.modCluster_pkgid (die clu : Nat) (f : Cluster → Cluster) : (s.modCluster die clu f).pkgid = s.pkgid := rfl
@[simp] theorem State.modCluster_fenced (die clu : Nat) (f : Cluster → Cluster) : (s.modCluster die clu f).fenced = s.fenced := rfl
@[simp] theorem State.modCluster_running (die clu : Nat) (f : Cluster → Cluster) : (s.modCluster die clu f).running = s.running := rfl
@[simp] theorem State.modCluster_dies (die clu : Nat) (f : Cluster → Cluster) : (s.modCluster die clu f).dies = s.dies := rfl
@[simp] theorem State.modCluster_clusters (die clu : Nat) (f : Cluster → Cluster) :
    (s.modCluster die clu f).clusters = assocSet s.clusters (die, clu) (f (s.cluster die clu)) := rfl
@[simp] theorem State.modCluster_resvs (die clu : Nat) (f : Cluster → Cluster) : (s.modCluster die clu f).resvs = s.resvs := rfl
@[simp] theorem State.modCluster_grids (die clu : Nat) (f : Cluster → Cluster) : (s.modCluster die clu f).grids = s.grids := rfl
@[simp] theorem State.modCluster_scheds (die clu : Nat) (f : Cluster → Cluster) : (s.modCluster die clu f).scheds = s.scheds := rfl
@[simp] theorem State.modCluster_hubRot (die clu : Nat) (f : Cluster → Cluster) : (s.modCluster die clu f).hubRot = s.hubRot := rfl
@[simp] theorem State.modCluster_jobs (die clu : Nat) (f : Cluster → Cluster) : (s.modCluster die clu f).jobs = s.jobs := rfl
@[simp] theorem State.modCluster_saved (die clu : Nat) (f : Cluster → Cluster) : (s.modCluster die clu f).saved = s.saved := rfl
@[simp] theorem State.modCluster_journal (die clu : Nat) (f : Cluster → Cluster) : (s.modCluster die clu f).journal = s.journal := rfl
@[simp] theorem State.modCluster_replays (die clu : Nat) (f : Cluster → Cluster) : (s.modCluster die clu f).replays = s.replays := rfl
@[simp] theorem State.modCluster_harts (die clu : Nat) (f : Cluster → Cluster) : (s.modCluster die clu f).harts = s.harts := rfl
@[simp] theorem State.modCluster_held (die clu : Nat) (f : Cluster → Cluster) : (s.modCluster die clu f).held = s.held := rfl
@[simp] theorem State.modCluster_handles (die clu : Nat) (f : Cluster → Cluster) : (s.modCluster die clu f).handles = s.handles := rfl
@[simp] theorem State.modCluster_gens (die clu : Nat) (f : Cluster → Cluster) : (s.modCluster die clu f).gens = s.gens := rfl
@[simp] theorem State.modCluster_cmds (die clu : Nat) (f : Cluster → Cluster) : (s.modCluster die clu f).cmds = s.cmds := rfl
@[simp] theorem State.modCluster_hubUp (die clu : Nat) (f : Cluster → Cluster) : (s.modCluster die clu f).hubUp = s.hubUp := rfl
@[simp] theorem State.modCluster_sext (die clu : Nat) (f : Cluster → Cluster) : (s.modCluster die clu f).sext = s.sext := rfl
@[simp] theorem State.modCluster_tildors (die clu : Nat) (f : Cluster → Cluster) : (s.modCluster die clu f).tildors = s.tildors := rfl
@[simp] theorem State.modCluster_domain (die clu : Nat) (f : Cluster → Cluster) : (s.modCluster die clu f).domain = s.domain := rfl
@[simp] theorem State.modCluster_standby (die clu : Nat) (f : Cluster → Cluster) : (s.modCluster die clu f).standby = s.standby := rfl
@[simp] theorem State.modCluster_map2 (die clu : Nat) (f : Cluster → Cluster) : (s.modCluster die clu f).map2 = s.map2 := rfl
@[simp] theorem State.modCluster_map1 (die clu : Nat) (f : Cluster → Cluster) : (s.modCluster die clu f).map1 = s.map1 := rfl
@[simp] theorem State.modCluster_agenda (die clu : Nat) (f : Cluster → Cluster) : (s.modCluster die clu f).agenda = s.agenda := rfl
@[simp] theorem State.modCluster_turn (die clu : Nat) (f : Cluster → Cluster) : (s.modCluster die clu f).turn = s.turn := rfl
@[simp] theorem State.modCluster_cur (die clu : Nat) (f : Cluster → Cluster) : (s.modCluster die clu f).cur = s.cur := rfl
@[simp] theorem State.modCluster_curHart (die clu : Nat) (f : Cluster → Cluster) : (s.modCluster die clu f).curHart = s.curHart := rfl
@[simp] theorem State.modCluster_freeCtr (die clu : Nat) (f : Cluster → Cluster) : (s.modCluster die clu f).freeCtr = s.freeCtr := rfl
@[simp] theorem State.modCluster_uid (die clu : Nat) (f : Cluster → Cluster) : (s.modCluster die clu f).uid = s.uid := rfl

/-! ### modTildor -/

@[simp] theorem State.modTildor_waves (die port : Nat) (f : Tildor → Tildor) : (s.modTildor die port f).waves = s.waves := rfl
@[simp] theorem State.modTildor_teams (die port : Nat) (f : Tildor → Tildor) : (s.modTildor die port f).teams = s.teams := rfl
@[simp] theorem State.modTildor_pipes (die port : Nat) (f : Tildor → Tildor) : (s.modTildor die port f).pipes = s.pipes := rfl
@[simp] theorem State.modTildor_ctxs (die port : Nat) (f : Tildor → Tildor) : (s.modTildor die port f).ctxs = s.ctxs := rfl
@[simp] theorem State.modTildor_nrgs (die port : Nat) (f : Tildor → Tildor) : (s.modTildor die port f).nrgs = s.nrgs := rfl
@[simp] theorem State.modTildor_keyrings (die port : Nat) (f : Tildor → Tildor) : (s.modTildor die port f).keyrings = s.keyrings := rfl
@[simp] theorem State.modTildor_flights (die port : Nat) (f : Tildor → Tildor) : (s.modTildor die port f).flights = s.flights := rfl
@[simp] theorem State.modTildor_mem (die port : Nat) (f : Tildor → Tildor) : (s.modTildor die port f).mem = s.mem := rfl
@[simp] theorem State.modTildor_bad (die port : Nat) (f : Tildor → Tildor) : (s.modTildor die port f).bad = s.bad := rfl
@[simp] theorem State.modTildor_errs (die port : Nat) (f : Tildor → Tildor) : (s.modTildor die port f).errs = s.errs := rfl
@[simp] theorem State.modTildor_lost (die port : Nat) (f : Tildor → Tildor) : (s.modTildor die port f).lost = s.lost := rfl
@[simp] theorem State.modTildor_l1 (die port : Nat) (f : Tildor → Tildor) : (s.modTildor die port f).l1 = s.l1 := rfl
@[simp] theorem State.modTildor_l2 (die port : Nat) (f : Tildor → Tildor) : (s.modTildor die port f).l2 = s.l2 := rfl
@[simp] theorem State.modTildor_ro (die port : Nat) (f : Tildor → Tildor) : (s.modTildor die port f).ro = s.ro := rfl
@[simp] theorem State.modTildor_icache (die port : Nat) (f : Tildor → Tildor) : (s.modTildor die port f).icache = s.icache := rfl
@[simp] theorem State.modTildor_tlb (die port : Nat) (f : Tildor → Tildor) : (s.modTildor die port f).tlb = s.tlb := rfl
@[simp] theorem State.modTildor_migrations (die port : Nat) (f : Tildor → Tildor) : (s.modTildor die port f).migrations = s.migrations := rfl
@[simp] theorem State.modTildor_expands (die port : Nat) (f : Tildor → Tildor) : (s.modTildor die port f).expands = s.expands := rfl
@[simp] theorem State.modTildor_pkgid (die port : Nat) (f : Tildor → Tildor) : (s.modTildor die port f).pkgid = s.pkgid := rfl
@[simp] theorem State.modTildor_fenced (die port : Nat) (f : Tildor → Tildor) : (s.modTildor die port f).fenced = s.fenced := rfl
@[simp] theorem State.modTildor_running (die port : Nat) (f : Tildor → Tildor) : (s.modTildor die port f).running = s.running := rfl
@[simp] theorem State.modTildor_dies (die port : Nat) (f : Tildor → Tildor) : (s.modTildor die port f).dies = s.dies := rfl
@[simp] theorem State.modTildor_clusters (die port : Nat) (f : Tildor → Tildor) : (s.modTildor die port f).clusters = s.clusters := rfl
@[simp] theorem State.modTildor_resvs (die port : Nat) (f : Tildor → Tildor) : (s.modTildor die port f).resvs = s.resvs := rfl
@[simp] theorem State.modTildor_grids (die port : Nat) (f : Tildor → Tildor) : (s.modTildor die port f).grids = s.grids := rfl
@[simp] theorem State.modTildor_scheds (die port : Nat) (f : Tildor → Tildor) : (s.modTildor die port f).scheds = s.scheds := rfl
@[simp] theorem State.modTildor_hubRot (die port : Nat) (f : Tildor → Tildor) : (s.modTildor die port f).hubRot = s.hubRot := rfl
@[simp] theorem State.modTildor_jobs (die port : Nat) (f : Tildor → Tildor) : (s.modTildor die port f).jobs = s.jobs := rfl
@[simp] theorem State.modTildor_saved (die port : Nat) (f : Tildor → Tildor) : (s.modTildor die port f).saved = s.saved := rfl
@[simp] theorem State.modTildor_journal (die port : Nat) (f : Tildor → Tildor) : (s.modTildor die port f).journal = s.journal := rfl
@[simp] theorem State.modTildor_replays (die port : Nat) (f : Tildor → Tildor) : (s.modTildor die port f).replays = s.replays := rfl
@[simp] theorem State.modTildor_harts (die port : Nat) (f : Tildor → Tildor) : (s.modTildor die port f).harts = s.harts := rfl
@[simp] theorem State.modTildor_held (die port : Nat) (f : Tildor → Tildor) : (s.modTildor die port f).held = s.held := rfl
@[simp] theorem State.modTildor_handles (die port : Nat) (f : Tildor → Tildor) : (s.modTildor die port f).handles = s.handles := rfl
@[simp] theorem State.modTildor_gens (die port : Nat) (f : Tildor → Tildor) : (s.modTildor die port f).gens = s.gens := rfl
@[simp] theorem State.modTildor_cmds (die port : Nat) (f : Tildor → Tildor) : (s.modTildor die port f).cmds = s.cmds := rfl
@[simp] theorem State.modTildor_hubUp (die port : Nat) (f : Tildor → Tildor) : (s.modTildor die port f).hubUp = s.hubUp := rfl
@[simp] theorem State.modTildor_sext (die port : Nat) (f : Tildor → Tildor) : (s.modTildor die port f).sext = s.sext := rfl
@[simp] theorem State.modTildor_tildors (die port : Nat) (f : Tildor → Tildor) : (s.modTildor die port f).tildors = assocSet s.tildors (die, port) (f (s.tildor die port)) := rfl
@[simp] theorem State.modTildor_domain (die port : Nat) (f : Tildor → Tildor) : (s.modTildor die port f).domain = s.domain := rfl
@[simp] theorem State.modTildor_standby (die port : Nat) (f : Tildor → Tildor) : (s.modTildor die port f).standby = s.standby := rfl
@[simp] theorem State.modTildor_map2 (die port : Nat) (f : Tildor → Tildor) : (s.modTildor die port f).map2 = s.map2 := rfl
@[simp] theorem State.modTildor_map1 (die port : Nat) (f : Tildor → Tildor) : (s.modTildor die port f).map1 = s.map1 := rfl
@[simp] theorem State.modTildor_agenda (die port : Nat) (f : Tildor → Tildor) : (s.modTildor die port f).agenda = s.agenda := rfl
@[simp] theorem State.modTildor_turn (die port : Nat) (f : Tildor → Tildor) : (s.modTildor die port f).turn = s.turn := rfl
@[simp] theorem State.modTildor_cur (die port : Nat) (f : Tildor → Tildor) : (s.modTildor die port f).cur = s.cur := rfl
@[simp] theorem State.modTildor_curHart (die port : Nat) (f : Tildor → Tildor) : (s.modTildor die port f).curHart = s.curHart := rfl
@[simp] theorem State.modTildor_freeCtr (die port : Nat) (f : Tildor → Tildor) : (s.modTildor die port f).freeCtr = s.freeCtr := rfl
@[simp] theorem State.modTildor_uid (die port : Nat) (f : Tildor → Tildor) : (s.modTildor die port f).uid = s.uid := rfl

/-! ### dropFlight -/

@[simp] theorem State.dropFlight_waves (k : Nat) : (s.dropFlight k).waves = s.waves := rfl
@[simp] theorem State.dropFlight_teams (k : Nat) : (s.dropFlight k).teams = s.teams := rfl
@[simp] theorem State.dropFlight_pipes (k : Nat) : (s.dropFlight k).pipes = s.pipes := rfl
@[simp] theorem State.dropFlight_ctxs (k : Nat) : (s.dropFlight k).ctxs = s.ctxs := rfl
@[simp] theorem State.dropFlight_nrgs (k : Nat) : (s.dropFlight k).nrgs = s.nrgs := rfl
@[simp] theorem State.dropFlight_keyrings (k : Nat) : (s.dropFlight k).keyrings = s.keyrings := rfl
@[simp] theorem State.dropFlight_flights (k : Nat) : (s.dropFlight k).flights = s.flights.filter (·.k != k) := rfl
@[simp] theorem State.dropFlight_mem (k : Nat) : (s.dropFlight k).mem = s.mem := rfl
@[simp] theorem State.dropFlight_bad (k : Nat) : (s.dropFlight k).bad = s.bad := rfl
@[simp] theorem State.dropFlight_errs (k : Nat) : (s.dropFlight k).errs = s.errs := rfl
@[simp] theorem State.dropFlight_lost (k : Nat) : (s.dropFlight k).lost = s.lost := rfl
@[simp] theorem State.dropFlight_l1 (k : Nat) : (s.dropFlight k).l1 = s.l1 := rfl
@[simp] theorem State.dropFlight_l2 (k : Nat) : (s.dropFlight k).l2 = s.l2 := rfl
@[simp] theorem State.dropFlight_ro (k : Nat) : (s.dropFlight k).ro = s.ro := rfl
@[simp] theorem State.dropFlight_icache (k : Nat) : (s.dropFlight k).icache = s.icache := rfl
@[simp] theorem State.dropFlight_tlb (k : Nat) : (s.dropFlight k).tlb = s.tlb := rfl
@[simp] theorem State.dropFlight_migrations (k : Nat) : (s.dropFlight k).migrations = s.migrations := rfl
@[simp] theorem State.dropFlight_expands (k : Nat) : (s.dropFlight k).expands = s.expands := rfl
@[simp] theorem State.dropFlight_pkgid (k : Nat) : (s.dropFlight k).pkgid = s.pkgid := rfl
@[simp] theorem State.dropFlight_fenced (k : Nat) : (s.dropFlight k).fenced = s.fenced := rfl
@[simp] theorem State.dropFlight_running (k : Nat) : (s.dropFlight k).running = s.running := rfl
@[simp] theorem State.dropFlight_dies (k : Nat) : (s.dropFlight k).dies = s.dies := rfl
@[simp] theorem State.dropFlight_clusters (k : Nat) : (s.dropFlight k).clusters = s.clusters := rfl
@[simp] theorem State.dropFlight_resvs (k : Nat) : (s.dropFlight k).resvs = s.resvs := rfl
@[simp] theorem State.dropFlight_grids (k : Nat) : (s.dropFlight k).grids = s.grids := rfl
@[simp] theorem State.dropFlight_scheds (k : Nat) : (s.dropFlight k).scheds = s.scheds := rfl
@[simp] theorem State.dropFlight_hubRot (k : Nat) : (s.dropFlight k).hubRot = s.hubRot := rfl
@[simp] theorem State.dropFlight_jobs (k : Nat) : (s.dropFlight k).jobs = s.jobs := rfl
@[simp] theorem State.dropFlight_saved (k : Nat) : (s.dropFlight k).saved = s.saved := rfl
@[simp] theorem State.dropFlight_journal (k : Nat) : (s.dropFlight k).journal = s.journal := rfl
@[simp] theorem State.dropFlight_replays (k : Nat) : (s.dropFlight k).replays = s.replays := rfl
@[simp] theorem State.dropFlight_harts (k : Nat) : (s.dropFlight k).harts = s.harts := rfl
@[simp] theorem State.dropFlight_held (k : Nat) : (s.dropFlight k).held = s.held := rfl
@[simp] theorem State.dropFlight_handles (k : Nat) : (s.dropFlight k).handles = s.handles := rfl
@[simp] theorem State.dropFlight_gens (k : Nat) : (s.dropFlight k).gens = s.gens := rfl
@[simp] theorem State.dropFlight_cmds (k : Nat) : (s.dropFlight k).cmds = s.cmds := rfl
@[simp] theorem State.dropFlight_hubUp (k : Nat) : (s.dropFlight k).hubUp = s.hubUp := rfl
@[simp] theorem State.dropFlight_sext (k : Nat) : (s.dropFlight k).sext = s.sext := rfl
@[simp] theorem State.dropFlight_tildors (k : Nat) : (s.dropFlight k).tildors = s.tildors := rfl
@[simp] theorem State.dropFlight_domain (k : Nat) : (s.dropFlight k).domain = s.domain := rfl
@[simp] theorem State.dropFlight_standby (k : Nat) : (s.dropFlight k).standby = s.standby := rfl
@[simp] theorem State.dropFlight_map2 (k : Nat) : (s.dropFlight k).map2 = s.map2 := rfl
@[simp] theorem State.dropFlight_map1 (k : Nat) : (s.dropFlight k).map1 = s.map1 := rfl
@[simp] theorem State.dropFlight_agenda (k : Nat) : (s.dropFlight k).agenda = s.agenda := rfl
@[simp] theorem State.dropFlight_turn (k : Nat) : (s.dropFlight k).turn = s.turn := rfl
@[simp] theorem State.dropFlight_cur (k : Nat) : (s.dropFlight k).cur = s.cur := rfl
@[simp] theorem State.dropFlight_curHart (k : Nat) : (s.dropFlight k).curHart = s.curHart := rfl
@[simp] theorem State.dropFlight_freeCtr (k : Nat) : (s.dropFlight k).freeCtr = s.freeCtr := rfl
@[simp] theorem State.dropFlight_uid (k : Nat) : (s.dropFlight k).uid = s.uid := rfl

/-! ### modThr: the thread is part of its wave, and of its lane when the lane runs on its own -/

@[simp] theorem State.modThr_teams (i : Issuer) (f : Thread → Thread) : (s.modThr i f).teams = s.teams := by unfold State.modThr; split <;> rfl
@[simp] theorem State.modThr_pipes (i : Issuer) (f : Thread → Thread) : (s.modThr i f).pipes = s.pipes := by unfold State.modThr; split <;> rfl
@[simp] theorem State.modThr_ctxs (i : Issuer) (f : Thread → Thread) : (s.modThr i f).ctxs = s.ctxs := by unfold State.modThr; split <;> rfl
@[simp] theorem State.modThr_nrgs (i : Issuer) (f : Thread → Thread) : (s.modThr i f).nrgs = s.nrgs := by unfold State.modThr; split <;> rfl
@[simp] theorem State.modThr_keyrings (i : Issuer) (f : Thread → Thread) : (s.modThr i f).keyrings = s.keyrings := by unfold State.modThr; split <;> rfl
@[simp] theorem State.modThr_flights (i : Issuer) (f : Thread → Thread) : (s.modThr i f).flights = s.flights := by unfold State.modThr; split <;> rfl
@[simp] theorem State.modThr_mem (i : Issuer) (f : Thread → Thread) : (s.modThr i f).mem = s.mem := by unfold State.modThr; split <;> rfl
@[simp] theorem State.modThr_bad (i : Issuer) (f : Thread → Thread) : (s.modThr i f).bad = s.bad := by unfold State.modThr; split <;> rfl
@[simp] theorem State.modThr_errs (i : Issuer) (f : Thread → Thread) : (s.modThr i f).errs = s.errs := by unfold State.modThr; split <;> rfl
@[simp] theorem State.modThr_lost (i : Issuer) (f : Thread → Thread) : (s.modThr i f).lost = s.lost := by unfold State.modThr; split <;> rfl
@[simp] theorem State.modThr_l1 (i : Issuer) (f : Thread → Thread) : (s.modThr i f).l1 = s.l1 := by unfold State.modThr; split <;> rfl
@[simp] theorem State.modThr_l2 (i : Issuer) (f : Thread → Thread) : (s.modThr i f).l2 = s.l2 := by unfold State.modThr; split <;> rfl
@[simp] theorem State.modThr_ro (i : Issuer) (f : Thread → Thread) : (s.modThr i f).ro = s.ro := by unfold State.modThr; split <;> rfl
@[simp] theorem State.modThr_icache (i : Issuer) (f : Thread → Thread) : (s.modThr i f).icache = s.icache := by unfold State.modThr; split <;> rfl
@[simp] theorem State.modThr_tlb (i : Issuer) (f : Thread → Thread) : (s.modThr i f).tlb = s.tlb := by unfold State.modThr; split <;> rfl
@[simp] theorem State.modThr_migrations (i : Issuer) (f : Thread → Thread) : (s.modThr i f).migrations = s.migrations := by unfold State.modThr; split <;> rfl
@[simp] theorem State.modThr_expands (i : Issuer) (f : Thread → Thread) : (s.modThr i f).expands = s.expands := by unfold State.modThr; split <;> rfl
@[simp] theorem State.modThr_pkgid (i : Issuer) (f : Thread → Thread) : (s.modThr i f).pkgid = s.pkgid := by unfold State.modThr; split <;> rfl
@[simp] theorem State.modThr_fenced (i : Issuer) (f : Thread → Thread) : (s.modThr i f).fenced = s.fenced := by unfold State.modThr; split <;> rfl
@[simp] theorem State.modThr_running (i : Issuer) (f : Thread → Thread) : (s.modThr i f).running = s.running := by unfold State.modThr; split <;> rfl
@[simp] theorem State.modThr_dies (i : Issuer) (f : Thread → Thread) : (s.modThr i f).dies = s.dies := by unfold State.modThr; split <;> rfl
@[simp] theorem State.modThr_clusters (i : Issuer) (f : Thread → Thread) : (s.modThr i f).clusters = s.clusters := by unfold State.modThr; split <;> rfl
@[simp] theorem State.modThr_resvs (i : Issuer) (f : Thread → Thread) : (s.modThr i f).resvs = s.resvs := by unfold State.modThr; split <;> rfl
@[simp] theorem State.modThr_grids (i : Issuer) (f : Thread → Thread) : (s.modThr i f).grids = s.grids := by unfold State.modThr; split <;> rfl
@[simp] theorem State.modThr_scheds (i : Issuer) (f : Thread → Thread) : (s.modThr i f).scheds = s.scheds := by unfold State.modThr; split <;> rfl
@[simp] theorem State.modThr_hubRot (i : Issuer) (f : Thread → Thread) : (s.modThr i f).hubRot = s.hubRot := by unfold State.modThr; split <;> rfl
@[simp] theorem State.modThr_jobs (i : Issuer) (f : Thread → Thread) : (s.modThr i f).jobs = s.jobs := by unfold State.modThr; split <;> rfl
@[simp] theorem State.modThr_saved (i : Issuer) (f : Thread → Thread) : (s.modThr i f).saved = s.saved := by unfold State.modThr; split <;> rfl
@[simp] theorem State.modThr_journal (i : Issuer) (f : Thread → Thread) : (s.modThr i f).journal = s.journal := by unfold State.modThr; split <;> rfl
@[simp] theorem State.modThr_replays (i : Issuer) (f : Thread → Thread) : (s.modThr i f).replays = s.replays := by unfold State.modThr; split <;> rfl
@[simp] theorem State.modThr_harts (i : Issuer) (f : Thread → Thread) : (s.modThr i f).harts = s.harts := by unfold State.modThr; split <;> rfl
@[simp] theorem State.modThr_held (i : Issuer) (f : Thread → Thread) : (s.modThr i f).held = s.held := by unfold State.modThr; split <;> rfl
@[simp] theorem State.modThr_handles (i : Issuer) (f : Thread → Thread) : (s.modThr i f).handles = s.handles := by unfold State.modThr; split <;> rfl
@[simp] theorem State.modThr_gens (i : Issuer) (f : Thread → Thread) : (s.modThr i f).gens = s.gens := by unfold State.modThr; split <;> rfl
@[simp] theorem State.modThr_cmds (i : Issuer) (f : Thread → Thread) : (s.modThr i f).cmds = s.cmds := by unfold State.modThr; split <;> rfl
@[simp] theorem State.modThr_hubUp (i : Issuer) (f : Thread → Thread) : (s.modThr i f).hubUp = s.hubUp := by unfold State.modThr; split <;> rfl
@[simp] theorem State.modThr_sext (i : Issuer) (f : Thread → Thread) : (s.modThr i f).sext = s.sext := by unfold State.modThr; split <;> rfl
@[simp] theorem State.modThr_tildors (i : Issuer) (f : Thread → Thread) : (s.modThr i f).tildors = s.tildors := by unfold State.modThr; split <;> rfl
@[simp] theorem State.modThr_domain (i : Issuer) (f : Thread → Thread) : (s.modThr i f).domain = s.domain := by unfold State.modThr; split <;> rfl
@[simp] theorem State.modThr_standby (i : Issuer) (f : Thread → Thread) : (s.modThr i f).standby = s.standby := by unfold State.modThr; split <;> rfl
@[simp] theorem State.modThr_map2 (i : Issuer) (f : Thread → Thread) : (s.modThr i f).map2 = s.map2 := by unfold State.modThr; split <;> rfl
@[simp] theorem State.modThr_map1 (i : Issuer) (f : Thread → Thread) : (s.modThr i f).map1 = s.map1 := by unfold State.modThr; split <;> rfl
@[simp] theorem State.modThr_agenda (i : Issuer) (f : Thread → Thread) : (s.modThr i f).agenda = s.agenda := by unfold State.modThr; split <;> rfl
@[simp] theorem State.modThr_turn (i : Issuer) (f : Thread → Thread) : (s.modThr i f).turn = s.turn := by unfold State.modThr; split <;> rfl
@[simp] theorem State.modThr_cur (i : Issuer) (f : Thread → Thread) : (s.modThr i f).cur = s.cur := by unfold State.modThr; split <;> rfl
@[simp] theorem State.modThr_curHart (i : Issuer) (f : Thread → Thread) : (s.modThr i f).curHart = s.curHart := by unfold State.modThr; split <;> rfl
@[simp] theorem State.modThr_freeCtr (i : Issuer) (f : Thread → Thread) : (s.modThr i f).freeCtr = s.freeCtr := by unfold State.modThr; split <;> rfl
@[simp] theorem State.modThr_uid (i : Issuer) (f : Thread → Thread) : (s.modThr i f).uid = s.uid := by unfold State.modThr; split <;> rfl

/-! ### Lanes -/

@[simp] theorem Lane.setReg_regs (l : Lane) (r : Nat) (v : Reg) : (l.setReg r v).regs = l.regs.setIfInBounds r v := rfl
@[simp] theorem Lane.setReg_l0 (l : Lane) (r : Nat) (v : Reg) : (l.setReg r v).l0 = l.l0 := rfl
@[simp] theorem Lane.setReg_l1 (l : Lane) (r : Nat) (v : Reg) : (l.setReg r v).l1 = l.l1 := rfl
@[simp] theorem Lane.setReg_l2 (l : Lane) (r : Nat) (v : Reg) : (l.setReg r v).l2 = l.l2 := rfl
@[simp] theorem Lane.setReg_frm (l : Lane) (r : Nat) (v : Reg) : (l.setReg r v).frm = l.frm := rfl
@[simp] theorem Lane.setReg_flags (l : Lane) (r : Nat) (v : Reg) : (l.setReg r v).flags = l.flags := rfl
@[simp] theorem Lane.setReg_qsc (l : Lane) (r : Nat) (v : Reg) : (l.setReg r v).qsc = l.qsc := rfl
@[simp] theorem Lane.setReg_ftz (l : Lane) (r : Nat) (v : Reg) : (l.setReg r v).ftz = l.ftz := rfl
@[simp] theorem Lane.setReg_trapvec (l : Lane) (r : Nat) (v : Reg) : (l.setReg r v).trapvec = l.trapvec := rfl
@[simp] theorem Lane.setReg_trapvecHi (l : Lane) (r : Nat) (v : Reg) : (l.setReg r v).trapvecHi = l.trapvecHi := rfl
@[simp] theorem Lane.setReg_trapcause (l : Lane) (r : Nat) (v : Reg) : (l.setReg r v).trapcause = l.trapcause := rfl
@[simp] theorem Lane.setReg_trapaddr (l : Lane) (r : Nat) (v : Reg) : (l.setReg r v).trapaddr = l.trapaddr := rfl
@[simp] theorem Lane.setReg_traplanes (l : Lane) (r : Nat) (v : Reg) : (l.setReg r v).traplanes = l.traplanes := rfl
@[simp] theorem Lane.setReg_epc (l : Lane) (r : Nat) (v : Reg) : (l.setReg r v).epc = l.epc := rfl
@[simp] theorem Lane.setReg_epcHi (l : Lane) (r : Nat) (v : Reg) : (l.setReg r v).epcHi = l.epcHi := rfl
@[simp] theorem Lane.setReg_sh0 (l : Lane) (r : Nat) (v : Reg) : (l.setReg r v).sh0 = l.sh0 := rfl
@[simp] theorem Lane.setReg_sh1 (l : Lane) (r : Nat) (v : Reg) : (l.setReg r v).sh1 = l.sh1 := rfl
@[simp] theorem Lane.setReg_sh2 (l : Lane) (r : Nat) (v : Reg) : (l.setReg r v).sh2 = l.sh2 := rfl
@[simp] theorem Lane.setReg_divthr (l : Lane) (r : Nat) (v : Reg) : (l.setReg r v).divthr = l.divthr := rfl
@[simp] theorem Lane.setReg_regxwait (l : Lane) (r : Nat) (v : Reg) : (l.setReg r v).regxwait = l.regxwait := rfl
@[simp] theorem Lane.setReg_msgsrc (l : Lane) (r : Nat) (v : Reg) : (l.setReg r v).msgsrc = l.msgsrc := rfl
@[simp] theorem Lane.setReg_waveid (l : Lane) (r : Nat) (v : Reg) : (l.setReg r v).waveid = l.waveid := rfl
@[simp] theorem Lane.setReg_slotNo (l : Lane) (r : Nat) (v : Reg) : (l.setReg r v).slotNo = l.slotNo := rfl
@[simp] theorem Lane.setReg_uid (l : Lane) (r : Nat) (v : Reg) : (l.setReg r v).uid = l.uid := rfl
@[simp] theorem Lane.setReg_ports (l : Lane) (r : Nat) (v : Reg) : (l.setReg r v).ports = l.ports := rfl
@[simp] theorem Lane.setReg_own (l : Lane) (r : Nat) (v : Reg) : (l.setReg r v).own = l.own := rfl
@[simp] theorem Lane.setReg_priv (l : Lane) (r : Nat) (v : Reg) : (l.setReg r v).priv = l.priv := rfl
@[simp] theorem Lane.setReg_held (l : Lane) (r : Nat) (v : Reg) : (l.setReg r v).held = l.held := rfl

@[simp] theorem Wave.modLane_uid (w : Wave) (i : Nat) (f : Lane → Lane) : (w.modLane i f).uid = w.uid := rfl
@[simp] theorem Wave.modLane_ctx (w : Wave) (i : Nat) (f : Lane → Lane) : (w.modLane i f).ctx = w.ctx := rfl
@[simp] theorem Wave.modLane_team (w : Wave) (i : Nat) (f : Lane → Lane) : (w.modLane i f).team = w.team := rfl
@[simp] theorem Wave.modLane_die (w : Wave) (i : Nat) (f : Lane → Lane) : (w.modLane i f).die = w.die := rfl
@[simp] theorem Wave.modLane_gw (w : Wave) (i : Nat) (f : Lane → Lane) : (w.modLane i f).gw = w.gw := rfl
@[simp] theorem Wave.modLane_clu (w : Wave) (i : Nat) (f : Lane → Lane) : (w.modLane i f).clu = w.clu := rfl
@[simp] theorem Wave.modLane_base (w : Wave) (i : Nat) (f : Lane → Lane) : (w.modLane i f).base = w.base := rfl
@[simp] theorem Wave.modLane_bregs (w : Wave) (i : Nat) (f : Lane → Lane) : (w.modLane i f).bregs = w.bregs := rfl
@[simp] theorem Wave.modLane_xregs (w : Wave) (i : Nat) (f : Lane → Lane) : (w.modLane i f).xregs = w.xregs := rfl
@[simp] theorem Wave.modLane_lanes (w : Wave) (i : Nat) (f : Lane → Lane) : (w.modLane i f).lanes = w.lanes.modify i f := rfl
@[simp] theorem Wave.modLane_thr (w : Wave) (i : Nat) (f : Lane → Lane) : (w.modLane i f).thr = w.thr := rfl
@[simp] theorem Wave.modLane_live (w : Wave) (i : Nat) (f : Lane → Lane) : (w.modLane i f).live = w.live := rfl
@[simp] theorem Wave.modLane_memb (w : Wave) (i : Nat) (f : Lane → Lane) : (w.modLane i f).memb = w.memb := rfl
@[simp] theorem Wave.modLane_dstk (w : Wave) (i : Nat) (f : Lane → Lane) : (w.modLane i f).dstk = w.dstk := rfl
@[simp] theorem Wave.modLane_detach (w : Wave) (i : Nat) (f : Lane → Lane) : (w.modLane i f).detach = w.detach := rfl
@[simp] theorem Wave.modLane_jpoint (w : Wave) (i : Nat) (f : Lane → Lane) : (w.modLane i f).jpoint = w.jpoint := rfl
@[simp] theorem Wave.modLane_jslot (w : Wave) (i : Nat) (f : Lane → Lane) : (w.modLane i f).jslot = w.jslot := rfl
@[simp] theorem Wave.modLane_jmask (w : Wave) (i : Nat) (f : Lane → Lane) : (w.modLane i f).jmask = w.jmask := rfl
@[simp] theorem Wave.modLane_age (w : Wave) (i : Nat) (f : Lane → Lane) : (w.modLane i f).age = w.age := rfl
@[simp] theorem Wave.modLane_passed (w : Wave) (i : Nat) (f : Lane → Lane) : (w.modLane i f).passed = w.passed := rfl
@[simp] theorem Wave.modLane_resv (w : Wave) (i : Nat) (f : Lane → Lane) : (w.modLane i f).resv = w.resv := rfl
@[simp] theorem Wave.modLane_stream (w : Wave) (i : Nat) (f : Lane → Lane) : (w.modLane i f).stream = w.stream := rfl
@[simp] theorem Wave.modLane_ident (w : Wave) (i : Nat) (f : Lane → Lane) : (w.modLane i f).ident = w.ident := rfl
@[simp] theorem Wave.modLane_seq (w : Wave) (i : Nat) (f : Lane → Lane) : (w.modLane i f).seq = w.seq := rfl
@[simp] theorem Wave.modLane_attempt (w : Wave) (i : Nat) (f : Lane → Lane) : (w.modLane i f).attempt = w.attempt := rfl
@[simp] theorem Wave.modLane_handler (w : Wave) (i : Nat) (f : Lane → Lane) : (w.modLane i f).handler = w.handler := rfl
@[simp] theorem Wave.modLane_creator (w : Wave) (i : Nat) (f : Lane → Lane) : (w.modLane i f).creator = w.creator := rfl
@[simp] theorem Wave.modLane_notifyAt (w : Wave) (i : Nat) (f : Lane → Lane) : (w.modLane i f).notifyAt = w.notifyAt := rfl
@[simp] theorem Wave.modLane_teamIndex (w : Wave) (i : Nat) (f : Lane → Lane) : (w.modLane i f).teamIndex = w.teamIndex := rfl
@[simp] theorem Wave.modLane_gridx (w : Wave) (i : Nat) (f : Lane → Lane) : (w.modLane i f).gridx = w.gridx := rfl
@[simp] theorem Wave.modLane_gridy (w : Wave) (i : Nat) (f : Lane → Lane) : (w.modLane i f).gridy = w.gridy := rfl
@[simp] theorem Wave.modLane_gridz (w : Wave) (i : Nat) (f : Lane → Lane) : (w.modLane i f).gridz = w.gridz := rfl
@[simp] theorem Wave.modLane_depth (w : Wave) (i : Nat) (f : Lane → Lane) : (w.modLane i f).depth = w.depth := rfl
@[simp] theorem Wave.modLane_former (w : Wave) (i : Nat) (f : Lane → Lane) : (w.modLane i f).former = w.former := rfl
@[simp] theorem Wave.modLane_packed (w : Wave) (i : Nat) (f : Lane → Lane) : (w.modLane i f).packed = w.packed := rfl

end Sys2Proof.Machine
end

