-- ==== Sys2Proof/Tests/Slice0.lean ====
section
/-! SUPPORT. Tests of the model: words written out from the encodings of the spec, ill-formed terms that the checks refuse, small runs
of one step, and for each statement with hypotheses a state and operands that meet them. -/

namespace Sys2Proof.Tests
open Sys2Proof.Machine

set_option Elab.async false

/-! ## Words written out from the spec's encodings, and the checks of well-formedness -/

-- Sources: the worked examples of 04_pipeline R109 and R131, 06_group R208, 07_keyring R265 to R271, 04_pipeline R120 and
-- 15_sextant R446; the others are put together from the field tables of 02_encoding R48 to R58.
theorem test_decode_cww : decodeWord 0x0F003805#32 [] = some (.cww ⟨0#6, false, false, .inl 0#5, .reg 5#6⟩) := by decide
theorem test_decode_add : decodeWord 0x00830082#32 [] = some (.add ⟨3#6, false, false, .reg 1#6, .reg 2#6⟩) := by decide
theorem test_decode_latch_and_hd : decodeWord 0x00836000#32 [] = some (.add ⟨3#6, false, true, .latch 0#2, .reg 0#6⟩) := by decide
theorem test_decode_bfx : decodeWord 0x0707095F#32 [0x8C#32] = some (.bfx ⟨7#6, false, false, .reg 18#6, .lit (some 0x8C#32)⟩) := by decide
theorem test_decode_call : decodeWord 0x10800006#32 [] = some (.call ⟨0#6, 0#4, 6#12⟩) := by decide
theorem test_decode_ret : decodeWord 0x10C00300#32 [] = some (.ret ⟨0#6, false, false, .reg 6#6, .reg 0#6⟩) := by decide
theorem test_decode_fuse : decodeWord 0x30033AF0#32 [] = some (.fuseW8 ⟨3#6, false, false, .inl 5#5, .inl 0#5⟩) := by decide
theorem test_decode_kpush_ack : decodeWord 0x38423204#32 [] = some (.kpushAck ⟨2#6, 3#4, 8#6, 4#6⟩) := by decide
theorem test_decode_enrsv : decodeWord 0x54450300#32 [] = some (.enrsv ⟨5#6, false, false, .reg 6#6, .reg 0#6⟩) := by decide
theorem test_decode_nget : decodeHub 0x0005950B#32 = some (.nget ⟨10#5, 11#5, 0#5⟩) := by decide
theorem test_decode_table_hub : decodeTableWord 32 0x0035A50B = some (.svcpop ⟨10#5, 11#5, 3#5⟩) := by decide
theorem test_decode_reserved : decodeWord 0#32 [] = none := by decide
theorem test_encode_kpop : headWord (.kpop ⟨16#6, false, false, .reg 12#6, .reg 0#6⟩) = 0x38900600#32 := by decide
theorem test_encode_kbind : headWord (.kbind ⟨3#6, false, false, .reg 4#6, .inl 0#5⟩) = 0x39030270#32 := by decide

theorem test_wf_unused_field : Instr.wf (.clz ⟨1#6, false, false, .reg 2#6, .reg 1#6⟩) = false := by decide
theorem test_wf_latch : Instr.wf (.mov ⟨1#6, false, false, .latch 3#2, .reg 0#6⟩) = false := by decide
theorem test_wf_literal : Instr.wf (.mov ⟨1#6, false, false, .lit none, .reg 0#6⟩) = false := by decide
theorem test_wf_reserved : Instr.wf (.mov ⟨1#6, false, false, .rsv 67#7, .reg 0#6⟩) = false := by decide
theorem test_wf_token : Instr.wf (.ldI32 ⟨1#6, 9#4, 0#3, .reg 2#6, 0#2⟩) = false := by decide
theorem test_wf_offset_word : Instr.wf (.ldI32 ⟨1#6, 8#4, 0#3, .lit (some 0x86000000#32), 0#2⟩) = false := by decide
theorem test_wf_condition : Instr.wf (.brc ⟨1#6, 7#4, 0#12⟩) = false ∧ Instr.wf (.br ⟨1#6, 0#4, 0#12⟩) = false := by decide
theorem test_wf_block : Instr.wf (.kpush ⟨1#6, 8#4, 60#6, 5#6⟩) = false ∧ Instr.wf (.kpush ⟨1#6, 8#4, 60#6, 0#6⟩) = false := by decide
theorem test_wf_hub : Instr.wf (.nget ⟨1#5, 2#5, 3#5⟩) = false := by decide
theorem test_wf_accepts : Instr.wf (.kpush ⟨1#6, 8#4, 60#6, 4#6⟩) = true ∧ Instr.wf (.ldI32 ⟨1#6, 8#4, 0#3, .reg 2#6, 0#2⟩) = true ∧
    Instr.wf (.brc ⟨1#6, 6#4, 0#12⟩) = true := by decide

/-! ## A small state whose slot issues -/

/-- The wave of log 14 with a word of one instruction, some registers of its lane and a change of its state, about to issue. -/
def demo (i : Instr) (regs : List (Nat × Reg)) (g : State → State := id) (h : Lane → Lane := id) : State :=
  let p : Issuer := ⟨State.reset.uid + 1, none⟩
  g { ((State.reset.loadClause (headWord i) []).modLane p.wave 0 fun l => h (regs.foldl (fun l e => l.setReg e.1 e.2) l)) with cur := some p }

/-- What the issuer of a state sees. -/
def vw (s : State) : View :=
  match s.cur.bind s.view with
  | some v => v
  | none => ⟨Wave.fresh 0 0#12 0 0 0 0 0 false [] (Thread.start 0#54 (freshWins 0)) 0#15 ⟨0, 0, 0⟩, Thread.start 0#54 (freshWins 0), none, []⟩

/-- Lane `k` of the issuer's wave. -/
def ln (s : State) (k : Nat) : Lane := ((vw s).w.lanes[k]?).getD (Lane.fresh 0 0#54 0#5 0#3)

def issuesB (s : State) (sl : Slot) : Bool :=
  (s.cur.bind s.view).isSome && decide ((vw s).thr.st = .owning) && !(vw s).act.isEmpty && (checkWord s (vw s) sl).isNone &&
    ((vw s).act.all fun i => (sl.lowest && i != (vw s).low) || ((vw s).w.lanes[i]?).all fun l => sl.srcs.all fun x => !laneSrcBad l x) &&
    (!sl.priv || (vw s).w.ctx == 0#12) && !(vw s).thr.busy sl

theorem issues_of {s : State} {sl : Slot} (h : issuesB s sl = true) : Issues s (vw s) sl := by
  simp only [issuesB, Bool.and_eq_true, Bool.not_eq_true', decide_eq_true_eq] at h
  obtain ⟨⟨⟨⟨⟨⟨h1, h2⟩, h3⟩, h4⟩, h5⟩, h7⟩, h6⟩ := h
  obtain ⟨v, hv⟩ := Option.isSome_iff_exists.mp h1
  have e : vw s = v := by simp only [vw, hv]
  refine ⟨by rw [hv, e], h2, by simpa using h3, by simpa using h4, fun i hi hlow l hl x hx => ?_, fun hp => by simpa [hp] using h7, h6⟩
  have a := List.all_eq_true.mp h5 i hi
  rw [hl] at a
  rcases Bool.or_eq_true_iff.mp a with a | a
  · simp only [Bool.and_eq_true, bne_iff_ne] at a
    exact absurd (hlow a.1) a.2
  · simpa using List.all_eq_true.mp a x hx

/-- The elements a slot takes and the state after. -/
def tk (s : State) (sl : Slot) : State × List (Nat × Word × Word) := (s.takes (vw s) sl (vw s).act).getD (s, [])

theorem takes_of {s : State} {sl : Slot} (h : (s.takes (vw s) sl (vw s).act).isSome = true) :
    s.takes (vw s) sl (vw s).act = some ((tk s sl).1, (tk s sl).2) := by
  obtain ⟨x, hx⟩ := Option.isSome_iff_exists.mp h
  simp only [tk, hx, Option.getD_some]

def carriesB (l : Lane) (fmt : Tag) (x : Src) (p : Tag → Bool) : Bool := match l.src fmt 0#32 x with | .ok r => p r.tag | .error _ => false

theorem carries_of {l : Lane} {fmt : Tag} {x : Src} {p : Tag → Bool} {q : Tag → Prop} (hq : ∀ t, p t = true → q t)
    (h : carriesB l fmt x p = true) : l.carries fmt x q := by
  unfold carriesB at h
  split at h
  · exact ⟨_, ‹_›, hq _ h⟩
  · cases h

def readableB (l : Lane) (count : Bool) (x : Src) : Bool := carriesB l .i32 x fun t => if count then t == .i32 else t != .none

theorem readable_of {l : Lane} {count : Bool} {x : Src} (h : readableB l count x = true) : l.readable count x :=
  carries_of (fun t ht => by cases count <;> simpa using ht) h

def agreeB (l : Lane) (srcs : List Src) (t : Tag) : Bool := l.polyTag srcs == t && srcs.all fun x => carriesB l t x (· == t)

theorem agree_of {l : Lane} {srcs : List Src} {t : Tag} (h : agreeB l srcs t = true) : l.agree srcs t := by
  simp only [agreeB, Bool.and_eq_true, beq_iff_eq, List.all_eq_true] at h
  exact ⟨h.1, fun x hx => carries_of (fun t ht => by simpa using ht) (h.2 x hx)⟩

/-- The hypotheses of a statement about an instruction that lanes perform: it issues, its elements are taken, there is a lane, and every
active lane meets `ok`. -/
def Meets (s : State) (sl : Slot) (ok : Lane → Prop) : Prop :=
  ∃ v s' l, Issues s v sl ∧ s.takes v sl v.act = some (s', l) ∧ l ≠ [] ∧ (∀ k ∈ v.act, ∀ x, s.lane? v.w.uid k = some x → ok x) ∧
    ∃ k ∈ v.act, ∃ x, s.lane? v.w.uid k = some x

def meetsB (s : State) (sl : Slot) (ok : Lane → Bool) : Bool :=
  issuesB s sl && (s.takes (vw s) sl (vw s).act).isSome && !(tk s sl).2.isEmpty &&
    ((vw s).act.all fun k => (s.lane? (vw s).w.uid k).all ok) && (vw s).act.any fun k => (s.lane? (vw s).w.uid k).isSome

theorem all_lanes {s : State} {ok : Lane → Bool} {p : Lane → Prop} (hp : ∀ x, ok x = true → p x)
    (h : ((vw s).act.all fun k => (s.lane? (vw s).w.uid k).all ok) = true) :
    ∀ k ∈ (vw s).act, ∀ x, s.lane? (vw s).w.uid k = some x → p x := by
  intro k hk x hx
  have a := List.all_eq_true.mp h k hk
  rw [hx] at a
  exact hp x a

theorem meets_of {s : State} {sl : Slot} {ok : Lane → Bool} {p : Lane → Prop} (hp : ∀ x, ok x = true → p x) (h : meetsB s sl ok = true) :
    Meets s sl p := by
  simp only [meetsB, Bool.and_eq_true] at h
  obtain ⟨⟨⟨⟨h1, h2⟩, h3⟩, h4⟩, h5⟩ := h
  refine ⟨vw s, _, _, issues_of h1, takes_of h2, by simpa using h3, all_lanes hp h4, ?_⟩
  obtain ⟨k, hk, hx⟩ := List.any_eq_true.mp h5
  obtain ⟨x, hx⟩ := Option.isSome_iff_exists.mp hx
  exact ⟨k, hk, x, hx⟩

/-- The hypotheses about an instruction that the wave performs once. -/
def readsB (s : State) (sl : Slot) (srcs : List Src) (p : View → State → Word → Word → Lane → Bool) : Bool :=
  issuesB s sl.once && match s.takes (vw s) sl [(vw s).low] with
    | some (s', [(k, pa, pb)]) => k == (vw s).low && (s'.lane? (vw s).w.uid (vw s).low).any fun x =>
        srcs.all (readableB x true) && p (vw s) s' pa pb x
    | _ => false

theorem reads_of {s : State} {sl : Slot} {srcs : List Src} {p : View → State → Word → Word → Lane → Prop}
    [∀ v s' a b x, Decidable (p v s' a b x)] (h : readsB s sl srcs (fun v s' a b x => decide (p v s' a b x)) = true) :
    ∃ v s' pa pb x, Reads s v sl s' pa pb x ∧ (∀ y ∈ srcs, x.readable true y) ∧ p v s' pa pb x := by
  simp only [readsB, Bool.and_eq_true] at h
  obtain ⟨h1, h2⟩ := h
  split at h2
  · rename_i s' k pa pb ht
    simp only [Bool.and_eq_true, beq_iff_eq, Option.any_eq_true, List.all_eq_true, decide_eq_true_eq] at h2
    obtain ⟨rfl, x, hx, hs, hp⟩ := h2
    exact ⟨vw s, s', pa, pb, x, ⟨issues_of h1, ht, hx⟩, fun y hy => readable_of (hs y hy), hp⟩
  · cases h2

/-- A slot in a state passes or fails the checks of steps 2 to 5. -/
def checkedB (s : State) (sl : Slot) : Option Cause := if (s.cur.bind s.view).isSome && decide ((vw s).thr.st = .owning) && !(vw s).act.isEmpty then checkWord s (vw s) sl else none

theorem checked_of {s : State} {sl : Slot} {c : Cause} (h : checkedB s sl = some c) : Checked s (vw s) sl c := by
  unfold checkedB at h
  split at h
  · rename_i h1
    simp only [Bool.and_eq_true, decide_eq_true_eq, Bool.not_eq_true'] at h1
    obtain ⟨v, hv⟩ := Option.isSome_iff_exists.mp h1.1.1
    have e : vw s = v := by simp only [vw, hv]
    exact ⟨by rw [hv, e], h1.1.2, by simpa using h1.2, h⟩
  · cases h

/-! ## Lanes: the hypotheses of the statements about arithmetic, bits and conversions -/

/-- d = g3, a = g1 and b = g2, or b unused. -/
def rf (op : Nat) : RFmt := ⟨3#6, false, false, .reg 1#6, if (usedSrcs op ⟨0#6, false, false, .reg 1#6, .reg 2#6⟩).length < 2 then .reg 0#6 else .reg 2#6⟩

/-- g1, g2 and g3 with one tag. -/
def abd (t : Tag) : List (Nat × Reg) := [(1, ⟨5#32, t⟩), (2, ⟨7#32, t⟩), (3, ⟨9#32, t⟩)]

theorem witness_IntegerArithmetic :
    (∀ e ∈ intTable, Meets (demo (e.2.1 (rf e.1)) (abd .i8x4)) (slotR e.1 (rf e.1)) fun x => x.agree (polySrcs e.1 (rf e.1)) .i8x4) ∧
    (∀ e ∈ divTable, Meets (demo (e.2.1 (rf e.1)) (abd .i16x2)) (slotR e.1 (rf e.1)) fun x => x.agree (polySrcs e.1 (rf e.1)) .i16x2) ∧
    Meets (demo (.mulh (rf 5)) (abd .i32)) (slotR 5 (rf 5)) (fun x => x.agree (polySrcs 5 (rf 5)) .i32) ∧
    Meets (demo (.mulhu (rf 6)) (abd .i32)) (slotR 6 (rf 6)) (fun x => x.agree (polySrcs 6 (rf 6)) .i32) := by
  refine ⟨fun e he => meets_of (fun x => agree_of) ?_, fun e he => meets_of (fun x => agree_of) ?_, meets_of (fun x => agree_of) (by decide),
    meets_of (fun x => agree_of) (by decide)⟩ <;> revert e <;> decide

theorem witness_FloatArithmeticAndComparisons :
    (∀ e ∈ fltTable, Meets (demo (e.2.1 (rf e.1)) (abd .f32)) (slotR e.1 (rf e.1)) fun x => x.agree (polySrcs e.1 (rf e.1)) .f32) ∧
    (∀ e ∈ fltPickTable, Meets (demo (e.2.1 (rf e.1)) (abd .e5m2x4)) (slotR e.1 (rf e.1)) fun x => x.agree (polySrcs e.1 (rf e.1)) .e5m2x4) ∧
    (∀ e ∈ cmpTable, e.2.2.1 .i32 = true → Meets (demo (e.2.1 (rf e.1)) (abd .i32)) (slotR e.1 (rf e.1)) fun x => x.agree (polySrcs e.1 (rf e.1)) .i32) ∧
    (∀ e ∈ cmpTable, e.2.2.1 .f32 = true → Meets (demo (e.2.1 (rf e.1)) (abd .f32)) (slotR e.1 (rf e.1)) fun x => x.agree (polySrcs e.1 (rf e.1)) .f32) := by
  refine ⟨fun e he => meets_of (fun x => agree_of) ?_, fun e he => meets_of (fun x => agree_of) ?_, fun e he _ => meets_of (fun x => agree_of) ?_,
    fun e he _ => meets_of (fun x => agree_of) ?_⟩
  · revert e; decide
  · revert e; decide
  · rename_i h; revert e; decide
  · rename_i h; revert e; decide

theorem witness_BlockArithmeticClamps :
    (∀ e ∈ blkTable, Meets (demo (e.2.1 (rf e.1)) (abd .bfp4x8)) (slotR e.1 (rf e.1)) fun x => x.agree (polySrcs e.1 (rf e.1)) .bfp4x8) ∧
    (∀ e ∈ scaleTable, Meets (demo (e.2.1 (rf e.1)) (abd .scale)) (slotR e.1 (rf e.1)) fun x => x.agree (polySrcs e.1 (rf e.1)) .scale) := by
  refine ⟨fun e he => meets_of (fun x => agree_of) ?_, fun e he => meets_of (fun x => agree_of) ?_⟩ <;> revert e <;> decide

theorem witness_BitsMovesAndPairs :
    (∀ e ∈ bitTable, Meets (demo (e.2.1 (rf e.1)) (abd .i32)) (slotR e.1 (rf e.1)) fun x =>
      x.readable false (rf e.1).a ∧ x.readable e.2.2.1 (rf e.1).b) ∧
    Meets (demo (.clz (rf 0x01A)) (abd .i8x4)) (slotR 0x01A (rf 0x01A)) (fun x => x.readable false (rf 0x01A).a) ∧
    Meets (demo (.popc (rf 0x01B)) (abd .i8x4)) (slotR 0x01B (rf 0x01B)) (fun x => x.readable false (rf 0x01B).a) ∧
    Meets (demo (.bfi (rf 0x01E)) (abd .i32)) (slotR 0x01E (rf 0x01E)) (fun x =>
      x.readable false (.reg 1#6) ∧ x.readable true (.reg 2#6) ∧ (x.reg 3).tag ≠ .none) ∧
    Meets (demo (.sel (rf 0x01F)) (abd .f32)) (slotR 0x01F (rf 0x01F)) (fun x => x.agree [.reg 1#6, .reg 2#6] .f32 ∧ (x.reg 3).tag ≠ .none) ∧
    Meets (demo (.mov (rf 0x001)) []) (slotR 0x001 (rf 0x001)) (fun x => x.carries .i32 (.reg 1#6) fun _ => True) ∧
    Meets (demo (.nop (⟨0#6, false, false, .reg 0#6, .reg 0#6⟩)) []) (slotR 0x04E ⟨0#6, false, false, .reg 0#6, .reg 0#6⟩) (fun _ => True) ∧
    Meets (demo (.tagget (rf 0x03A)) []) (slotR 0x03A (rf 0x03A)) (fun x => x.carries .i32 (.reg 1#6) fun _ => True) ∧
    Meets (demo (.tagset (rf 0x039)) [(1, ⟨5#32, .f32⟩), (2, ⟨13#32, .i32⟩)]) (slotR 0x039 (rf 0x039)) (fun x =>
      (x.readable false (.reg 1#6) ∧ x.readable true (.reg 2#6)) ∧ (x.bits .i32 0#32 (.reg 2#6)).toNat % 16 < 14) ∧
    Meets (demo (.addp ⟨2#6, false, false, .reg 0#6, .reg 4#6⟩) [(0, ⟨8#32, .addr⟩), (1, ⟨0#32, .addr⟩), (4, ⟨9#32, .i32⟩)])
      (slotR 0x04F ⟨2#6, false, false, .reg 0#6, .reg 4#6⟩ [1, 3]) fun x =>
        (x.reg 0).tag = .addr ∧ (x.reg 1).tag = .addr ∧ x.readable true (.reg 4#6) := by
  refine ⟨fun e he => meets_of (ok := fun x => readableB x false (rf e.1).a && readableB x e.2.2.1 (rf e.1).b) (fun x h => ?_) (by revert e; decide),
    meets_of (fun x => readable_of) (by decide), meets_of (fun x => readable_of) (by decide),
    meets_of (ok := fun x => readableB x false (.reg 1#6) && readableB x true (.reg 2#6) && (x.reg 3).tag != .none) (fun x h => ?_) (by decide),
    meets_of (ok := fun x => agreeB x [.reg 1#6, .reg 2#6] .f32 && (x.reg 3).tag != .none) (fun x h => ?_) (by decide),
    meets_of (ok := fun x => carriesB x .i32 (.reg 1#6) fun _ => true) (fun x => carries_of (by simp)) (by decide),
    meets_of (ok := fun _ => true) (by simp) (by decide),
    meets_of (ok := fun x => carriesB x .i32 (.reg 1#6) fun _ => true) (fun x => carries_of (by simp)) (by decide),
    meets_of (ok := fun x => readableB x false (.reg 1#6) && readableB x true (.reg 2#6) && decide ((x.bits .i32 0#32 (.reg 2#6)).toNat % 16 < 14))
      (fun x h => ?_) (by decide),
    meets_of (ok := fun x => (x.reg 0).tag == .addr && (x.reg 1).tag == .addr && readableB x true (.reg 4#6)) (fun x h => ?_) (by decide)⟩ <;>
  simp only [Bool.and_eq_true, bne_iff_ne, beq_iff_eq, decide_eq_true_eq] at h
  · exact ⟨readable_of h.1, readable_of h.2⟩
  · exact ⟨readable_of h.1.1, readable_of h.1.2, h.2⟩
  · exact ⟨agree_of h.1, h.2⟩
  · exact ⟨⟨readable_of h.1.1, readable_of h.1.2⟩, h.2⟩
  · exact ⟨h.1.1, h.1.2, readable_of h.2⟩

theorem witness_Conversions :
    (∀ e ∈ ([(0x02B, .cvtF32), (0x02C, .cvtI32)] : List (Nat × (RFmt → Instr))),
      Meets (demo (e.2 (rf e.1)) [(1, ⟨5#32, .f16x2⟩), (2, ⟨1#32, .i32⟩)]) (slotR e.1 (rf e.1)) fun x =>
        x.carries .i32 (.reg 1#6) (· = .f16x2) ∧ x.readable true (.reg 2#6)) ∧
    (∀ e ∈ packTable, Meets (demo (e.2.1 (rf e.1)) (abd .f32)) (slotR e.1 (rf e.1)) fun x => x.agree [.reg 1#6, .reg 2#6] .f32 ∧ (x.reg 3).tag ≠ .none) ∧
    (∀ e ∈ ([(0x035, .qntB8), (0x036, .qntB4), (0x037, .qntB2)] : List (Nat × (RFmt → Instr))),
      Meets (demo (e.2 (rf e.1)) (abd .f32)) (slotR e.1 (rf e.1)) fun x =>
        x.carries .f32 (.reg 1#6) (· = .f32) ∧ x.carries .f32 (.reg 2#6) (· = .f32) ∧ (x.reg 3).tag ≠ .none) ∧
    Meets (demo (.deq (rf 0x038)) [(1, ⟨5#32, .bfp8x4⟩), (2, ⟨3#32, .i32⟩)]) (slotR 0x038 (rf 0x038)) fun x =>
      x.carries .i32 (.reg 1#6) (· = .bfp8x4) ∧ x.readable true (.reg 2#6) := by
  refine ⟨fun e he => meets_of (ok := fun x => carriesB x .i32 (.reg 1#6) (· == .f16x2) && readableB x true (.reg 2#6)) (fun x h => ?_) (by revert e; decide),
    fun e he => meets_of (ok := fun x => agreeB x [.reg 1#6, .reg 2#6] .f32 && (x.reg 3).tag != .none) (fun x h => ?_) (by revert e; decide),
    fun e he => meets_of (ok := fun x => carriesB x .f32 (.reg 1#6) (· == .f32) && carriesB x .f32 (.reg 2#6) (· == .f32) && (x.reg 3).tag != .none)
      (fun x h => ?_) (by revert e; decide),
    meets_of (ok := fun x => carriesB x .i32 (.reg 1#6) (· == .bfp8x4) && readableB x true (.reg 2#6)) (fun x h => ?_) (by decide)⟩ <;>
  simp only [Bool.and_eq_true, bne_iff_ne] at h
  · exact ⟨carries_of (by simp) h.1, readable_of h.2⟩
  · exact ⟨agree_of h.1, h.2⟩
  · exact ⟨carries_of (by simp) h.1.1, carries_of (by simp) h.1.2, h.2⟩
  · exact ⟨carries_of (by simp) h.1, readable_of h.2⟩

/-! ## Control words, register blocks, control transfer, traps and waiting -/

/-- The hypotheses of a statement that depends on what lanes take: `ok` of each active lane before, `val` after, and `pv` of the view. -/
def MeetsWhen (s : State) (sl : Slot) (pv : View → Prop) (ok : Lane → Prop) (val : Word → Word → Lane → Prop) : Prop :=
  ∃ v s' l, Issues s v sl ∧ s.takes v sl v.act = some (s', l) ∧ l ≠ [] ∧ pv v ∧ (∀ k ∈ v.act, ∀ x, s.lane? v.w.uid k = some x → ok x) ∧
    ∀ e ∈ l, ∀ x, s'.lane? v.w.uid e.1 = some x → val e.2.1 e.2.2 x

theorem meetsWhen_of {s : State} {sl : Slot} {pv : View → Prop} {okB : Lane → Bool} {ok : Lane → Prop} {val : Word → Word → Lane → Prop}
    [∀ v, Decidable (pv v)] [∀ a b x, Decidable (val a b x)] (hp : ∀ x, okB x = true → ok x)
    (h : (meetsB s sl okB && decide (pv (vw s)) && (tk s sl).2.all fun e => ((tk s sl).1.lane? (vw s).w.uid e.1).all fun x =>
      decide (val e.2.1 e.2.2 x)) = true) : MeetsWhen s sl pv ok val := by
  simp only [meetsB, Bool.and_eq_true] at h
  obtain ⟨⟨⟨⟨⟨⟨h1, h2⟩, h3⟩, h4⟩, h5⟩, h6⟩, h7⟩ := h
  refine ⟨vw s, _, _, issues_of h1, takes_of h2, by simpa using h3, of_decide_eq_true h6, all_lanes hp h4, fun e he x hx => ?_⟩
  have a := List.all_eq_true.mp h7 e he
  rw [hx] at a
  simpa using a

/-- CWW of g1 from g2. -/
def cwwDemo (n w : Nat) (g : State → State := id) : State := demo (.cww ⟨0#6, false, false, .reg 1#6, .reg 2#6⟩) [(1, ⟨BitVec.ofNat 32 n, .i32⟩), (2, ⟨BitVec.ofNat 32 w, .f32⟩)] g

/-- The demo's wave in another context. -/
def inCtx (c : BitVec 12) (s : State) : State :=
  { s with waves := s.waves.map fun w => { w with ctx := c }, ctxs := s.ctxs ++ (s.ctxs.map fun x => { x with id := c }) }

theorem witness_ControlWords :
    Meets (demo (.cwr (rf 0x03B)) [(1, ⟨0x1B#32, .i32⟩)]) (slotR 0x03B (rf 0x03B)) (fun x => x.readable true (.reg 1#6)) ∧
    (∀ e ∈ ([(0x00, 3), (0x02, 511), (0x15, 15), (0x17, 0xFFFFFFFF)] : List (Nat × Nat)),
      MeetsWhen (cwwDemo e.1 e.2) (slotR 0x03C ⟨0#6, false, false, .reg 1#6, .reg 2#6⟩) (fun _ => True)
        (fun x => x.readable true (.reg 1#6) ∧ x.readable false (.reg 2#6))
        fun pa pb x => (cwwEntry ((x.bits .i32 pa (.reg 1#6)).toNat % 256) (x.bits .i32 pb (.reg 2#6))).isSome = true) ∧
    (∀ e ∈ ([(0x00, 4), (0x04, 0), (0x15, 16), (0x1C, 0)] : List (Nat × Nat)),
      MeetsWhen (cwwDemo e.1 e.2) (slotR 0x03C ⟨0#6, false, false, .reg 1#6, .reg 2#6⟩) (fun _ => True)
        (fun x => x.readable true (.reg 1#6) ∧ x.readable false (.reg 2#6))
        fun pa pb x => (x.bits .i32 pa (.reg 1#6)).toNat % 256 ≠ 0x16 ∧
          cwwEntry ((x.bits .i32 pa (.reg 1#6)).toNat % 256) (x.bits .i32 pb (.reg 2#6)) = none) ∧
    (∀ e ∈ ([id, inCtx 5#12] : List (State → State)),
      MeetsWhen (cwwDemo 0x16 9 e) (slotR 0x03C ⟨0#6, false, false, .reg 1#6, .reg 2#6⟩) (fun v => v.w.lanes.length = 1)
        (fun x => x.readable true (.reg 1#6) ∧ x.readable false (.reg 2#6))
        fun pa _ x => (x.bits .i32 pa (.reg 1#6)).toNat % 256 = 0x16) ∧
    (vw (cwwDemo 0x16 9)).w.ctx = 0#12 ∧ (vw (cwwDemo 0x16 9 (inCtx 5#12))).w.ctx ≠ 0#12 := by
  have hr : ∀ x : Lane, (readableB x true (.reg 1#6) && readableB x false (.reg 2#6)) = true → x.readable true (.reg 1#6) ∧ x.readable false (.reg 2#6) :=
    fun x h => by simp only [Bool.and_eq_true] at h; exact ⟨readable_of h.1, readable_of h.2⟩
  refine ⟨meets_of (fun x => readable_of) (by decide), fun e he => meetsWhen_of hr (by revert e; decide), fun e he => meetsWhen_of hr (by revert e; decide),
    fun e he => ?_, by decide, by decide⟩
  simp only [List.mem_cons, List.not_mem_nil, or_false] at he
  rcases he with rfl | rfl <;> exact meetsWhen_of hr (by decide)

/-- A wave that takes the rest of the demo's pipeline. -/
def crowd (s : State) : State := { s with waves := s.waves ++ s.waves.map fun w => { w with uid := 99, bregs := 480 } }

/-- The demo's wave with a detached register block. -/
def xblock (s : State) : State := { s with waves := s.waves.map fun w => { w with xregs := 8 } }

def regxDemo (n : Int) (g : State → State := id) : State := demo (.regx (rf 0x03D)) [(1, ⟨BitVec.ofInt 32 n, .i32⟩)] g

/-- WFM of g1 with port q0 bound, and a record for it or none. -/
def wfmDemo (m : Nat) (available : Bool) : State :=
  demo (.wfm (rf 0x04A)) [(1, ⟨BitVec.ofNat 32 m, .i32⟩)]
    (fun s => if available then (s.arrive (.cluster 0 0)
      { key := 0#48, cls := 2#4, op := 0#4, prio := 0#2, car := false, stream := 0#15, target := 0#24, words := [], ctx := 0#12, ident := none,
        attempt := 0, sender := 0#32, origin := none, parent := none, counts := false, job := none, spawn := none }).1 else s)
    fun l => { l with ports := l.ports.setIfInBounds 0 ⟨true, false, 2#4, 0#48, 0#48, [], 0⟩ }

def svcDemo (hi : Nat) : State :=
  demo (.svc ⟨9#6, false, false, .reg 8#6, .inl 1#5⟩) ((8, ⟨7#32, .i32⟩) :: (1, ⟨BitVec.ofNat 32 hi, .addr⟩) :: (0, ⟨0#32, .addr⟩) :: [])

theorem witness_SystemInstructions :
    (∃ v s' pa pb x, Reads (regxDemo 0) v (slotR 0x03D (rf 0x03D)) s' pa pb x ∧ (∀ y ∈ [Src.reg 1#6], x.readable true y) ∧
      (x.bits .i32 pa (.reg 1#6)).toInt ≤ 0) ∧
    (∃ v s' pa pb x, Reads (regxDemo 33) v (slotR 0x03D (rf 0x03D)) s' pa pb x ∧ (∀ y ∈ [Src.reg 1#6], x.readable true y) ∧
      32 < (x.bits .i32 pa (.reg 1#6)).toInt) ∧
    (∃ v s' pa pb x, Reads (regxDemo 1 xblock) v (slotR 0x03D (rf 0x03D)) s' pa pb x ∧ (∀ y ∈ [Src.reg 1#6], x.readable true y) ∧
      (x.bits .i32 pa (.reg 1#6)).toInt = 1 ∧ v.w.xregs ≠ 0) ∧
    (∃ v s' pa pb x, Reads (regxDemo 32) v (slotR 0x03D (rf 0x03D)) s' pa pb x ∧ (∀ y ∈ [Src.reg 1#6], x.readable true y) ∧
      (x.bits .i32 pa (.reg 1#6)).toInt = 32 ∧ v.w.xregs = 0 ∧ s'.regxFree v.w v.iss 32 = true) ∧
    (∃ v s' pa pb x, Reads (regxDemo 32 crowd) v (slotR 0x03D (rf 0x03D)) s' pa pb x ∧ (∀ y ∈ [Src.reg 1#6], x.readable true y) ∧
      (x.bits .i32 pa (.reg 1#6)).toInt = 32 ∧ v.w.xregs = 0 ∧ s'.regxFree v.w v.iss 32 = false) ∧
    (∃ v, Issues (demo (.regrel ⟨0#6, false, false, .reg 0#6, .reg 0#6⟩) [] xblock) v (slotR 0x03F ⟨0#6, false, false, .reg 0#6, .reg 0#6⟩)) := by
  refine ⟨reads_of (by decide), reads_of (by decide), reads_of (by decide), reads_of (by decide), reads_of (by decide), ⟨_, issues_of (by decide)⟩⟩

theorem witness_SystemInstructions_waits :
    (∃ v s' pa pb x, Reads (wfmDemo 0 false) v (slotR 0x04A (rf 0x04A)) s' pa pb x ∧ (∀ y ∈ [Src.reg 1#6], x.readable true y) ∧
      (x.bits .i32 pa (.reg 1#6)).setWidth 8 = 0#8) ∧
    (∃ v s' pa pb x, Reads (wfmDemo 1 true) v (slotR 0x04A (rf 0x04A)) s' pa pb x ∧ (∀ y ∈ [Src.reg 1#6], x.readable true y) ∧
      (x.bits .i32 pa (.reg 1#6)).setWidth 8 = 1#8 ∧ (x.port 0).bound = true ∧ v.act = [0] ∧ wfmMask s' v 1#8 ≠ 0#32) ∧
    (∃ v s' pa pb x, Reads (wfmDemo 1 false) v (slotR 0x04A (rf 0x04A)) s' pa pb x ∧ (∀ y ∈ [Src.reg 1#6], x.readable true y) ∧
      (x.bits .i32 pa (.reg 1#6)).setWidth 8 = 1#8 ∧ (x.port 0).bound = true ∧ v.act = [0] ∧ wfmMask s' v 1#8 = 0#32) ∧
    (∀ e ∈ ([(0x04B, .retire), (0x04C, .yield)] : List (Nat × (RFmt → Instr))),
      ∃ v, Issues (demo (e.2 ⟨0#6, false, false, .reg 0#6, .reg 0#6⟩) []) v (slotR e.1 ⟨0#6, false, false, .reg 0#6, .reg 0#6⟩)) := by
  refine ⟨reads_of (by decide), reads_of (by decide), reads_of (by decide), fun e he => ⟨_, issues_of ?_⟩⟩
  revert e; decide

theorem witness_SystemInstructions_services :
    Meets (demo (.dmap (rf 0x04D)) [(1, ⟨0#32, .i32⟩), (2, ⟨2#32, .i32⟩)]) (slotR 0x04D (rf 0x04D) (priv := true))
      (fun x => x.readable true (.reg 1#6) ∧ x.readable true (.reg 2#6)) ∧
    (∀ hi ∈ [0, 0x400000],
      Meets (svcDemo hi) (slotR 0x048 ⟨9#6, false, false, .reg 8#6, .inl 1#5⟩ (List.range 8)) (fun x =>
        (x.readable true (.reg 8#6) ∧ x.readable true (.inl 1#5)) ∧ ∀ k < 4, (x.reg (2 * k)).tag = .addr ↔ (x.reg (2 * k + 1)).tag = .addr)) ∧
    svcBad (ln (svcDemo 0) 0) = false ∧ svcBad (ln (svcDemo 0x3FFFFF) 0) = true := by
  refine ⟨meets_of (ok := fun x => readableB x true (.reg 1#6) && readableB x true (.reg 2#6)) (fun x h => ?_) (by decide),
    fun hi hh => meets_of (ok := fun x => (readableB x true (.reg 8#6) && readableB x true (.inl 1#5)) &&
      (List.range 4).all fun k => ((x.reg (2 * k)).tag == .addr) == ((x.reg (2 * k + 1)).tag == .addr)) (fun x h => ?_) (by revert hi; decide), by decide, by decide⟩ <;>
  simp only [Bool.and_eq_true] at h
  · exact ⟨readable_of h.1, readable_of h.2⟩
  · exact ⟨⟨readable_of h.1.1, readable_of h.1.2⟩, fun k hk => by
      have a := List.all_eq_true.mp h.2 k (List.mem_range.mpr hk)
      rw [beq_iff_eq] at a
      rw [← beq_iff_eq, a, beq_iff_eq]⟩

/-! ### Control transfer and traps -/

/-- Unused register fields. -/
def r0 : RFmt := ⟨0#6, false, false, .reg 0#6, .reg 0#6⟩

/-- The demo's wave as an attached wave of `n` lanes, lane `k` changed by `f k`. -/
def wide (n : Nat) (f : Nat → Lane → Lane) (s : State) : State :=
  { s with waves := s.waves.map fun w => { w with
      lanes := (List.range n).flatMap fun k => w.lanes.map fun l => f k { l with uid := l.uid + 100 + k }
      live := BitVec.ofNat 32 (2 ^ n - 1), memb := BitVec.ofNat 32 (2 ^ n - 1) } }

/-- Lane 1 differs from the others in a register. -/
def lane1 (r : Nat) (x : Reg) (k : Nat) (l : Lane) : Lane := if k = 1 then l.setReg r x else l

/-- BRC on g1 equal to 0, g1 being `a`, and `b` in lane 1. -/
def brcDemo (a b : Nat) : State := demo (.brc ⟨1#6, 1#4, 2#12⟩) [(1, ⟨BitVec.ofNat 32 a, .i32⟩)] (wide 8 (lane1 1 ⟨BitVec.ofNat 32 b, .i32⟩))

/-- RET, JMPR or BRL through g7 : g6, whose low word is `a`, and `b` in lane 1. -/
def jumpDemo (i : RFmt → Instr) (op a b : Nat) : State :=
  demo (i ⟨if op = 0x045 then 8#6 else 0#6, false, false, .reg 6#6, .reg 0#6⟩) [(6, ⟨BitVec.ofNat 32 a, .addr⟩), (7, ⟨0#32, .addr⟩)]
    (wide 8 (lane1 6 ⟨BitVec.ofNat 32 b, .addr⟩))

def jumps : List (Nat × (RFmt → Instr)) := [(0x043, .ret), (0x044, .jmpr), (0x045, .brl)]

def jumpFmt (op : Nat) : RFmt := ⟨if op = 0x045 then 8#6 else 0#6, false, false, .reg 6#6, .reg 0#6⟩

def jumpFails (s : State) : List (Nat × Fail) := (vw s).act.filterMap fun k => (s.lane? (vw s).w.uid k).bind fun x => (x.jumpFail 6).map fun y => (k, y)

theorem witness_Branches :
    Issues (demo (.br ⟨0#6, 0#4, 0x7FF#12⟩) []) (vw (demo (.br ⟨0#6, 0#4, 0x7FF#12⟩) [])) (slotB 0x040 ⟨0#6, 0#4, 0x7FF#12⟩) ∧
    Issues (demo (.call ⟨0#6, 0#4, 6#12⟩) []) (vw (demo (.call ⟨0#6, 0#4, 6#12⟩) [])) (slotB 0x042 ⟨0#6, 0#4, 6#12⟩ [6, 7]) ∧
    (∀ e ∈ ([(0, 0), (1, 1), (0, 1)] : List (Nat × Nat)), Issues (brcDemo e.1 e.2) (vw (brcDemo e.1 e.2)) (slotB 0x041 ⟨1#6, 1#4, 2#12⟩)) ∧
    (ln (brcDemo 0 0) 0).reg 1 = ⟨0#32, .i32⟩ ∧ (ln (brcDemo 1 1) 1).reg 1 = ⟨1#32, .i32⟩ ∧
    (ln (brcDemo 0 1) 0).reg 1 = ⟨0#32, .i32⟩ ∧ (ln (brcDemo 0 1) 1).reg 1 = ⟨1#32, .i32⟩ ∧ (vw (brcDemo 0 1)).act = List.range 8 ∧
    (∀ e ∈ jumps, Issues (jumpDemo e.2 e.1 8 8) (vw (jumpDemo e.2 e.1 8 8)) (slotIndirect e.1 (jumpFmt e.1)) ∧ jumpFails (jumpDemo e.2 e.1 8 8) = []) ∧
    (∀ e ∈ jumps, Issues (jumpDemo e.2 e.1 8 12) (vw (jumpDemo e.2 e.1 8 12)) (slotIndirect e.1 (jumpFmt e.1)) ∧ jumpFails (jumpDemo e.2 e.1 8 12) = []) ∧
    (∀ e ∈ jumps, Issues (jumpDemo e.2 e.1 8 6) (vw (jumpDemo e.2 e.1 8 6)) (slotIndirect e.1 (jumpFmt e.1)) ∧ jumpFails (jumpDemo e.2 e.1 8 6) ≠ []) ∧
    (brcDemo 0 0).view ⟨State.reset.uid + 1, none⟩ = some (vw (brcDemo 0 0)) ∧ (vw (brcDemo 0 0)).thr.untokened = false := by
  refine ⟨issues_of (by decide), issues_of (by decide), fun e he => issues_of (by revert e; decide), by decide, by decide, by decide, by decide,
    by decide, fun e he => ⟨issues_of ?_, ?_⟩, fun e he => ⟨issues_of ?_, ?_⟩, fun e he => ⟨issues_of ?_, ?_⟩, by decide, by decide⟩ <;> revert e <;> decide

/-- A lane in a handler. -/
def inHandler (l : Lane) : Lane := { l with trapcause := 0x2302#32, epc := 64#32, sh0 := some ⟨1#32, .i32⟩ }

/-- A lane with a trap vector. -/
def vectored (l : Lane) : Lane := { l with trapvec := 4096#32 }

def trapDemo : State := demo (.trap ⟨0#6, false, false, .reg 1#6, .reg 0#6⟩) [(1, ⟨0x77#32, .f32⟩)] id vectored

/-- A trap of some lanes. -/
def someTrap (lanes : List Nat) : TrapInfo := { lanes := lanes, cause := .fmt, addr := 0#64, trapaddr := 5#32, hdr := 0#54, slot := 15 }

theorem witness_TrapInstructionsAndReturn :
    Meets trapDemo (slotR 0x046 ⟨0#6, false, false, .reg 1#6, .reg 0#6⟩) (fun x => x.readable false (.reg 1#6)) ∧
    (tk trapDemo (slotR 0x046 ⟨0#6, false, false, .reg 1#6, .reg 0#6⟩)).2.head? = some ((vw trapDemo).low, 0#32, 0#32) ∧
    Issues (demo (.brk r0) []) (vw (demo (.brk r0) [])) (slotR 0x049 r0) ∧
    (∀ h ∈ [id, inHandler], Issues (demo (.eret r0) [] id h) (vw (demo (.eret r0) [] id h)) (slotR 0x047 r0)) ∧
    (vw (demo (.eret r0) [] id inHandler)).inh = true ∧ (vw (demo (.eret r0) [])).inh = false ∧
    (demo (.eret r0) [] id inHandler).view ⟨State.reset.uid + 1, none⟩ = some (vw (demo (.eret r0) [] id inHandler)) ∧
    (vw (demo (.eret r0) [] id inHandler)).w.lanes = [ln (demo (.eret r0) [] id inHandler) 0] ∧ (vw (demo (.eret r0) [] id inHandler)).act = [0] ∧
    (vw (demo (.eret r0) [] id inHandler)).thr.untokened = false := by
  refine ⟨meets_of (fun x => readable_of) (by decide), by decide, issues_of (by decide), fun h hh => ?_, by decide, by decide, by decide, by decide,
    by decide, by decide⟩
  simp only [List.mem_cons, List.not_mem_nil, or_false] at hh
  rcases hh with rfl | rfl <;> exact issues_of (by decide)

theorem witness_TrapEntry :
    (∀ h ∈ [vectored, fun l => inHandler (vectored l)], (demo (.nop r0) [] id h).view ⟨State.reset.uid + 1, none⟩ = some (vw (demo (.nop r0) [] id h)) ∧
      (vw (demo (.nop r0) [] id h)).w.lanes = [ln (demo (.nop r0) [] id h) 0]) ∧ (someTrap [0]).lanes = [0] ∧ (someTrap [0]).slot < 16 ∧
    (ln (demo (.nop r0) [] id vectored) 0).trapcause.getLsbD 13 = false ∧
    (ln (demo (.nop r0) [] id vectored) 0).trapvecHi ++ (ln (demo (.nop r0) [] id vectored) 0).trapvec ≠ 0#54 ∧
    (ln (demo (.nop r0) [] id fun l => inHandler (vectored l)) 0).trapcause.getLsbD 13 = true ∧
    (demo (.nop r0) [] (wide 8 fun _ => id) vectored).view ⟨State.reset.uid + 1, none⟩ = some (vw (demo (.nop r0) [] (wide 8 fun _ => id) vectored)) ∧
    1 < (vw (demo (.nop r0) [] (wide 8 fun _ => id) vectored)).w.lanes.length ∧
    (∀ k ∈ (someTrap [1, 7]).lanes, (ln (demo (.nop r0) [] (wide 8 fun _ => id) vectored) k).trapcause.getLsbD 13 = false ∧
      (ln (demo (.nop r0) [] (wide 8 fun _ => id) vectored) k).trapvec ≠ 0#32) := by
  refine ⟨fun h hh => ?_, by decide, by decide, by decide, by decide, by decide, by decide, by decide, by decide⟩
  simp only [List.mem_cons, List.not_mem_nil, or_false] at hh
  rcases hh with rfl | rfl <;> decide

/-! ## Memory -/

/-- A memory window that knows the first 4 KiB of its run; past it the context's table, which is empty, is walked. -/
def win0 : Window := ⟨true, false, 0#54, 4096#31, true, 0x200000#57, 0x1F#17⟩

/-- A memory slot: offset in g1, data from g8 up, window w0. -/
def memF : MFmt := ⟨8#6, 8#4, 0#3, .reg 1#6, 0#2⟩

def withWin (w : Window) (s : State) : State :=
  { s with waves := s.waves.map fun x => { x with thr := { x.thr with wins := x.thr.wins.setIfInBounds 0 w } } }

/-- Eight lanes at the offset `a`, lane 1 at `b`; g8 to g15 carry `t`. -/
def memDemo (i : Instr) (t : Tag) (a b : Nat) : State :=
  demo i ((1, ⟨BitVec.ofNat 32 a, .i32⟩) :: (List.range 8).map fun k => (8 + k, ⟨BitVec.ofNat 32 k, t⟩))
    (fun s => wide 8 (lane1 1 ⟨BitVec.ofNat 32 b, .i32⟩) (withWin win0 s))

/-- How many lanes may perform, trap and meet an invalid entry. -/
def kinds (rs : List (Nat × Resolved)) : Nat × Nat × Nat :=
  ((rs.filter fun e => match e.2 with | .ok _ _ => true | _ => false).length, (rs.filter fun e => match e.2 with | .trap _ => true | _ => false).length,
    (rs.filter fun e => match e.2 with | .fault _ _ => true | _ => false).length)

def MemMeets (s : State) (sl : Slot) (f : MFmt) (m : MemOp) (ok : Lane → Prop) (n : Nat × Nat × Nat) : Prop :=
  ∃ v s' s1 l offs rs, MemIssues s v sl f m.sync ok s' l offs ∧ resolveLanes v f m offs s' = (s1, rs) ∧ kinds rs = n

def memTk (s : State) (sl : Slot) : State × List (Nat × Word × Word) := (s.memTakes (vw s) sl).getD (s, [])

def memOffs (s : State) (sl : Slot) (f : MFmt) (sync : Bool) : List (Nat × Word) :=
  (memTk s sl).2.filterMap fun e => ((vw s).w.lanes[e.1]?).map fun x => (e.1, x.offset f sync e.2.1)

def memB (s : State) (sl : Slot) (f : MFmt) (m : MemOp) (ok : Lane → Bool) (n : Nat × Nat × Nat) : Bool :=
  issuesB s sl && !(vw s).thr.winBusy f.w.toNat && !(vw s).thr.acquiring && (s.memTakes (vw s) sl).isSome &&
    ((memTk s sl).2.all fun e => ((vw s).w.lanes[e.1]?).all fun x => ok x && readableB x true (offsetSrc f)) &&
    kinds (resolveLanes (vw s) f m (memOffs s sl f m.sync) (memTk s sl).1).2 == n

theorem mem_of {s : State} {sl : Slot} {f : MFmt} {m : MemOp} {okB : Lane → Bool} {ok : Lane → Prop} {n : Nat × Nat × Nat}
    (hp : ∀ x, okB x = true → ok x) (h : memB s sl f m okB n = true) : MemMeets s sl f m ok n := by
  simp only [memB, Bool.and_eq_true, Bool.not_eq_true', beq_iff_eq] at h
  obtain ⟨⟨⟨⟨⟨h1, h2⟩, h6⟩, h3⟩, h4⟩, h5⟩ := h
  obtain ⟨x, hx⟩ := Option.isSome_iff_exists.mp h3
  refine ⟨vw s, (memTk s sl).1, _, (memTk s sl).2, _, _, ⟨issues_of h1, h2, h6, by simp only [memTk, hx, Option.getD_some], fun e he x hl => ?_, rfl⟩, rfl, h5⟩
  have a := List.all_eq_true.mp h4 e he
  rw [hl] at a
  simp only [Option.all_some, Bool.and_eq_true] at a
  exact ⟨hp _ a.1, readable_of a.2⟩

/-- An access that passes, the last that lies in the window, one that is misaligned, and one past the run in lane 1. -/
def memPlaces (n : Nat) : List (Nat × Nat × Nat × Nat × Nat) :=
  [(0, 0, 8, 0, 0), (4096 - n, 0, 8, 0, 0), (0, 4096, 7, 0, 1)] ++ if n = 1 then [] else [(0, 1, 7, 1, 0)]

def memAll (i : Instr) (t : Tag) (sl : Slot) (m : MemOp) (ok : Lane → Bool) : Bool :=
  (memPlaces m.bytes).all fun e => memB (memDemo i t e.1 e.2.1) sl memF m ok e.2.2

/-- The hypotheses of every case of a memory instruction are met. -/
def MemAll (i : Instr) (t : Tag) (sl : Slot) (m : MemOp) (ok : Lane → Prop) : Prop :=
  ∀ e ∈ memPlaces m.bytes, MemMeets (memDemo i t e.1 e.2.1) sl memF m ok e.2.2

theorem memAll_of {i : Instr} {t : Tag} {sl : Slot} {m : MemOp} {okB : Lane → Bool} {ok : Lane → Prop} (hp : ∀ x, okB x = true → ok x)
    (h : memAll i t sl m okB = true) : MemAll i t sl m ok := fun e he => mem_of hp (List.all_eq_true.mp h e he)

theorem witness_Loads :
    (∀ e ∈ loadTable, MemAll (e.2.1 memF) .i32 (slotM e.1 memF ((List.range e.2.2.1).map (8 + ·)) (8 % e.2.2.1 != 0))
      (loadSpec (4 * e.2.2.1) 4 (if e.2.2.2.2 then View.ownPath else View.l1Path) ((List.range e.2.2.1).map (8 + ·)) fun b => (List.range e.2.2.1).map fun j => (8 + j, ⟨wordAt b j, e.2.2.2.1⟩))
      fun _ => True) ∧
    (∀ e ∈ narrowTable, MemAll (e.2.1 memF) .i32 (slotM e.1 memF [8] false)
      (loadSpec e.2.2.1 e.2.2.1 View.l1Path [8] fun b => [(8, ⟨e.2.2.2.2 b, e.2.2.2.1⟩)]) fun _ => True) ∧
    MemAll (.ldAddr memF) .i32 (slotM 0x08C memF [8, 9] false)
      (loadSpec 8 8 View.l1Path [8, 9] fun b => [(8, ⟨wordAt b 0, .addr⟩), (9, ⟨wordAt b 1, .addr⟩)]) (fun _ => True) ∧
    MemAll (.lda memF) .i32 (slotM 0x097 memF [8] false)
      { loadSpec 4 4 (fun _ => .coherent) [8] (fun b => [(8, ⟨wordAt b 0, .i32⟩)]) with sync := true } (fun _ => True) := by
  refine ⟨fun e he => memAll_of (okB := fun _ => true) (by simp) ?_, fun e he => memAll_of (okB := fun _ => true) (by simp) ?_,
    memAll_of (okB := fun _ => true) (by simp) (by decide +kernel), memAll_of (okB := fun _ => true) (by simp) (by decide +kernel)⟩ <;> revert e <;> decide +kernel

theorem witness_Stores : ∀ e ∈ storeTable, MemAll (e.2.1 memF) .f32 (slotM e.1 memF ((List.range e.2.2.1).map (8 + ·)) (8 % e.2.2.1 != 0))
    (storeSpec 8 e.2.2.1 e.2.2.2.1 e.2.2.2.2.2) fun x => e.2.2.2.2.1 = false → ∀ j < e.2.2.1, (x.reg (8 + j)).tag ≠ .none := by
  refine fun e he => memAll_of (okB := fun x => (List.range e.2.2.1).all fun j => (x.reg (8 + j)).tag != .none) (fun x h _ j hj => ?_) ?_
  · simpa using List.all_eq_true.mp h j (List.mem_range.mpr hj)
  · revert e; decide +kernel

/-- What an atomic's checks depend on. -/
def rmwDemo : MemOp := { bytes := 4, align := 4, kind := .atomic, sync := true, dest := [8], check := fun _ => .ok (), perform := fun s _ _ _ _ => (s, some []) }

/-- The tag of the data register of an atomic's demo. -/
def atomicTag (t : Option Tag) : Tag := t.getD .f16x2

theorem witness_Atomics :
    (∀ e ∈ atomicTable, MemAll (e.2.1 memF) (atomicTag e.2.2.1) (slotM e.1 memF [8] false) rmwDemo
      fun x => match e.2.2.1 with | some t => (x.reg 8).tag = t | none => (x.reg 8).tag ≠ .none) ∧
    MemAll (.acas memF) .i32 (slotM 0x0A9 memF [8, 9] false) rmwDemo fun x => (x.reg 8).tag ≠ .none ∧ (x.reg 9).tag ≠ .none := by
  refine ⟨fun e he => memAll_of (okB := fun x => match e.2.2.1 with | some t => (x.reg 8).tag == t | none => (x.reg 8).tag != .none)
      (fun x h => by split at h <;> simpa using h) ?_,
    memAll_of (okB := fun x => (x.reg 8).tag != .none && (x.reg 9).tag != .none) (fun x h => by simpa using h) (by decide +kernel)⟩
  revert e; decide +kernel

/-- A slot without sources or data. -/
def fenceF : MFmt := ⟨0#6, 8#4, 0#3, .reg 0#6, 0#2⟩

/-- WIN w0 of the pair g9 : g8 with its length in g1. -/
def winDemo (hi lo n : Nat) (g : State → State := id) : State :=
  demo (.win memF) [(1, ⟨BitVec.ofNat 32 n, .i32⟩), (8, ⟨BitVec.ofNat 32 lo, .addr⟩), (9, ⟨BitVec.ofNat 32 hi, .addr⟩)] g

def winSlot : Slot := slotM0 0x0AD memF [.reg 1#6] [8, 9] false

/-- A root table whose first entry leads to a page of 64 GiB at frame 0, with every permission. -/
def paged (s : State) : State := { s with mem := [(0, 1#8), (1, 16#8), (4096, 0x1F#8)] }

def leafB : Xlat → Bool | .leaf _ _ => true | .fault _ => false

theorem witness_Windows :
    (∀ e ∈ ([(0x400000, 0, 1), (0x3F0000, 0, 1), (0x3FFFFF, 0xFFE01000, 1), (0x3FFFFF, 0xFFE00FFF, 1), (0x3FFFFF, 0xFFE00000, 0), (0, 0x40000, 64),
        (0x3EFFFF, 0xFFFFFFFF, 9)] : List (Nat × Nat × Nat)),
      ∃ v s' pa pb x, Reads (winDemo e.1 e.2.1 e.2.2) v winSlot s' pa pb x ∧ (∀ y ∈ [Src.reg 1#6], x.readable true y) ∧
        (x.reg 8).tag = .addr ∧ (x.reg 9).tag = .addr ∧ v.thr.winBusy 0 = false ∧ (s'.scratchOf v.w).2 = 4096 ∧
        ((x.reg 9).bits ++ (x.reg 8).bits).toNat = 2 ^ 32 * e.1 + e.2.1 ∧
        (e.1 ≤ 0x3EFFFF → leafB (s'.translate v.w.die v.w.ctx (2 ^ 32 * e.1 + e.2.1)).2 = false)) ∧
    (∃ v s' pa pb x, Reads (winDemo 0 0x40000 64 paged) v winSlot s' pa pb x ∧ (∀ y ∈ [Src.reg 1#6], x.readable true y) ∧
      (x.reg 8).tag = .addr ∧ (x.reg 9).tag = .addr ∧ v.thr.winBusy 0 = false ∧
      leafB (s'.translate v.w.die v.w.ctx ((x.reg 9).bits ++ (x.reg 8).bits).toNat).2 = true) ∧
    (∀ w ∈ [win0, Window.invalid], ∃ v, Issues (demo (.winq fenceF) [] (withWin w)) v (slotM0 0x0AE fenceF [] [0] false) ∧
      v.thr.winBusy 0 = false ∧ v.thr.wins[0]? = some w) := by
  refine ⟨fun e he => ?_, reads_of (by decide +kernel), fun w hw => ⟨_, issues_of ?_, ?_⟩⟩
  · simp only [List.mem_cons, List.not_mem_nil, or_false] at he
    rcases he with rfl | rfl | rfl | rfl | rfl | rfl | rfl <;> exact reads_of (by decide +kernel)
  all_goals revert w; decide +kernel

theorem witness_FencesAndLines :
    (∀ e ∈ ([(0x0AA, .fenceAcq), (0x0AB, .fenceRel), (0x0AC, .fenceAr)] : List (Nat × (MFmt → Instr))),
      ∃ v, Issues (demo (e.2 fenceF) []) v (slotM0 e.1 fenceF [] [] false)) ∧ State.reset.memOk = true ∧
    ∀ e ∈ ([(0x0AF, .pfetch), (0x0B0, .clean), (0x0B1, .inval)] : List (Nat × (MFmt → Instr))),
      Meets (memDemo (e.2 ⟨0#6, 8#4, 0#3, .reg 1#6, 0#2⟩) .i32 128 256) (slotM e.1 ⟨0#6, 8#4, 0#3, .reg 1#6, 0#2⟩ [] false)
        (fun x => x.readable true (.reg 1#6)) ∧
      (vw (memDemo (e.2 ⟨0#6, 8#4, 0#3, .reg 1#6, 0#2⟩) .i32 128 256)).thr.winBusy 0 = false := by
  refine ⟨fun e he => ⟨_, issues_of ?_⟩, by decide, fun e he => ⟨meets_of (fun x => readable_of) ?_, ?_⟩⟩ <;> revert e <;> decide +kernel

/-- The state in which an instruction leaves the machine. -/
def after (i : Instr) (s : State) : State := match exec i s with | .next t => t | _ => s

/-- Windows, offset, size and alignment of an access: every clause about a lane's checks at its bounds. The last component says which. -/
def resolveCases : List (Window × Nat × Nat × Nat × Nat) :=
  let scr (b n : Nat) : Window := ⟨true, true, BitVec.ofNat 54 b, BitVec.ofNat 31 n, false, 0#57, 0#17⟩
  let page (b : Nat) (run : Bool) : Window := ⟨true, false, BitVec.ofNat 54 b, 4096#31, run, 0x200000#57, 0x1F#17⟩
  [(Window.invalid, 0, 4, 4, 0), (scr 0 64, 0xFFFFFFFF, 4, 4, 1), (scr 0 64, 61, 4, 1, 1), (scr 2 64, 60, 4, 4, 2), (scr 4 64, 60, 4, 4, 3),
    (page 0 true, 3, 4, 4, 4), (page 0x3F000000000000 false, 0, 4, 4, 5), (page 0x3FFFFFFFDFFFF0 false, 12, 4, 4, 5), (page 0 true, 0x80000000, 4, 4, 5),
    (page 0x3FFFFFFFE00000 false, 4096, 4, 4, 6), (page 0x3FFFFFFFE00000 false, 4092, 4, 4, 7), (page 0 true, 4092, 4, 4, 8), (page 0 true, 0, 1, 1, 8)]

/-- The clause that a window, an offset, a size and an alignment fall under, for a scratchpad of 4096 bytes. -/
def resolveClause (w : Window) (o : Word) (z al : Nat) : Nat :=
  let va : BitVec 64 := w.base.setWidth 64 + o.signExtend 64
  if !w.valid then 0
  else if w.kind then
    (if o.toInt < 0 || w.limit.toNat < o.toNat + z then 1 else if (w.base.toNat + o.toNat) % al ≠ 0 then 2 else 3)
  else if va.toNat % al ≠ 0 then 4
  else if 2 ^ 54 ≤ va.toNat || (0x3F000000000000 ≤ va.toNat && va.toNat < 0x3FFFFFFFE00000) then 5
  else if 0x3FFFFFFFE00000 ≤ va.toNat then (if 4096 < va.toNat - 0x3FFFFFFFE00000 + z then 6 else 7)
  else if w.run && 0 ≤ o.toInt && o.toNat + z ≤ w.limit.toNat && 0 < z then 8 else 9

/-- A thread with a tokened operation outstanding. -/
theorem op_of {t : State} (h : ((t.view ⟨State.reset.uid + 1, none⟩).any fun v => v.thr.ops.any fun o =>
      v.thr.ops.find? (·.k == o.k) == some o && o.kind != .push && decide (o.tok.toNat < 8)) = true) :
    ∃ v o, t.view ⟨State.reset.uid + 1, none⟩ = some v ∧ v.thr.ops.find? (·.k == o.k) = some o ∧ o.kind ≠ .push ∧ o.tok.toNat < 8 := by
  obtain ⟨v, hv, h⟩ := Option.any_eq_true _ _ |>.mp h
  obtain ⟨o, -, h⟩ := List.any_eq_true.mp h
  simp only [Bool.and_eq_true, beq_iff_eq, bne_iff_ne, decide_eq_true_eq] at h
  exact ⟨v, o, hv, h.1.1, h.1.2, h.2⟩

theorem witness_AccessChecks :
    (∀ e ∈ resolveCases, let s := demo (.nop r0) [] (withWin e.1)
      (s.thrOf (vw s)).wins[0]? = some e.1 ∧ 0 < e.2.2.2.1 ∧ (s.scratchOf (vw s).w).2 = 4096 ∧
        resolveClause e.1 (BitVec.ofNat 32 e.2.1) e.2.2.1 e.2.2.2.1 = e.2.2.2.2) ∧
    (∃ c, (demo (.nop r0) []).ctx? (vw (demo (.nop r0) [])).w.ctx = some c ∧ c.rkey.getLsbD 0 = true ∧ c.wkey.getLsbD 63 = true ∧
      (demo (.nop r0) []).inRegion (vw (demo (.nop r0) [])).w 0 4 = true ∧ (demo (.nop r0) []).frozenIn 0x200000 4 = false) ∧
    ((0x1F#17).extractLsb' 5 6).toNat = 0 ∧ (0x1F#17).getLsbD 2 = true ∧ (0x1F#17).getLsbD 14 = false ∧ (0x1B#17).getLsbD 2 = false ∧
    (∃ v, (demo (.nop r0) []).view v.iss = some v ∧ v.inh = false) ∧
    (∀ t ∈ [after (.ldI32 ⟨8#6, 7#4, 0#3, .reg 1#6, 0#2⟩) (memDemo (.ldI32 ⟨8#6, 7#4, 0#3, .reg 1#6, 0#2⟩) .i32 0 4),
        after (.win ⟨8#6, 0#4, 1#3, .reg 1#6, 0#2⟩) (demo (.win ⟨8#6, 0#4, 1#3, .reg 1#6, 0#2⟩)
          [(1, ⟨64#32, .i32⟩), (8, ⟨0x40000#32, .addr⟩), (9, ⟨0#32, .addr⟩)] paged)],
      ∃ v o, t.view ⟨State.reset.uid + 1, none⟩ = some v ∧ v.thr.ops.find? (·.k == o.k) = some o ∧ o.kind ≠ .push ∧ o.tok.toNat < 8) := by
  refine ⟨by decide +kernel, ⟨Ctx.system, by decide +kernel⟩, by decide, by decide, by decide, by decide, ⟨vw (demo (.nop r0) []), by decide +kernel⟩, fun t ht => ?_⟩
  exact op_of (by revert t; decide +kernel)

theorem witness_MemoryFrame :
    (demo (.nop r0) [] paged).memOk = true ∧ ([(⟨0x200000, 2, 0x1F#17⟩ : Piece), ⟨0x400000, 2, 0x201F#17⟩].map (·.len)).sum = [1#8, 2#8, 3#8, 4#8].length ∧
    ∃ t, (demo (.nop r0) [] paged).team? (vw (demo (.nop r0) [] paged)).w.team = some t :=
  ⟨by decide, by decide, Option.isSome_iff_exists.mp (by decide)⟩

/-! ## Lanes together: votes, reductions, divergence, groups and barriers -/

/-- Eight lanes with one tag in g1 and I32 in g2, lane 1 with another value in g1. -/
def eight (i : Instr) (t : Tag) (b : Nat := 3) : State :=
  demo i [(1, ⟨5#32, t⟩), (2, ⟨BitVec.ofNat 32 b, .i32⟩)] (wide 8 (lane1 1 ⟨2#32, t⟩))

theorem witness_VotesAndShuffles :
    (∀ e ∈ voteTable, Meets (eight (e.2.1 (rf e.1)) .f32) (slotR e.1 (rf e.1)) fun x => x.carries .i32 (rf e.1).a (· = .f32)) ∧
    Meets (eight (.laneid ⟨3#6, false, false, .reg 0#6, .reg 0#6⟩) .i32) (slotR 0x0D2 ⟨3#6, false, false, .reg 0#6, .reg 0#6⟩) (fun _ => True) ∧
    (∀ n ∈ [0, 1, 2, 3], MeetsWhen (demo (.maskrd (rf 0x0D3)) [(1, ⟨BitVec.ofNat 32 n, .i32⟩)] (wide 8 fun _ => id)) (slotR 0x0D3 (rf 0x0D3)) (fun _ => True)
      (fun x => x.readable true (rf 0x0D3).a) fun pa _ x => (x.bits .i32 pa (rf 0x0D3).a).toNat < 4) ∧
    (∀ e ∈ shuffleTable, ∀ b ∈ [0, 3, 8], MeetsWhen (eight (e.2.1 (rf e.1)) .f32 b) (slotR e.1 (rf e.1)) (fun v => ∀ y ∈ v.w.lanes, y.regs[1]?.any (·.tag == .f32) = true)
      (fun x => x.carries .i32 (rf e.1).a (fun _ => True) ∧ x.readable true (rf e.1).b) fun _ _ _ => True) := by
  have h : ∀ (f : RFmt) (x : Lane), (carriesB x .i32 f.a (fun _ => true) && readableB x true f.b) = true →
      x.carries .i32 f.a (fun _ => True) ∧ x.readable true f.b := fun f x h => by
    simp only [Bool.and_eq_true] at h
    exact ⟨carries_of (by simp) h.1, readable_of h.2⟩
  refine ⟨fun e he => meets_of (ok := fun x => carriesB x .i32 (rf e.1).a (· == .f32)) (fun x => carries_of (by simp)) ?_, meets_of (ok := fun _ => true) (by simp) (by decide +kernel),
    fun n hn => meetsWhen_of (fun x => readable_of) ?_, fun e he b hb => meetsWhen_of (h _) ?_⟩
  · revert e; decide +kernel
  · revert n; decide +kernel
  · revert b; revert e; decide +kernel

/-- A solo wave beside seven others of its team in its set. -/
def crew (s : State) : State :=
  { s with waves := s.waves.flatMap fun w => (List.range 8).map fun k => if k = 0 then w else { w with uid := w.uid + 200 + k, base := w.base + k } }

theorem witness_Reductions :
    (∀ e ∈ rdxTable, ∀ t ∈ [Tag.i8x4, .bf16x2, .scale], e.2.2.1 t = true →
      MeetsWhen (eight (e.2.1 (rf e.1)) t) (slotR e.1 (rf e.1)) (fun v => (v.w.lanes[v.low]?).isSome = true)
        (fun x => x.carries .i32 (rf e.1).a (· = t)) fun _ _ _ => True) ∧
    (admitIF .f32 = true ∧ Meets (eight (.scanAdd (rf 0x0D1)) .f32) (slotR 0x0D1 (rf 0x0D1)) fun x => x.carries .i32 (rf 0x0D1).a (· = .f32)) ∧
    (∀ t ∈ [Tag.i8x4, .scale, .e4m3x4], ([0x7F, 0x80, 1] : List Nat) ≠ [] ∧ (∀ x ∈ ([0x7F, 0x80, 1] : List Nat), x < 2 ^ t.width)) ∧
    (Tag.e4m3x4.fmt.decode false 0x7F = .nan) ∧
    (∀ n ∈ [2, 8], ∀ g ∈ [id, crew, wide 8 fun _ => id], MeetsWhen (demo (.qmax (rf 0x034)) [(1, ⟨0x3F800000#32, .f32⟩), (2, ⟨BitVec.ofNat 32 n, .i32⟩)] g) (slotR 0x034 (rf 0x034))
      (fun v => v.w.width = 1 ∨ v.w.width = 8)
      (fun x => x.srcTag (rf 0x034).a = some .f32 ∧ x.carries .f32 (rf 0x034).a (· = .f32) ∧ x.readable true (rf 0x034).b)
      fun _ pb x => 2 ≤ (x.bits .i32 pb (rf 0x034).b).toNat ∧ (x.bits .i32 pb (rf 0x034).b).toNat ≤ 8) ∧
    (let s := demo (.qmax (rf 0x034)) [(1, ⟨0x3F800000#32, .f32⟩), (2, ⟨8#32, .i32⟩)]
     (vw s).w.width = 1 ∧ (vw s).lane = none ∧ (∀ y ∈ s.rowMembers (vw s).w.team ((vw s).w.base / 8 * 8), y.uid = (vw s).w.uid) ∧ (s.waves.map (·.uid)).Nodup) := by
  refine ⟨fun e he t ht hx => meetsWhen_of (okB := fun x => carriesB x .i32 (rf e.1).a (· == t)) (fun x => carries_of (by simp)) ?_,
    ⟨by decide, meets_of (ok := fun x => carriesB x .i32 (rf 0x0D1).a (· == .f32)) (fun x => carries_of (by simp)) (by decide +kernel)⟩,
    by decide, by decide, fun n hn g hg => ?_, by decide +kernel⟩
  · revert hx; revert t; revert e; decide +kernel
  · refine meetsWhen_of (okB := fun x => x.srcTag (rf 0x034).a == some .f32 && carriesB x .f32 (rf 0x034).a (· == .f32) && readableB x true (rf 0x034).b) (fun x h => ?_) ?_
    · simp only [Bool.and_eq_true, beq_iff_eq] at h
      exact ⟨h.1.1, carries_of (by simp) h.1.2, readable_of h.2⟩
    · simp only [List.mem_cons, List.not_mem_nil, or_false] at hg
      rcases hg with rfl | rfl | rfl <;> revert n <;> decide +kernel

/-- The eight lanes run detached, each with its own thread; the slot is lane 1's. -/
def alone (s : State) : State :=
  { s with
    waves := s.waves.map fun w => { w with detach := true, jmask := w.live, lanes := w.lanes.map fun l => { l with own := some w.thr } }
    cur := some ⟨State.reset.uid + 1, some 1⟩ }

/-- A wave of eight lanes with a divergence stack. -/
def stacked (d : List DEntry) (s : State) : State := { s with waves := (wide 8 (lane1 1 ⟨0#32, .i32⟩) s).waves.map fun w => { w with dstk := d } }

/-- A full stack below the limit that DIVTHR sets. -/
def shallow (s : State) : State := { s with waves := s.waves.map fun w => { w with lanes := w.lanes.map fun l => { l with divthr := 1#32 } } }

/-- Detached lanes with a private stack. -/
def ownStack (d : List DEntry) (s : State) : State :=
  { s with waves := (alone (wide 8 (fun _ => id) s)).waves.map fun w => { w with lanes := w.lanes.map fun l => { l with priv := d } }, cur := (alone s).cur }

theorem witness_Divergence :
    (∀ g ∈ [stacked [], fun s => shallow (stacked [.wp 0#54 1#32] s)], ∃ v, Issues (demo (.wpt ⟨0#6, 0#4, 6#12⟩) [] g) v (slotB 0x0C4 ⟨0#6, 0#4, 6#12⟩) ∧ v.lane = none) ∧
    (∀ d ∈ [[], List.replicate 16 (DEntry.wp 0#54 1#32)], ∃ v x, Issues (demo (.wpt ⟨0#6, 0#4, 6#12⟩) [] (ownStack d)) v (slotB 0x0C4 ⟨0#6, 0#4, 6#12⟩) ∧ v.lane = some 1 ∧
      v.w.lanes[1]? = some x) ∧
    (∀ a ∈ [0, 1], ∀ g ∈ [stacked [], stacked [.wp 0#54 1#32], fun s => shallow (stacked [.wp 0#54 1#32] s), wide 8 fun _ => id], ∃ v taken,
      Issues (demo (.brd ⟨1#6, 1#4, 2#12⟩) [(1, ⟨BitVec.ofNat 32 a, .i32⟩)] g) v (slotB 0x0C5 ⟨1#6, 1#4, 2#12⟩) ∧ (∃ p, taken = v.act.filter p) ∧
      ∀ k ∈ v.act, ∀ x, v.w.lanes[k]? = some x → (x.reg 1).tag ≠ .none ∧ (condTest 1#4 (x.reg 1).bits ↔ k ∈ taken)) ∧
    (∀ d ∈ [[], [DEntry.wp 64#54 255#32], [DEntry.wp 64#54 255#32, .pend 128#54 254#32]], ∃ v, Issues (demo (.join r0) [] (stacked d)) v (slotR 0x0C6 r0) ∧ v.lane = none) ∧
    ∀ d ∈ [[], [DEntry.wp 64#54 2#32]], ∃ v x, Issues (demo (.join r0) [] (ownStack d)) v (slotR 0x0C6 r0) ∧ v.lane = some 1 ∧ v.w.lanes[1]? = some x := by
  refine ⟨fun g hg => ?_, fun d hd => ?_, fun a ha g hg => ?_, fun d hd => ?_, fun d hd => ?_⟩
  · simp only [List.mem_cons, List.not_mem_nil, or_false] at hg
    rcases hg with rfl | rfl <;> exact ⟨_, issues_of (by decide +kernel), by decide +kernel⟩
  · have h : issuesB (demo (.wpt ⟨0#6, 0#4, 6#12⟩) [] (ownStack d)) (slotB 0x0C4 ⟨0#6, 0#4, 6#12⟩) = true ∧ (vw (demo (.wpt ⟨0#6, 0#4, 6#12⟩) [] (ownStack d))).lane = some 1 ∧
        ((vw (demo (.wpt ⟨0#6, 0#4, 6#12⟩) [] (ownStack d))).w.lanes[1]?).isSome = true := by revert d; decide +kernel
    obtain ⟨x, hx⟩ := Option.isSome_iff_exists.mp h.2.2
    exact ⟨_, x, issues_of h.1, h.2.1, hx⟩
  · refine ⟨_, (vw (demo (.brd ⟨1#6, 1#4, 2#12⟩) [(1, ⟨BitVec.ofNat 32 a, .i32⟩)] g)).act.filter fun k =>
      (vw (demo (.brd ⟨1#6, 1#4, 2#12⟩) [(1, ⟨BitVec.ofNat 32 a, .i32⟩)] g)).w.lanes[k]?.any fun x => (x.reg 1).bits == 0#32, issues_of ?_, ⟨_, rfl⟩, fun k hk x hx => ⟨?_, ?_⟩⟩
    · simp only [List.mem_cons, List.not_mem_nil, or_false] at hg
      rcases hg with rfl | rfl | rfl | rfl <;> revert a <;> decide +kernel
    · have a : ((vw (demo (.brd ⟨1#6, 1#4, 2#12⟩) [(1, ⟨BitVec.ofNat 32 a, .i32⟩)] g)).act.all fun k =>
          ((vw (demo (.brd ⟨1#6, 1#4, 2#12⟩) [(1, ⟨BitVec.ofNat 32 a, .i32⟩)] g)).w.lanes[k]?).all fun x => (x.reg 1).tag != .none) = true := by
        clear hx hk x k
        simp only [List.mem_cons, List.not_mem_nil, or_false] at hg
        rcases hg with rfl | rfl | rfl | rfl <;> revert a <;> decide +kernel
      have b := List.all_eq_true.mp a k hk
      rw [hx] at b
      simpa using b
    · simp [condTest, hk, hx]
  · have h : issuesB (demo (.join r0) [] (stacked d)) (slotR 0x0C6 r0) = true ∧ (vw (demo (.join r0) [] (stacked d))).lane = none := by revert d; decide +kernel
    exact ⟨_, issues_of h.1, h.2⟩
  · have h : issuesB (demo (.join r0) [] (ownStack d)) (slotR 0x0C6 r0) = true ∧ (vw (demo (.join r0) [] (ownStack d))).lane = some 1 ∧
        ((vw (demo (.join r0) [] (ownStack d))).w.lanes[1]?).isSome = true := by revert d; decide +kernel
    obtain ⟨x, hx⟩ := Option.isSome_iff_exists.mp h.2.2
    exact ⟨_, x, issues_of h.1, h.2.1, hx⟩

/-- A slot of SPLIT with its width in g1. -/
def splitF : RFmt := ⟨0#6, false, false, .reg 1#6, .reg 0#6⟩

def splitDemo (n : Nat) (g : State → State) : State := demo (.split splitF) [(1, ⟨BitVec.ofNat 32 n, .i32⟩)] g

/-- The widths that a wave may be split into (06_group R211). -/
def splitOk (v : View) (w : Nat) : Prop :=
  if v.w.detach then w = 1
  else w = 1 ∨ ((w = 8 ∨ w = 16) ∧ w < v.w.width ∧ v.w.live = BitVec.ofNat 32 (2 ^ v.w.width - 1) ∧ v.w.memb = BitVec.ofNat 32 (2 ^ v.w.width - 1) ∧ v.w.dstk = [])

def splitOkB (v : View) (w : Nat) : Bool :=
  if v.w.detach then w == 1
  else w == 1 || ((w == 8 || w == 16) && decide (w < v.w.width) && v.w.live == BitVec.ofNat 32 (2 ^ v.w.width - 1) &&
    v.w.memb == BitVec.ofNat 32 (2 ^ v.w.width - 1) && v.w.dstk.isEmpty)

theorem splitOk_iff (v : View) (w : Nat) : splitOkB v w = true ↔ splitOk v w := by
  unfold splitOkB splitOk
  split <;> simp [and_assoc]

/-- A thread that nothing keeps from ending. -/
def drained (t : Thread) : Bool := t.ops.isEmpty && t.toks.toList.all (· == 0)

theorem drained_iff {t : Thread} (h : drained t = true) : t.ops = [] ∧ ∀ k ∈ t.toks.toList, k = 0 := by
  simpa only [drained, Bool.and_eq_true, List.isEmpty_iff, List.all_eq_true, beq_iff_eq] using h

/-- The lanes of JMASK have arrived at JPOINT. -/
def joined (s : State) : State :=
  { s with waves := (alone (wide 8 (fun _ => id) s)).waves.map fun w => { w with
      memb := 0xFE#32, jmask := 0xFE#32, lanes := w.lanes.map fun l => { l with own := l.own.map fun t => { t with st := .parked, wait := .jpoint } } } }

theorem witness_Splits :
    (∀ e ∈ ([(1, wide 8 fun _ => id), (8, wide 16 fun _ => id), (16, wide 32 fun _ => id), (1, fun s => alone (wide 8 (fun _ => id) s))] : List (Nat × (State → State))),
      ∃ v s' pa pb x, Reads (splitDemo e.1 e.2) v (slotR 0x0C3 splitF) s' pa pb x ∧ (∀ y ∈ [Src.reg 1#6], x.readable true y) ∧
        splitOkB v (x.bits .i32 pa (.reg 1#6)).toNat = true) ∧
    (∀ e ∈ ([(8, wide 8 fun _ => id), (0, wide 16 fun _ => id), (8, fun s => alone (wide 16 (fun _ => id) s))] : List (Nat × (State → State))),
      ∃ v s' pa pb x, Reads (splitDemo e.1 e.2) v (slotR 0x0C3 splitF) s' pa pb x ∧ (∀ y ∈ [Src.reg 1#6], x.readable true y) ∧
        splitOkB v (x.bits .i32 pa (.reg 1#6)).toNat = false) ∧
    (∀ e ∈ ([(1, wide 8 fun _ => id), (8, wide 16 fun _ => id)] : List (Nat × (State → State))), ∃ v,
      (after (.split splitF) (splitDemo e.1 e.2)).view ⟨State.reset.uid + 1, none⟩ = some v ∧ v.thr.wait = .split e.1 ∧
      (v.w.thr.ops = [] ∧ ∀ k ∈ v.w.thr.toks.toList, k = 0) ∧ ∀ l ∈ v.w.lanes, ∀ t, l.own = some t → t.ops = [] ∧ ∀ k ∈ t.toks.toList, k = 0) ∧
    ∃ w, (demo (.nop r0) [] joined).wave? (State.reset.uid + 1) = some w ∧ w.detach = true ∧ w.thr.st ≠ .suspended ∧ w.jmask.getLsbD 1 = true ∧ 1 < w.width ∧
      ∀ k, w.jmask.getLsbD k = true → ∀ x, w.lanes[k]? = some x → ∃ t, x.own = some t ∧ t.wait = .jpoint ∧ t.ops = [] ∧ ∀ n ∈ t.toks.toList, n = 0 := by
  refine ⟨fun e he => ?_, fun e he => ?_, fun e he => ?_, ?_⟩
  · simp only [List.mem_cons, List.not_mem_nil, or_false] at he
    rcases he with rfl | rfl | rfl | rfl <;> exact reads_of (by decide +kernel)
  · simp only [List.mem_cons, List.not_mem_nil, or_false] at he
    rcases he with rfl | rfl | rfl <;> exact reads_of (by decide +kernel)
  · have h : ((after (.split splitF) (splitDemo e.1 e.2)).view ⟨State.reset.uid + 1, none⟩).any (fun v => v.thr.wait == .split e.1 && drained v.w.thr &&
        v.w.lanes.all fun l => l.own.all drained) = true := by
      simp only [List.mem_cons, List.not_mem_nil, or_false] at he
      rcases he with rfl | rfl <;> decide +kernel
    obtain ⟨v, hv, h⟩ := Option.any_eq_true _ _ |>.mp h
    simp only [Bool.and_eq_true, beq_iff_eq] at h
    refine ⟨v, hv, h.1.1, drained_iff h.1.2, fun l hl t ht => drained_iff ?_⟩
    have a := List.all_eq_true.mp h.2 l hl
    rw [ht] at a
    exact a
  · have h : ((demo (.nop r0) [] joined).wave? (State.reset.uid + 1)).any (fun w => w.detach && w.thr.st != .suspended && w.jmask.getLsbD 1 && decide (1 < w.width) &&
        w.lanes.all fun x => x.own.any fun t => t.wait == .jpoint && drained t) = true := by decide +kernel
    obtain ⟨w, hw, h⟩ := Option.any_eq_true _ _ |>.mp h
    simp only [Bool.and_eq_true, bne_iff_ne, decide_eq_true_eq] at h
    refine ⟨w, hw, h.1.1.1.1, h.1.1.1.2, h.1.1.2, h.1.2, fun k _ x hx => ?_⟩
    obtain ⟨t, ht, a⟩ := Option.any_eq_true _ _ |>.mp (List.all_eq_true.mp h.2 x (List.mem_of_getElem? hx))
    simp only [Bool.and_eq_true, beq_iff_eq] at a
    exact ⟨t, ht, a.1, drained_iff a.2⟩

def fuseTable : List (Nat × (RFmt → Instr) × Nat) := [(0x0C0, .fuseW8, 8), (0x0C1, .fuseW16, 16), (0x0C2, .fuseW32, 32)]

/-- FUSE with the key 5 in g1 and its mode in g2. -/
def fuseDemo (e : Nat × (RFmt → Instr) × Nat) (mode : Nat) (g : State → State) (h : Lane → Lane := id) : State :=
  demo (e.2.1 (rf e.1)) [(1, ⟨5#32, .i32⟩), (2, ⟨BitVec.ofNat 32 mode, .i32⟩)] g h

/-- A solo wave with the other solo waves of its team in its set of n. -/
def crewOf (n : Nat) (s : State) : State :=
  { s with waves := s.waves.flatMap fun w => (List.range n).map fun k => if k = 0 then w else { w with uid := w.uid + 200 + k, base := w.base + k } }

/-- A rendezvous of the set with a key and a size. -/
def met (n : Nat) (key : Word) (drain : Bool) (s : State) : State :=
  { s with teams := s.teams.map fun t => { t with rendezvous := [⟨n, 0, key, if drain then s.waves.map (·.uid) else [State.reset.uid + 202], drain⟩] } }

/-- Which of the outcomes of FUSE applies, in their order: 0 handler, 1 detached, 2 a mode above 1, 3 the width, 4 no peer, 5 another rendezvous,
6 try, 7 a rendezvous is opened. -/
def fuseCase (s' : State) (v : View) (n : Nat) (key : Word) (mode : Nat) : Nat :=
  if v.inh then 0 else if v.w.detach then 1 else if 1 < mode then 2
  else if decide (n ≤ v.w.width) || (decide (1 < v.w.width) && (v.w.live != BitVec.ofNat 32 (2 ^ v.w.width - 1) || !v.w.dstk.isEmpty)) then 3
  else if s'.noPeer v.w n then 4
  else match s'.rendezvousAt v.w.team n (v.w.base / n * n) with
    | some r => if r.n ≠ n ∨ r.key ≠ key then 5 else 8
    | none => if (s'.covered [v.w.uid]).length < n then (if mode = 1 then 6 else if mode = 0 then 7 else 8) else 8

def FuseMeets (e : Nat × (RFmt → Instr) × Nat) (s : State) (c : Nat) : Prop :=
  ∃ v s' pa pb x, Reads s v (slotR e.1 (rf e.1)) s' pa pb x ∧ (∀ y ∈ [Src.reg 1#6, .reg 2#6], x.readable true y) ∧
    fuseCase s' v e.2.2 (x.bits .i32 pa (.reg 1#6)) (x.bits .i32 pb (.reg 2#6)).toNat = c

theorem witness_Fusion_outcomes : ∀ e ∈ fuseTable,
    FuseMeets e (fuseDemo e 0 id inHandler) 0 ∧ FuseMeets e (fuseDemo e 0 fun s => alone (wide 8 (fun _ => id) s)) 1 ∧ FuseMeets e (fuseDemo e 2 id) 2 ∧
    FuseMeets e (fuseDemo e 0 (wide e.2.2 fun _ => id)) 3 ∧ FuseMeets e (fuseDemo e 1 (stacked [.wp 0#54 255#32])) 3 ∧ FuseMeets e (fuseDemo e 0 id) 4 ∧
    FuseMeets e (fuseDemo e 0 fun s => met e.2.2 6#32 false (crewOf e.2.2 s)) 5 ∧ FuseMeets e (fuseDemo e 1 (crewOf e.2.2)) 6 ∧
    FuseMeets e (fuseDemo e 0 (crewOf e.2.2)) 7 := by
  intro e he
  simp only [fuseTable, List.mem_cons, List.not_mem_nil, or_false] at he
  rcases he with rfl | rfl | rfl <;> refine ⟨?_, ?_, ?_, ?_, ?_, ?_, ?_, ?_, ?_⟩ <;> exact reads_of (by decide +kernel)

theorem witness_Fusion_forms :
    let s := demo (.nop r0) [] fun s => met 8 5#32 true (crewOf 8 s)
    ∃ t r w, s.team? t.uid = some t ∧ t.rendezvous.find? (fun x => x.base == r.base && x.drain) = some r ∧
      (∀ u ∈ r.parts, ∀ x, s.wave? u = some x → x.thr.ops = [] ∧ ∀ k ∈ x.thr.toks.toList, k = 0) ∧
      s.wave? w.uid = some w ∧ w.uid ∈ r.parts ∧ w.base = r.base ∧ 0 < r.n ∧ 0 < w.width ∧
      ∀ u ∈ r.parts, ∀ x, s.wave? u = some x → x.base ≤ r.base → r.base < x.base + x.width → x = w := by
  intro s
  have h : (s.teams.head?.any fun t => s.team? t.uid == some t && t.rendezvous.head?.any fun r =>
      t.rendezvous.find? (fun x => x.base == r.base && x.drain) == some r && s.waves.head?.any fun w => s.wave? w.uid == some w && r.parts.contains w.uid &&
        w.base == r.base && decide (0 < r.n) && decide (0 < w.width) && r.parts.all fun u => (s.wave? u).all fun x => drained x.thr &&
          (!(decide (x.base ≤ r.base) && decide (r.base < x.base + x.width)) || x == w)) = true := by decide +kernel
  obtain ⟨t, -, h⟩ := Option.any_eq_true _ _ |>.mp h
  simp only [Bool.and_eq_true, beq_iff_eq] at h
  obtain ⟨h1, h⟩ := h
  obtain ⟨r, -, h⟩ := Option.any_eq_true _ _ |>.mp h
  simp only [Bool.and_eq_true, beq_iff_eq] at h
  obtain ⟨h2, h⟩ := h
  obtain ⟨w, -, h⟩ := Option.any_eq_true _ _ |>.mp h
  simp only [Bool.and_eq_true, beq_iff_eq, List.contains_iff_mem, decide_eq_true_eq] at h
  obtain ⟨⟨⟨⟨⟨h3, h4⟩, h5⟩, h6⟩, h7⟩, h8⟩ := h
  have hx : ∀ u ∈ r.parts, ∀ x, s.wave? u = some x → (drained x.thr && (!(decide (x.base ≤ r.base) && decide (r.base < x.base + x.width)) || x == w)) = true :=
    fun u hu x hx => by
      have a := List.all_eq_true.mp h8 u hu
      rw [hx] at a
      exact a
  refine ⟨t, r, w, h1, h2, fun u hu x hs => drained_iff ?_, h3, h4, h5, h6, h7, fun u hu x hs hb hc => ?_⟩
  · have a := hx u hu x hs
    simp only [Bool.and_eq_true] at a
    exact a.1
  · have a := hx u hu x hs
    simp only [hb, hc, decide_true, Bool.and_self, Bool.not_true, Bool.false_or, Bool.and_eq_true, beq_iff_eq] at a
    exact a.2

/-- BAR, BAR.ARR or BAR.WT on the barrier in g1 with the count or phase in g2. -/
def barDemo (op : Nat) (i : RFmt → Instr) (a n : Nat) (b : Barrier) (g : State → State) (h : Lane → Lane) : State :=
  demo (i (rf op)) [(1, ⟨BitVec.ofNat 32 a, .i32⟩), (2, ⟨BitVec.ofNat 32 n, .i32⟩)]
    (fun s => g { s with teams := s.teams.map fun t => { t with barriers := t.barriers.setIfInBounds a b } }) h

/-- Which case of R235 and R236 applies: 0 the number, 1 a handler, 2 a detached lane, 3 the count above 32, 4 another count, 5 an arrival. -/
def barCase (v : View) (b : Option Barrier) (a n : Nat) : Nat :=
  if 15 < a then 0 else if v.inh then 1 else if v.lane.isSome then 2 else if 32 < n then 3
  else if (b.bind (·.expected)).any (· ≠ n) then 4 else if b.isSome then 5 else 6

def BarMeets (op : Nat) (s : State) (p : View → Option Barrier → Nat → Nat → Bool) : Prop :=
  ∃ v s' pa pb x, Reads s v (slotR op (rf op)) s' pa pb x ∧ (∀ y ∈ [Src.reg 1#6, .reg 2#6], x.readable true y) ∧
    (s'.team? v.w.team).any (fun t => p v (t.barriers[(x.bits .i32 pa (.reg 1#6)).toNat]?) (x.bits .i32 pa (.reg 1#6)).toNat (x.bits .i32 pb (.reg 2#6)).toNat) = true

def barArms : List (Nat × (RFmt → Instr)) := [(0x0D4, .bar), (0x0D5, .barArr)]

theorem witness_Barriers :
    (∀ e ∈ barArms, BarMeets e.1 (barDemo e.1 e.2 16 2 .reset id id) (fun v b a n => barCase v b a n == 0) ∧
      BarMeets e.1 (barDemo e.1 e.2 15 2 .reset id inHandler) (fun v b a n => barCase v b a n == 1) ∧
      BarMeets e.1 (barDemo e.1 e.2 0 2 .reset (fun s => alone (wide 8 (fun _ => id) s)) id) (fun v b a n => barCase v b a n == 2) ∧
      BarMeets e.1 (barDemo e.1 e.2 0 33 .reset id id) (fun v b a n => barCase v b a n == 3) ∧
      BarMeets e.1 (barDemo e.1 e.2 0 32 ⟨0#31, 1, some 3⟩ id id) (fun v b a n => barCase v b a n == 4) ∧
      BarMeets e.1 (barDemo e.1 e.2 15 32 ⟨0#31, 1, some 32⟩ id id) (fun v b a n => barCase v b a n == 5) ∧
      BarMeets e.1 (barDemo e.1 e.2 0 0 .reset id id) (fun v b a n => barCase v b a n == 5)) ∧
    (∀ e ∈ ([(16, 0), (0, 0x80000000)] : List (Nat × Nat)), BarMeets 0x0D6 (barDemo 0x0D6 .barWt e.1 e.2 .reset id id) fun _ _ a n => decide (15 < a ∨ 2 ^ 31 ≤ n)) ∧
    (BarMeets 0x0D6 (barDemo 0x0D6 .barWt 15 0 .reset id inHandler) fun v _ a n => decide (a < 16 ∧ n < 2 ^ 31) && v.inh) ∧
    (BarMeets 0x0D6 (barDemo 0x0D6 .barWt 15 0 .reset (fun s => alone (wide 8 (fun _ => id) s)) id) fun v _ a n => decide (a < 16 ∧ n < 2 ^ 31) && v.lane.isSome) ∧
    (∀ e ∈ ([0, 1, 0x7FFFFFFF] : List Nat), BarMeets 0x0D6 (barDemo 0x0D6 .barWt 15 e ⟨1#31, 0, none⟩ id id) fun v b a n =>
      decide (a < 16 ∧ n < 2 ^ 31) && !v.inh && v.lane.isNone && b == some ⟨1#31, 0, none⟩) ∧
    ∀ b ∈ ([⟨0#31, 1, some 2⟩, ⟨0#31, 2, some 2⟩, ⟨0x7FFFFFFF#31, 1, some 0⟩] : List Barrier), ∃ t,
      (barDemo 0x0D4 .bar 15 2 b id id).team? State.reset.uid = some t ∧ t.barriers[15]? = some b ∧ b.expected.isSome = true := by
  refine ⟨fun e he => ?_, fun e he => ?_, reads_of (by decide +kernel), reads_of (by decide +kernel), fun e he => ?_, fun b hb => ?_⟩
  · simp only [barArms, List.mem_cons, List.not_mem_nil, or_false] at he
    rcases he with rfl | rfl <;> refine ⟨?_, ?_, ?_, ?_, ?_, ?_, ?_⟩ <;> exact reads_of (by decide +kernel)
  · simp only [List.mem_cons, List.not_mem_nil, or_false] at he
    rcases he with rfl | rfl <;> exact reads_of (by decide +kernel)
  · simp only [List.mem_cons, List.not_mem_nil, or_false] at he
    rcases he with rfl | rfl | rfl <;> exact reads_of (by decide +kernel)
  · have h : ((barDemo 0x0D4 .bar 15 2 b id id).team? State.reset.uid).any (fun t => t.barriers[15]? == some b && b.expected.isSome) = true := by revert b; decide +kernel
    obtain ⟨t, ht, h⟩ := Option.any_eq_true _ _ |>.mp h
    simp only [Bool.and_eq_true, beq_iff_eq] at h
    exact ⟨t, ht, h⟩

/-! ## Pushes, ports and records -/

/-- E-format with its status in g20 and its block from g0. -/
def eF (n : Nat) : EFmt := ⟨20#6, 8#4, 0#6, BitVec.ofNat 6 n⟩

/-- A slot of an E-format word with a record block. -/
def blockDemo (i : EFmt → Instr) (b : List Nat) (g : State → State := id) : State :=
  demo (i (eF b.length)) (b.mapIdx fun k x => (k, ⟨BitVec.ofNat 32 x, .i32⟩)) g

/-- What a push instruction's block must meet. -/
def kpushBlock (b : List Word) : Bool := descLegal [2#4, 3#4, 8#4] (b.getD 1 0#32) (b.getD 2 0#32)

def msendBlock (b : List Word) : Bool :=
  destLegal (b.getD 0 0#32) && (b.getD 1 0#32).extractLsb' 13 19 == 0#19 && ((b.getD 1 0#32).getLsbD 12 || (b.getD 1 0#32).extractLsb' 0 12 == 0#12) &&
    descLegal [2#4, 8#4] (b.getD 3 0#32) (b.getD 4 0#32) && !(b.getD 3 0#32).getLsbD 27

def kdecBlock (b : List Word) : Bool :=
  let amount : Word := if b.length = 3 then 1#32 else b.getD 3 0#32
  destLegal (b.getD 0 0#32) && (b.getD 2 0#32).extractLsb' 16 16 == 0#16 && amount != 0#32 && !amount.msb

/-- Opcode, constructor, the bounds of the count, the block's check, and blocks that pass and that fail it. -/
def pushTable : List (Nat × (EFmt → Instr) × Nat × Nat × (List Word → Bool) × List (List Nat) × List (List Nat)) := [
  (0x0E0, .kpush, 3, 15, kpushBlock, [[7, 0x80000, 0], 7 :: 0xBD30001 :: 0 :: List.replicate 12 9], [[7, 0xF80000, 0], [7, 0x10080000, 0], [7, 0x90000, 0]]),
  (0x0E1, .kpushAck, 3, 15, kpushBlock, [[7, 0x80000, 0], 7 :: 0x20000 :: 1 :: List.replicate 12 9], [[7, 0x80000, 1]]),
  (0x0E7, .msend, 5, 17, msendBlock, [[0, 0, 7, 0x80000, 0], [0x10040, 0x1005, 7, 0x20000, 3]], [[0x41, 0, 7, 0x80000, 0], [0, 5, 7, 0x80000, 0]]),
  (0x0E9, .msendEdfen2, 5, 17, msendBlock, [[0, 0, 7, 0x80000, 0]], [[0, 0, 7, 0x8080000, 0]]),
  (0x0E8, .kdec, 3, 4, kdecBlock, [[0, 7, 0], [0x40, 7, 1, 0x7FFFFFFF]], [[0, 7, 0, 0], [0, 7, 0x10000]]),
  (0x0EA, .kdecEdfen2, 3, 4, kdecBlock, [[0, 7, 0]], [[0, 7, 0, 0x80000000]])]

/-- The lanes whose block is not in order. -/
def badBlocks (ok : List Word → Bool) (f : EFmt) (v : View) : List Nat := v.act.filter fun k => !(v.w.lanes[k]?).any fun x => ok (x.block f)

theorem witness_KeyringPushes :
    (∀ e ∈ pushTable, (∀ b ∈ e.2.2.2.2.2.1, Issues (blockDemo e.2.1 b) (vw (blockDemo e.2.1 b)) (slotPush e.1 (eF b.length) e.2.2.1 e.2.2.2.1) ∧
        badBlocks e.2.2.2.2.1 (eF b.length) (vw (blockDemo e.2.1 b)) = []) ∧
      ∀ b ∈ e.2.2.2.2.2.2, Issues (blockDemo e.2.1 b) (vw (blockDemo e.2.1 b)) (slotPush e.1 (eF b.length) e.2.2.1 e.2.2.2.1) ∧
        badBlocks e.2.2.2.2.1 (eF b.length) (vw (blockDemo e.2.1 b)) = [0]) ∧
    ((demo (.nop r0) []).wave? (vw (demo (.nop r0) [])).w.uid).isSome = true ∧ ((vw (demo (.nop r0) [])).w.lanes[0]?).isSome = true ∧
    sendBy (demo (.nop r0) []) 0x50000#32 (pushOf (demo (.nop r0) []) (vw (demo (.nop r0) [])).w 0 0#12 7#32 0x80000#32 0#32 []) = .status .nopeer ∧
    sendBy (demo (.nop r0) []) 0#32 (pushOf (demo (.nop r0) []) (vw (demo (.nop r0) [])).w 0 0#12 7#32 0x80000#32 0#32 []) =
      .push (.cluster 0 0) (pushOf (demo (.nop r0) []) (vw (demo (.nop r0) [])).w 0 0#12 7#32 0x80000#32 0#32 []) none := by
  refine ⟨fun e he => ⟨fun b hb => ?_, fun b hb => ?_⟩, by decide, by decide, by decide +kernel, by decide +kernel⟩
  · have h : issuesB (blockDemo e.2.1 b) (slotPush e.1 (eF b.length) e.2.2.1 e.2.2.2.1) = true ∧
        badBlocks e.2.2.2.2.1 (eF b.length) (vw (blockDemo e.2.1 b)) = [] := by revert b; revert e; decide +kernel
    exact ⟨issues_of h.1, h.2⟩
  · have h : issuesB (blockDemo e.2.1 b) (slotPush e.1 (eF b.length) e.2.2.1 e.2.2.2.1) = true ∧
        badBlocks e.2.2.2.2.1 (eF b.length) (vw (blockDemo e.2.1 b)) = [0] := by revert b; revert e; decide +kernel
    exact ⟨issues_of h.1, h.2⟩

/-- A push of class MSG, without an identity, of context 0. -/
def aPush : Push :=
  { key := 7#48, cls := 8#4, op := 0#4, prio := 0#2, car := false, stream := 0#15, target := 0#24, words := [3#32, 4#32], ctx := 0#12, ident := none,
    attempt := 0, sender := 0#32, origin := none, parent := none, counts := false, job := none, spawn := none }

/-- Two records at keyrings of die 0, the second of a higher PRIO. -/
def stocked (s : State) : State :=
  [KrId.cluster 0 0, .die 0].foldl (fun s k => ((s.arrive k aPush).1.arrive k { aPush with prio := 2#2 }).1) s

/-- A port of level `lvl` that takes those records. -/
def aPort (lvl : Bool) : Port := ⟨true, lvl, 8#4, 7#48, 0xFFFF#48, [], 0⟩

def portDemo (i : Instr) (regs : List (Nat × Nat)) (p : Port) (g : State → State := id) : State :=
  demo i (regs.map fun e => (e.1, ⟨BitVec.ofNat 32 e.2, .i32⟩)) g fun l => { l with ports := (l.ports.setIfInBounds 0 p).setIfInBounds 7 p }

/-- KPOP of the port in g1 into g16 to g31, or KBIND of g4 to g7 with the port in g8 and the status in g3. -/
def popF : RFmt := ⟨16#6, false, false, .reg 1#6, .reg 0#6⟩
def bindF : RFmt := ⟨3#6, false, false, .reg 4#6, .reg 8#6⟩
def bindDemo (q w1 : Nat) (p : Port) : State := portDemo (.kbind bindF) [(4, 7), (5, w1), (6, 0xFFFF), (7, 0xFFFF), (8, q)] p
def unbF : RFmt := ⟨0#6, false, false, .reg 1#6, .reg 0#6⟩

/-- The case of a KBIND: the port is bound, the class has no ports, or it binds. -/
def bindCase (x : Lane) : Nat :=
  let cls := (x.reg 5).bits.extractLsb' 16 4
  if (x.port (x.bits .i32 0#32 (.reg 8#6)).toNat).bound then 0 else if cls != 2#4 && cls != 3#4 && cls != 8#4 then 1 else 2

theorem witness_Ports :
    (∀ e ∈ ([(0, 0x1080000, aPort false, 0), (6, 0x0090000, aPort false, 1), (6, 0x1020001, aPort false, 2), (1, 0x8FFFF, aPort false, 2)] :
        List (Nat × Nat × Port × Nat)),
      MeetsWhen (bindDemo e.1 e.2.1 e.2.2.1) (slotR 0x0E4 bindF [5, 6, 7]) (fun _ => True)
        (fun x => (∀ j < 4, (x.reg (4 + j)).tag ≠ .none) ∧ x.readable true (.reg 8#6)) fun _ pb x =>
          bindCase x = e.2.2.2 ∧ (x.bits .i32 pb (.reg 8#6)).toNat < 8 ∧ (x.reg 5).bits.extractLsb' 20 4 = 0#4 ∧ (x.reg 5).bits.extractLsb' 25 7 = 0#7 ∧
          ((x.reg 5).bits.extractLsb' 16 4).toNat ≤ 9 ∧ (x.reg 7).bits.toNat < 2 ^ 16) ∧
    (∀ q ∈ [0, 7], MeetsWhen (portDemo (.kunbind unbF) [(1, q)] (aPort false)) (slotR 0x0E5 unbF) (fun _ => True)
      (fun x => x.readable true (.reg 1#6)) fun pa _ x => (x.bits .i32 pa (.reg 1#6)).toNat < 8) ∧
    (∀ e ∈ ([(0x0E2, .kpop), (0x0E3, .kpopNb)] : List (Nat × (RFmt → Instr))), ∀ g ∈ [id, stocked],
      MeetsWhen (portDemo (e.2 popF) [(1, 7)] (aPort true) g) (slotPop e.1 popF) (fun v => v.w.lanes.length = 1) (fun x => x.readable true (.reg 1#6))
        fun pa _ x => (x.bits .i32 pa (.reg 1#6)).toNat < 8 ∧ (x.port (x.bits .i32 pa (.reg 1#6)).toNat).bound = true) ∧
    (∀ e ∈ ([(0, 0, id), (0, 7, id), (4, 0, stocked), (1, 0, id), (6, 0, id), (7, 0, id)] : List (Nat × Nat × (State → State))),
      MeetsWhen (portDemo (.kqry (rf 0x0E6)) [(1, e.1), (2, e.2.1)] (aPort false) e.2.2) (slotR 0x0E6 (rf 0x0E6)) (fun v => v.w.gw = false)
        (fun x => x.readable true (.reg 1#6) ∧ x.readable true (.reg 2#6)) fun pa pb x =>
          (x.bits .i32 pa (.reg 1#6)).toNat < 8 ∧ if (x.bits .i32 pa (.reg 1#6)).toNat % 4 = 0
            then (x.bits .i32 pb (.reg 2#6)).toNat < 8 ∧ (x.port (x.bits .i32 pb (.reg 2#6)).toNat).bound = true else (x.bits .i32 pb (.reg 2#6)).toNat = 0) := by
  have hr : ∀ x : Lane, (readableB x true (.reg 1#6) && readableB x true (.reg 2#6)) = true → x.readable true (.reg 1#6) ∧ x.readable true (.reg 2#6) :=
    fun x h => by simp only [Bool.and_eq_true] at h; exact ⟨readable_of h.1, readable_of h.2⟩
  refine ⟨fun e he => ?_, fun q hq => ?_, fun e he g hg => ?_, fun e he => ?_⟩
  · refine (meetsWhen_of (okB := fun x => ((List.range 4).all fun j => (x.reg (4 + j)).tag != .none) && readableB x true (.reg 8#6)) (fun x h => ?_) ?_)
    · simp only [Bool.and_eq_true, List.all_eq_true, List.mem_range, bne_iff_ne] at h
      exact ⟨h.1, readable_of h.2⟩
    · revert e; decide +kernel
  · exact meetsWhen_of (fun x => readable_of) (by revert q; decide +kernel)
  · refine meetsWhen_of (fun x => readable_of) ?_
    simp only [List.mem_cons, List.not_mem_nil, or_false] at hg
    rcases hg with rfl | rfl <;> revert e <;> decide +kernel
  · refine meetsWhen_of hr ?_
    simp only [List.mem_cons, List.not_mem_nil, or_false] at he
    rcases he with rfl | rfl | rfl | rfl | rfl | rfl <;> decide +kernel

/-- Whether a pop of port 7 of the demo's lane is supplied. -/
def popsB (s : State) : Bool := (State.popRecs (vw s).w [(0, 7)] s).isSome

theorem witness_Pops :
    popsB (portDemo (.kpop popF) [(1, 7)] (aPort true)) = false ∧ popsB (portDemo (.kpop popF) [(1, 7)] (aPort true) stocked) = true ∧
    ((portDemo (.nop r0) [] (aPort true)).popRec (vw (portDemo (.nop r0) [] (aPort true))).w 0 (aPort true)).isSome = false ∧
    ((portDemo (.nop r0) [] (aPort true) stocked).popRec (vw (portDemo (.nop r0) [] (aPort true) stocked)).w 0 (aPort true)).isSome = true ∧
    (∃ x, (portDemo (.nop r0) [] (aPort true) stocked).lane? (vw (portDemo (.nop r0) [] (aPort true) stocked)).w.uid 0 = some x ∧ x.port 7 = aPort true) ∧
    (portDemo (.nop r0) [] (aPort true)).available (vw (portDemo (.nop r0) [] (aPort true))).w (aPort true) = [] ∧
    ∀ p ∈ [aPort true, aPort false], let s := portDemo (.nop r0) [] p stocked
      ∃ e ∈ s.available (vw s).w p, ∀ x ∈ s.available (vw s).w p, x = e ∨ (x.2.uid ≠ e.2.uid ∧ (x.2.prio < e.2.prio ∨ (x.2.prio = e.2.prio ∧ e.2.pos < x.2.pos))) := by
  refine ⟨by decide +kernel, by decide +kernel, by decide +kernel, by decide +kernel, ⟨ln (portDemo (.nop r0) [] (aPort true) stocked) 0, by decide +kernel⟩,
    by decide +kernel, by decide +kernel⟩

/-- A push in flight to a keyring. -/
def aFlight (kr : KrId) (p : Push) : Flight := { plainFlight 500 kr p with returns := .acceptance }

/-- The demo's machine with one push in flight. -/
def flown (f : Flight) (g : State → State := id) : State := g { demo (.nop r0) [] with flights := [f] }

def arrivingB (s : State) (f : Flight) : Bool := s.flights.find? (·.k == f.k) == some f && f.arrived.isNone && f.remote.isNone && !s.flightBehind f

theorem arriving_of {s : State} {f : Flight} (h : arrivingB s f = true) : Arriving s f := by
  simp only [arrivingB, Bool.and_eq_true, beq_iff_eq, Option.isNone_iff_eq_none, Bool.not_eq_true'] at h
  exact ⟨h.1.1.1, h.1.1.2, h.1.2, h.2⟩

/-- Which outcome of 07_keyring R242 an arrival has, in their order. -/
def arriveCase (s : State) (f : Flight) : Nat :=
  let up := match f.kr with | .cluster d _ => s.running.contains d | .die d => s.running.contains d | .hub => s.hubUp
  if s.ctxDead f.push.ctx then 0 else if !(heldClasses f.kr).contains f.push.cls.toNat then 1 else if !up then (if f.waits then 9 else 2)
  else if !s.messageAllowed f then 3 else if s.duplicate f then 4 else if s.twinPending f then 10
  else match (s.arrive (s.forwarded f.kr f.push) f.push).2 with
    | none => if f.waits then 9 else 5
    | some _ => if f.queue.isSome then 9 else if !durable f.push.cls then 6 else if f.returns = .acceptance then 7 else 8

/-- Context 5 without the message lock that its name-giver has. -/
def locked (s : State) : State := let s := inCtx 5#12 s; { s with ctxs := s.ctxs.map fun c => if c.id = 5#12 then { c with wkey := 0#64 } else c }

def swappedOut (s : State) : State := { s with ctxs := s.ctxs.map fun c => { c with st := .swapped } }

/-- An identity with a push sequence number. -/
def anIdent : Option (Ident × Nat) := some (⟨3, 1, 0⟩, 12)

def arrivals : List (Flight × (State → State) × Nat) :=
  let c : KrId := .cluster 0 0
  [(aFlight c { aPush with ctx := 9#12 }, id, 0), (aFlight .hub aPush, id, 1), (aFlight c aPush, fun s => { s with running := [] }, 2),
    ({ aFlight c aPush with srcCtx := some 5#12 }, locked, 3),
    (aFlight c { aPush with ident := anIdent, attempt := 1 }, fun s => { s with journal := [⟨c, ⟨3, 1, 0⟩, 12, 0, false, false⟩] }, 4),
    (aFlight c { aPush with ident := anIdent, attempt := 1 }, fun s => { s with flights := s.flights ++
      [{ aFlight c { aPush with ident := anIdent } with k := 501, arrived := some 90 }] }, 10),
    (aFlight c aPush, swappedOut, 5), (aFlight c { aPush with cls := 4#4 }, id, 6), (aFlight c aPush, id, 7),
    ({ aFlight c aPush with returns := .arrival }, id, 8), (aFlight (.die 7) { aPush with ident := anIdent }, fun s => { s with journal := [⟨c, ⟨3, 1, 0⟩, 12, 0, false, false⟩] }, 7)]

/-- The match of a push with an open record (R240). -/
def openFor (p : Push) (r : Rec) : Bool := !r.latched && !r.dispatched && r.ctx == p.ctx && r.cls == p.cls && r.key == p.key && r.op == p.op && p.op != 0#4

/-- Folding or making a record: 0 folds, 1 finds no room, 2 makes one. -/
def foldCase (s : State) (k : KrId) (p : Push) : Nat :=
  match (s.ring k).recs.find? (openFor p) with
  | some r => if p.op = 11#4 && 12 < r.fill + p.words.length then 3 else 0
  | none => if (s.room k p.ctx).isNone then 1 else 2

theorem witness_PushArrivalAndFolding :
    (∀ e ∈ arrivals, Arriving (flown e.1 e.2.1) e.1 ∧ arriveCase (flown e.1 e.2.1) e.1 = e.2.2) ∧
    (∀ op ∈ [1, 3, 9, 11, 12], let p : Push := { aPush with op := BitVec.ofNat 4 op, words := [1#32, 0x3F800000#32] }
      foldCase ((demo (.nop r0) []).arrive (.cluster 0 0) p).1 (.cluster 0 0) p = 0) ∧
    foldCase ((demo (.nop r0) []).arrive (.die 0) { aPush with op := 13#4, cls := 3#4, words := [5#32] }).1 (.die 0) { aPush with op := 13#4, cls := 3#4, words := [5#32] } = 0 ∧
    foldCase (swappedOut (demo (.nop r0) [])) (.cluster 0 0) aPush = 1 ∧ foldCase (demo (.nop r0) [] stocked) (.cluster 0 0) aPush = 2 := by
  refine ⟨fun e he => ?_, by decide +kernel, by decide +kernel, by decide +kernel, by decide +kernel⟩
  have h : arrivingB (flown e.1 e.2.1) e.1 = true ∧ arriveCase (flown e.1 e.2.1) e.1 = e.2.2 := by
    simp only [arrivals, List.mem_cons, List.not_mem_nil, or_false] at he
    rcases he with rfl | rfl | rfl | rfl | rfl | rfl | rfl | rfl | rfl | rfl | rfl <;> decide +kernel
  exact ⟨arriving_of h.1, h.2⟩

/-- A message for handler 2 of a context whose handler set is all of die 0. -/
def handlerPush : Push := { aPush with cls := 2#4, target := 0x800002#24 }
def handling (k : KrId) (s : State) : State :=
  (State.arrive { s with ctxs := s.ctxs.map fun c => { c with hset := [BitVec.allOnes 64] } } k handlerPush).1

/-- The first record of the cluster's keyring spilled. -/
def spilt (s : State) : State :=
  let s := stocked s
  s.setRing (.cluster 0 0) { s.ring (.cluster 0 0) with recs := ((s.ring (.cluster 0 0)).recs).mapIdx fun k r => { r with spilled := k == 0 } }

/-- A push whose record is there and awaits its acceptance. -/
def pendingFlight : Flight := { aFlight (.cluster 0 0) { aPush with ident := anIdent } with arrived := some 100 }
def pendingRec : State := flown pendingFlight fun s => (State.arrive { s with uid := 100 } (.cluster 0 0) { aPush with ident := anIdent }).1

/-- Whether a cluster could take a handler's record. -/
def canTake (s : State) (r : Rec) (c : Nat) : Bool := s.handlerRec 0 c r && (s.handlerPipe 0 c).isSome && (s.room (.cluster 0 c) r.ctx).isSome

theorem witness_RecordEvents_accept : pendingRec.flights.find? (·.k == pendingFlight.k) = some pendingFlight ∧ pendingFlight.remote = none ∧
    pendingFlight.arrived = some 100 ∧ ((pendingRec.ring pendingFlight.kr).recs.find? (·.uid == 100)).isSome = true ∧ pendingFlight.push.cls ≠ 0#4 ∧
    pendingFlight.push.counts = false ∧ pendingRec.acceptBehind pendingFlight = false := by decide +kernel

/-- A LAUNCH record that awaits its acceptance, with P7 and the completion address. -/
def launchPush (p7 lo : Nat) : Push :=
  { aPush with cls := 0#4, ident := anIdent, words := [4#32, 0#32, 0#32, 0#32, 1#32, 1#32, 1#32, BitVec.ofNat 32 p7, BitVec.ofNat 32 lo, 0#32, 0#32, 0#32] }
def launchFlight (p7 lo : Nat) : Flight := { aFlight (.die 0) (launchPush p7 lo) with arrived := some 100 }
def launchPending (p7 lo : Nat) (g : State → State) : State :=
  flown (launchFlight p7 lo) fun s => (State.arrive { g s with uid := 100 } (.die 0) (launchPush p7 lo)).1

/-- How an acceptance counts the launch: 0 no word, 1 the word is counted, 2 its update waits. -/
def countCase (s : State) (f : Flight) : Nat :=
  match (s.ring f.kr).recs.find? (·.uid == 100) with
  | none => 9
  | some r =>
    let g := r.newGrid s.uid
    let t : State := { s.setRing f.kr { s.ring f.kr with recs := (s.ring f.kr).recs.map fun x =>
      if x.uid = r.uid then { x with grid := some g.uid } else x } with grids := s.grids ++ [g], uid := s.uid + 1 }
    if r.grid.isSome then 8 else if g.cmode || g.caddr == 0#54 then 0 else if (t.caddrUpdate g (· + 1#32)).2 then 1 else 2

theorem witness_RecordEvents_launch : ∀ e ∈ ([(0x100, 0x40000, id, 0), (0, 0, id, 0), (0, 0x40000, fun s => { s with mem := [(0, 1#8), (1, 16#8), (4096, 0x1F#8)] }, 1),
      (0, 0x40000, id, 2)] : List (Nat × Nat × (State → State) × Nat)),
    let f := launchFlight e.1 e.2.1
    let s := launchPending e.1 e.2.1 e.2.2.1
    s.flights.find? (·.k == f.k) = some f ∧ f.remote = none ∧ f.arrived = some 100 ∧ s.acceptBehind f = false ∧ f.push.cls = 0#4 ∧ countCase s f = e.2.2.2 := by
  intro e he
  simp only [List.mem_cons, List.not_mem_nil, or_false] at he
  rcases he with rfl | rfl | rfl | rfl <;> decide +kernel

theorem witness_RecordEvents_handlers :
    (∀ s ∈ [demo (.nop r0) [] (handling (.cluster 0 63))], s.running.contains 0 = true ∧ s.handlerPipe 0 63 = some 0 ∧
      ((s.ring (.cluster 0 63)).select (s.handlerRec 0 63)).any (fun r => s.ctx? r.ctx == s.ctxs.head?) = true ∧ (s.freeSlot ⟨0, false, 63, 0⟩).isSome = true) ∧
    ∀ s ∈ [demo (.nop r0) [] (handling (.die 0))], s.running.contains 0 = true ∧
      ((s.ring (.die 0)).select (fun r => r.cls == 2#4 && r.target.getLsbD 23 && (List.range 64).any (canTake s r))).any
        (fun r => (List.range 64).find? (canTake s r) == some 0) = true := by
  decide +kernel

theorem witness_RecordEvents_spill : let s := demo (.nop r0) [] spilt
    ∃ r ∈ (s.ring (.cluster 0 0)).recs, r.spilled = true ∧ r.dispatched = false ∧ (∃ c, s.ctx? r.ctx = some c ∧ c.st = .live) ∧ s.freeRecs (.cluster 0 0) ≠ 0 ∧
      (∀ x ∈ (s.ring (.cluster 0 0)).recs, x.uid = r.uid → x = r) ∧
      ∀ x ∈ (s.ring (.cluster 0 0)).recs, x.spilled = true → x.dispatched = false → x.uid = r.uid ∨ r.pos < x.pos := by
  intro s
  have h : ((s.ring (.cluster 0 0)).recs.any fun r => r.spilled && !r.dispatched && (s.ctx? r.ctx).any (fun c => c.st == .live) && s.freeRecs (.cluster 0 0) != 0 &&
      ((s.ring (.cluster 0 0)).recs.all fun x => x.uid != r.uid || x == r) &&
      (s.ring (.cluster 0 0)).recs.all fun x => !x.spilled || x.dispatched || x.uid == r.uid || decide (r.pos < x.pos)) = true := by decide +kernel
  obtain ⟨r, hr, h⟩ := List.any_eq_true.mp h
  simp only [Bool.and_eq_true, Bool.not_eq_true', bne_iff_ne] at h
  obtain ⟨⟨⟨⟨⟨h1, h2⟩, h3⟩, h4⟩, h5⟩, h6⟩ := h
  obtain ⟨c, hc, h3⟩ := Option.any_eq_true _ _ |>.mp h3
  refine ⟨r, hr, h1, h2, ⟨c, hc, by simpa using h3⟩, h4, fun x hx e => ?_, fun x hx a b => ?_⟩
  · have a := List.all_eq_true.mp h5 x hx
    simpa [e] using a
  · have c := List.all_eq_true.mp h6 x hx
    simpa [a, b] using c

/-! ## Engine jobs -/

/-- The demo's team with every tile, 64 KiB of state memory and 1 MiB of scratchpad; w0 and w1 are memory windows. -/
def rich (s : State) : State :=
  { s with
    teams := s.teams.map fun t => { t with tiles := 16, stKiB := 64, scratchSize := 0x100000 }
    waves := s.waves.map fun x => { x with thr := { x.thr with wins := (x.thr.wins.setIfInBounds 0 win0).setIfInBounds 1 win0 } } }

def pendingEnt (k : Nat) : JobEnt := ⟨k, k, .pending, false, 0, 0#32, 0, 0, false, 0, 0, []⟩

/-- A push of the pipeline to its keyring is under way, and the stack engines' table is full. -/
def busy (s : State) : State :=
  { s with
    flights := [{ plainFlight 500 (.cluster 0 0) aPush with pipe := some ⟨0, false, 0, 0⟩ }]
    teams := s.teams.map fun t => { t with kjobs := ⟨64, 0, (List.range 64).map pendingEnt⟩ } }

/-- The wave as a gateway core's. -/
def onGateway (s : State) : State := { s with waves := s.waves.map fun w => { w with gw := true } }

def noPre : View → List Word → Prop := fun _ _ => True

/-- Opcode, words, constructor, check, and a block in order. -/
def clusterJobs : List (Nat × Nat × (EFmt → Instr) × (State → View → List Word → List Check) × List Nat) := [
  (0x0F0, 3, .mjobMma, mmaChecks, [0x10F, 0, 0]), (0x0F1, 3, .mjobMmz, mmaChecks, [0, 64, 0x3F]), (0x0F2, 4, .mjobWld, wldChecks, [0, 64, 0, 0]),
  (0x0F3, 4, .mjobAco, tileChecks true, [0, 0, 0, 512]), (0x0F4, 4, .mjobAci, tileChecks false, [0x90, 0, 0, 512]), (0x0F5, 1, .mjobZero, zeroChecks, [15]),
  (0x100, 8, .sscan, sscanChecks, [0, 0, 0, 0, 0, 128, 256, 512]), (0x101, 3, .ssld, ssCopyChecks, [0x100, 0, 0]), (0x102, 3, .ssst, ssCopyChecks, [0x10100, 0, 0])]

def copyJobs : List (Nat × Nat × Nat × (EFmt → Instr) × List Nat) := [
  (0x110, 4, 22, .cpy, [8, 0, 0, 4]), (0x110, 4, 22, .cpy, [0x48, 0, 0, 4, 2, 4, 4]), (0x110, 4, 22, .cpy, [0x10000, 0, 0, 4]),
  (0x111, 9, 26, .cpyg, [8, 0, 4, 1, 0, 4, 4, 0, 1]), (0x112, 9, 26, .cpys, [8, 0, 4, 1, 0, 4, 4, 0, 1])]

def stackJobs : List (Nat × Nat × (EFmt → Instr) × (State → View → List Word → List Check) × List Nat) := [
  (0x130, 9, .sgath, sgathChecks, [0, 0, 0, 0, 0, 0, 0, 0, 0]), (0x131, 5, .sredAddF32, sredChecks, [0, 0, 0, 0, 0]),
  (0x132, 5, .sredAddBf16, sredChecks, [0, 0, 0, 0, 0]), (0x133, 5, .sredMaxF32, sredChecks, [0, 0, 0, 0, 0]),
  (0x134, 9, .sredBadd, baddChecks, [0, 0, 0, 0, 0, 0, 0, 0, 0]), (0x135, 9, .sconv, sconvChecks, [0x1000000, 0, 0, 0, 0, 0, 0, 0, 0])]

/-- A job's slot issues with a block for which the check answers `b`, in a gateway core or a cluster. -/
def JobMeets (i : EFmt → Instr) (sl : EFmt → Slot) (legal : State → View → List Word → Bool) (blk : List Nat) (g : State → State) (gw b : Bool) : Prop :=
  let s := blockDemo i blk g
  Issues s (vw s) (sl (eF blk.length)) ∧ (vw s).w.gw = gw ∧ legal s (vw s) ((vw s).block (eF blk.length)) = b

def jobMeetsB (i : EFmt → Instr) (sl : EFmt → Slot) (legal : State → View → List Word → Bool) (blk : List Nat) (g : State → State) (gw b : Bool) : Bool :=
  let s := blockDemo i blk g
  issuesB s (sl (eF blk.length)) && (vw s).w.gw == gw && legal s (vw s) ((vw s).block (eF blk.length)) == b

theorem jobMeets_of {i : EFmt → Instr} {sl : EFmt → Slot} {legal : State → View → List Word → Bool} {blk : List Nat} {g : State → State} {gw b : Bool}
    (h : jobMeetsB i sl legal blk g gw b = true) : JobMeets i sl legal blk g gw b := by
  simp only [jobMeetsB, Bool.and_eq_true, beq_iff_eq] at h
  exact ⟨issues_of h.1.1, h.1.2, h.2⟩

/-- A block of the same length whose first word is all ones. -/
def spoiled (b : List Nat) : List Nat := 0xFFFFFFFF :: b.tail

/-- A job waits at issue while its table is full or a push is under way. -/
def fullFor (e : Engine) (n : Nat) (s : State) (v : View) (_ : List Word) : Bool := n ≤ (s.tab v.w.team e).outstanding || s.ringBusy v

theorem witness_JobInstructions :
    (∀ e ∈ clusterJobs, let sl (f : EFmt) := slotE e.1 f f.count.toNat (f.count.toNat != e.2.1)
      JobMeets e.2.2.1 sl (passes e.2.2.2.1) e.2.2.2.2 rich false true ∧ JobMeets e.2.2.1 sl (passes e.2.2.2.1) (spoiled e.2.2.2.2) rich false false ∧
      JobMeets e.2.2.1 sl (fun _ _ _ => true) e.2.2.2.2 (fun s => onGateway (rich s)) true true ∧
      JobMeets e.2.2.1 sl (fullFor .matrix 256) e.2.2.2.2 (fun s => busy (rich s)) false true) ∧
    (∀ e ∈ stackJobs, let sl (f : EFmt) := slotE e.1 f f.count.toNat (f.count.toNat != e.2.1)
      JobMeets e.2.2.1 sl (passes e.2.2.2.1) e.2.2.2.2 rich false true ∧ JobMeets e.2.2.1 sl (passes e.2.2.2.1) (spoiled e.2.2.2.2) rich false false ∧
      JobMeets e.2.2.1 sl (passes e.2.2.2.1) e.2.2.2.2 (fun s => onGateway (rich s)) true true ∧
      JobMeets e.2.2.1 sl (fun s v _ => decide (64 ≤ (s.tab v.w.team .stack).outstanding)) e.2.2.2.2 (fun s => busy (rich s)) false true) := by
  refine ⟨fun e he => ?_, fun e he => ?_⟩ <;> refine ⟨jobMeets_of ?_, jobMeets_of ?_, jobMeets_of ?_, jobMeets_of ?_⟩ <;> revert e <;> decide +kernel

theorem witness_CopyInstructions : ∀ e ∈ copyJobs,
    let sl (f : EFmt) := slotE e.1 f f.count.toNat (f.count.toNat < e.2.1 || e.2.2.1 < f.count.toNat)
    JobMeets e.2.2.2.1 sl (passes (copyChecks e.1)) e.2.2.2.2 rich false true ∧ JobMeets e.2.2.2.1 sl (passes (copyChecks e.1)) (spoiled e.2.2.2.2) rich false false ∧
    JobMeets e.2.2.2.1 sl (fun _ _ _ => true) e.2.2.2.2 (fun s => onGateway (rich s)) true true ∧
    JobMeets e.2.2.2.1 sl (fullFor .copy 256) e.2.2.2.2 (fun s => busy (rich s)) false true ∧
    ∀ b ∈ [e.2.2.2.2, spoiled e.2.2.2.2], ∀ x ∈ copyShape e.1 ((vw (blockDemo e.2.2.2.1 b rich)).block (eF b.length)),
      (vw (blockDemo e.2.2.2.1 b rich)).thr.winBusy x.1 = false := by
  intro e he
  refine ⟨jobMeets_of ?_, jobMeets_of ?_, jobMeets_of ?_, jobMeets_of ?_, ?_⟩ <;> revert e <;> decide +kernel

/-- A job of the demo's team. -/
def aJob (e : Engine) (op : Nat) (desc : List Word) : JobDesc :=
  { eng := e, op := op, ctx := 0#12, team := State.reset.uid, id := 1, serial := 1, desc := desc, place := 0#32, wins := [], n := 1, region := none }

def theJob (d : JobDesc) (ids : List (Nat × Nat)) : Job :=
  { k := 77, d := d, ids := ids, die := 0, clu := 0, done := 0, rd := false, suspended := false, stalled := false, faultVa := 0, unresolved := false, data := [],
    fault := none, flags := 0#32, oor := 0, row := 0, units := [] }

/-- Job 1 is pending, job 2 done, job 3 pending and past its reads. -/
def aTab : JobTab := ⟨3, 1, [pendingEnt 1, { pendingEnt 2 with st := .done }, { pendingEnt 3 with rd := true }]⟩

/-- Those jobs in every table; completion counter 7 at 2; ring 0 configured with 4 entries, 3 of them held; ring 1 not. -/
def tabbed (s : State) : State :=
  let s := rich s
  { s with teams := s.teams.map fun t => { t with
      mjobs := aTab, sjobs := aTab, cjobs := aTab, kjobs := aTab, cc := t.cc.setIfInBounds 7 2#32
      rings := t.rings.setIfInBounds 0 ⟨true, 0#15, 0#8, 3#8, 3#32, 0#32⟩ } }

theorem witness_JobRecordsAndCompletion :
    (∀ g ∈ [rich, swappedOut], let s := demo (.nop r0) [] g
      (s.team? (vw s).w.team).any (fun t => t.uid == (aJob .matrix 0x0F0 []).team && (vw s).w.team == t.uid) = true ∧ (eF 3).d.toNat < 64) ∧
    (demo (.nop r0) [] rich).room (.cluster 0 0) 0#12 = some false ∧ (demo (.nop r0) [] swappedOut).room (.cluster 0 0) 0#12 = none ∧ (4#4 : BitVec 4) ≠ 3#4 ∧
    (∀ st ∈ [JobState.done, .pending, .cancelled, .fault], ({ pendingEnt 1 with st := st, cause := 255, prog := 255 } : JobEnt).cause < 256 ∧
      ({ pendingEnt 1 with st := st, cause := 255, prog := 255 } : JobEnt).prog < 256) ∧
    (theJob (aJob .stack 0x131 []) [(State.reset.uid, 3)]).ids = [(State.reset.uid, 3)] ∧ ((demo (.nop r0) [] tabbed).team? State.reset.uid).isSome = true := by
  refine ⟨fun g hg => ?_, by decide +kernel, by decide +kernel, by decide, by decide, by decide, by decide +kernel⟩
  simp only [List.mem_cons, List.not_mem_nil, or_false] at hg
  rcases hg with rfl | rfl <;> decide +kernel

theorem readsAB_of {s : State} {sl : Slot} {f : RFmt} {p : View → State → Word → Word → Prop} [∀ v s' a b, Decidable (p v s' a b)]
    (h : readsB s sl [f.a, f.b] (fun v s' pa pb x => decide (p v s' (x.bits .i32 pa f.a) (x.bits .i32 pb f.b))) = true) :
    ∃ v s' a b, ReadsAB s v sl f s' a b ∧ p v s' a b := by
  obtain ⟨v, s', pa, pb, x, h1, h2, h3⟩ := reads_of h
  exact ⟨v, s', _, _, ⟨pa, pb, x, h1, h2 _ (by simp), h2 _ (by simp), rfl, rfl⟩, h3⟩

/-- A wait or query of the jobs of `tabbed`: its operands in g1 and g2. -/
def askDemo (op : Nat) (i : RFmt → Instr) (a b : Nat) (g : State → State) : State :=
  demo (i (rf op)) [(1, ⟨BitVec.ofNat 32 a, .i32⟩), (2, ⟨BitVec.ofNat 32 b, .i32⟩)] fun s => g (tabbed s)

def ABMeets (op : Nat) (i : RFmt → Instr) (a b : Nat) (g : State → State) (p : View → State → Word → Word → Prop) : Prop :=
  ∃ v s' x y, ReadsAB (askDemo op i a b g) v (slotR op (rf op)) (rf op) s' x y ∧ p v s' x y

/-- What a wait finds: 0 a refused operand, 1 a job that has ended or is far enough, 2 one that has not. -/
def waitCase (e : Engine) (gwOk : Bool) (v : View) (s' : State) (a b : Word) : Nat :=
  if (v.w.gw && !gwOk) || decide (65536 ≤ a.toNat) || decide (1 < b.toNat) then 0
  else if ((s'.tab v.w.team e).ents.reverse.find? (·.id == a.toNat)).all fun y => y.st != .pending || (b == 0#32 && y.rd) then 1 else 2

theorem witness_JobWaits :
    (∀ e ∈ ([(0x0F6, .mwait, .matrix, false), (0x103, .sswait, .sspace, false), (0x136, .swait, .stack, true)] : List (Nat × (RFmt → Instr) × Engine × Bool)),
      ∀ c ∈ ([(65536, 0, 0), (1, 2, 0), (65535, 1, 1), (2, 1, 1), (3, 0, 1), (3, 1, 2), (1, 0, 2)] : List (Nat × Nat × Nat)),
        ABMeets e.1 e.2.1 c.1 c.2.1 id fun v s' a b => waitCase e.2.2.1 e.2.2.2 v s' a b = c.2.2) ∧
    (∀ e ∈ ([(0x0F6, .mwait, .matrix, 0), (0x103, .sswait, .sspace, 0), (0x136, .swait, .stack, 1)] : List (Nat × (RFmt → Instr) × Engine × Nat)),
      ABMeets e.1 e.2.1 2 1 onGateway fun v s' a b => waitCase e.2.2.1 (e.2.2.2 == 1) v s' a b = e.2.2.2) ∧
    (∀ e ∈ ([(65536, id), (0, onGateway), (65535, id), (1, id)] : List (Nat × (State → State))),
      ∃ v s' pa pb x, Reads (askDemo 0x0F7 .mqry e.1 0 e.2) v (slotR 0x0F7 (rf 0x0F7)) s' pa pb x ∧ (∀ y ∈ [Src.reg 1#6], x.readable true y) ∧
        (x.bits .i32 pa (.reg 1#6)).toNat = e.1) ∧
    (∀ e ∈ ([(0x104, .ssqry), (0x114, .cpyq), (0x137, .sqry)] : List (Nat × (RFmt → Instr))),
      ∀ c ∈ ([(65536, 1), (65535, 0), (2, 1), (0, 2), (7, 2), (8, 2), (0, 3), (64, 3), (65, 3), (0, 4)] : List (Nat × Nat)),
        ABMeets e.1 e.2 c.1 c.2 id fun v s' a b => v.w.gw = false ∧ (a.toNat, b.toNat) = c ∧ s'.ringBusy v = false ∧ (s'.team? v.w.team).isSome = true) ∧
    (ABMeets 0x104 .ssqry 64 3 busy fun v s' _ _ => s'.ringBusy v = true) ∧
    (∀ e ∈ ([(0x104, .ssqry), (0x114, .cpyq), (0x137, .sqry)] : List (Nat × (RFmt → Instr))), ABMeets e.1 e.2 0 0 onGateway fun v _ _ _ => v.w.gw = true) ∧
    (∀ c ∈ ([(8, 0, 0), (7, 2, 1), (0, 0, 1), (7, 1, 2)] : List (Nat × Nat × Nat)), ABMeets 0x113 .cpyw c.1 c.2.1 id fun v s' a b => v.w.gw = false ∧
      (if 7 < a.toNat then 0 else if (s'.team? v.w.team).any fun t => decide (((t.cc[a.toNat]?).getD 0#32).toNat ≤ b.toNat) then 1 else 2) = c.2.2) ∧
    ABMeets 0x113 .cpyw 0 0 onGateway fun v _ _ _ => v.w.gw = true := by
  refine ⟨fun e he c hc => readsAB_of ?_, fun e he => readsAB_of ?_, fun e he => reads_of ?_, fun e he c hc => readsAB_of ?_, readsAB_of (by decide +kernel),
    fun e he => readsAB_of ?_, fun c hc => readsAB_of ?_, readsAB_of (by decide +kernel)⟩
  · revert c; revert e; decide +kernel
  · revert e; decide +kernel
  · simp only [List.mem_cons, List.not_mem_nil, or_false] at he
    rcases he with rfl | rfl | rfl | rfl <;> decide +kernel
  · revert c; revert e; decide +kernel
  · revert e; decide +kernel
  · revert c; decide +kernel

/-- A record at the cluster's keyring that holds job 1 of the demo's team. -/
def recorded (cls : BitVec 4) (j : JobDesc) (s : State) : State := (State.arrive s (.cluster 0 0) { aPush with cls := cls, job := some j }).1

/-- The outcomes of a cancellation: 0 a refused operand, 1 a push under way, 2 no such job, 3 no record, 4 the record is withdrawn. -/
def cancelCase (e : Engine) (cls : BitVec 4) (v : View) (s' : State) (a : Nat) : Nat :=
  if v.w.gw || decide (65536 ≤ a) then 0 else if s'.ringBusy v then 1
  else match (s'.tab v.w.team e).find a with
    | none => 2
    | some z =>
      match (s'.ring (.cluster v.w.die v.w.clu)).recs.find? fun r => r.cls == cls && !r.dispatched && r.jobIds.contains (v.w.team, z.serial) with
      | none => 3
      | some r => if r.job.isSome then 4 else 5

def cancels : List (Nat × (RFmt → Instr) × Engine × BitVec 4 × JobDesc) := [(0x0F8, .mcancel, .matrix, 4#4, aJob .matrix 0x0F5 [0#32]),
  (0x115, .cpyc, .copy, 5#4, aJob .copy 0x110 [8#32, 0#32, 0#32, 4#32])]

theorem witness_JobCancels : ∀ e ∈ cancels, ∀ c ∈ ([(65536, 0, id), (1, 0, onGateway), (1, 1, busy), (4, 2, id), (2, 3, id), (1, 4, id), (1, 3, fun s => { s with keyrings := [] })] :
      List (Nat × Nat × (State → State))),
    ∃ v s' pa pb x, Reads (askDemo e.1 e.2.1 c.1 0 fun s => c.2.2 (recorded e.2.2.2.1 e.2.2.2.2 s)) v (slotR e.1 (rf e.1)) s' pa pb x ∧
      (∀ y ∈ [Src.reg 1#6], x.readable true y) ∧ cancelCase e.2.2.1 e.2.2.2.1 v s' (x.bits .i32 pa (.reg 1#6)).toNat = c.2.1 := by
  intro e he c hc
  refine reads_of ?_
  simp only [List.mem_cons, List.not_mem_nil, or_false] at hc
  rcases hc with rfl | rfl | rfl | rfl | rfl | rfl | rfl <;> revert e <;> decide +kernel

def liveF : RFmt := ⟨0#6, false, false, .reg 1#6, .reg 0#6⟩

/-- LIVE: 0 refused, 1 a push under way, 2 done. -/
def liveCase (v : View) (s' : State) (t : Team) (a : Nat) : Nat :=
  if v.w.gw || decide (2 ^ 17 ≤ a) || decide (2 ^ t.tiles ≤ a % 65536) || (decide (65536 ≤ a) && a != 65536) then 0 else if s'.ringBusy v then 1 else 2

/-- RING.PUB: 0 refused, 1 named by a job, 2 does not fit, 3 configured, 4 not configured, 5 too many, 6 no room, 7 published. -/
def pubCase (v : View) (s' : State) (t : Team) (a b : Word) : Nat :=
  let r := (t.rings[a.toNat % 8]?).getD Ring.reset
  if v.w.gw || !only a 0x107#32 || (a.getLsbD 8 && b.msb) then 0
  else if a.getLsbD 8 then
    if s'.ringNamed v (a.toNat % 8) then 1
    else if t.scratchSize < 64 * ((b.extractLsb' 0 15).toNat + ((b.extractLsb' 23 8).toNat + 1) * ((b.extractLsb' 15 8).toNat + 1)) then 2 else 3
  else if !r.cfg then 4 else if b.toInt < 1 || r.count.toNat + 1 < b.toNat then 5 else if r.count.toNat + 1 < (r.pub - r.con).toNat + b.toNat then 6 else 7

/-- RING.WT: 0 refused, 1 not configured, 2 nothing asked, 3 too many, 4 free, 5 waits. -/
def ringCase (v : View) (t : Team) (a b : Word) : Nat :=
  let r := (t.rings[a.toNat]?).getD Ring.reset
  if v.w.gw || decide (7 < a.toNat) then 0 else if !r.cfg then 1 else if b.toInt ≤ 0 then 2 else if r.count.toNat + 1 < b.toNat then 3
  else if b.toNat ≤ r.count.toNat + 1 - (r.pub - r.con).toNat then 4 else 5

theorem witness_Rings :
    (∀ c ∈ ([(0, 0, onGateway), (2 ^ 17, 0, id), (65537, 0, id), (65536, 2, id), (65535, 2, id), (0, 2, id), (65535, 1, busy)] : List (Nat × Nat × (State → State))),
      ∃ v s' pa pb x, Reads (demo (.live liveF) [(1, ⟨BitVec.ofNat 32 c.1, .i32⟩)] fun s => c.2.2 (tabbed s)) v (slotR 0x0F9 liveF) s' pa pb x ∧
        (∀ y ∈ [Src.reg 1#6], x.readable true y) ∧ (s'.team? v.w.team).any (fun t => liveCase v s' t (x.bits .i32 pa (.reg 1#6)).toNat == c.2.1) = true) ∧
    (∀ c ∈ ([(8, 0, 0, id), (0x100, 0x80000000, 0, id), (0, 1, 0, onGateway), (0x100, 0, 1, recorded 4#4 (aJob .matrix 0x0F0 [0x100#32, 0#32, 0#32])), (0x107, 0x7FFFFFFF, 2, id), (0x107, 0, 3, id),
        (1, 1, 4, id), (0, 0, 5, id), (0, 5, 5, id), (0, 2, 6, id), (0, 1, 7, id)] : List (Nat × Nat × Nat × (State → State))),
      ABMeets 0x0FA .ringPub c.1 c.2.1 c.2.2.2 fun v s' a b => (s'.team? v.w.team).any (fun t => pubCase v s' t a b == c.2.2.1) = true) ∧
    ∀ c ∈ ([(8, 1, 0, id), (0, 1, 0, onGateway), (7, 1, 1, id), (0, 0, 2, id), (0, 0x80000000, 2, id), (0, 5, 3, id), (0, 1, 4, id), (0, 2, 5, id), (0, 4, 5, id)] :
        List (Nat × Nat × Nat × (State → State))),
      ABMeets 0x0FB .ringWt c.1 c.2.1 c.2.2.2 fun v s' a b => (s'.team? v.w.team).any (fun t => ringCase v t a b == c.2.2.1) = true := by
  refine ⟨fun c hc => reads_of ?_, fun c hc => readsAB_of ?_, fun c hc => readsAB_of ?_⟩ <;> revert c <;> simp only [List.forall_mem_cons, List.not_mem_nil, false_imp_iff, implies_true, and_true] <;> decide +kernel

/-! ### Events of the matrix engine and the state-space control block -/

/-- The demo's machine with one job under way; pages are mapped. -/
def working (j : Job) (g : State → State := id) : State := g { demo (.nop r0) [] (fun s => paged (tabbed s)) with jobs := [j] }

/-- A job of the demo's team with a descriptor. -/
def jobOf (e : Engine) (op : Nat) (desc : List Nat) (rd : Bool) (g : Job → Job := id) : Job :=
  g { theJob (aJob e op (desc.map (BitVec.ofNat 32))) [(State.reset.uid, 1)] with rd := rd }

def endingB (s : State) (die clu k : Nat) (ops : List Nat) (areas : Job → List Area) (j : Job) : Bool :=
  s.jobs.find? (·.k == k) == some j && ops.contains j.d.op && j.die == die && j.clu == clu && (j.rd || j.fault.isSome) && !j.stalled &&
    s.running.contains die && s.jobFree areas j

theorem ending_of {s : State} {die clu k : Nat} {ops : List Nat} {areas : Job → List Area} {j : Job} (h : endingB s die clu k ops areas j = true) :
    Ending s die clu k ops areas j := by
  simp only [endingB, Bool.and_eq_true, beq_iff_eq, List.contains_iff_mem, Bool.or_eq_true, Bool.not_eq_true'] at h
  obtain ⟨⟨⟨⟨⟨⟨⟨h1, h2⟩, h3⟩, h4⟩, h5⟩, h6⟩, h7⟩, h8⟩ := h
  exact ⟨h1, h2, h3, h4, h5, h6, List.contains_iff_mem.mpr h7, h8⟩

def readingB (s : State) (e : Engine) (die clu k : Nat) (areas : Job → List Area) (j : Job) : Bool :=
  s.jobs.find? (·.k == k) == some j && j.d.eng == e && j.die == die && j.clu == clu && !j.rd && !j.stalled && j.fault.isNone &&
    s.running.contains die && s.jobFree areas j

theorem reading_of {s : State} {e : Engine} {die clu k : Nat} {areas : Job → List Area} {j : Job} (h : readingB s e die clu k areas j = true) :
    Reading s e die clu k areas j := by
  simp only [readingB, Bool.and_eq_true, beq_iff_eq, Option.isNone_iff_eq_none, Bool.not_eq_true'] at h
  obtain ⟨⟨⟨⟨⟨⟨⟨⟨h1, h2⟩, h3⟩, h4⟩, h5⟩, h6⟩, h7⟩, h8⟩, h9⟩ := h
  exact ⟨h1, h2, h3, h4, h5, h6, h7, h8, h9⟩

/-- The team of a job of the demo is there. -/
def teamB (s : State) (j : Job) : Bool := (s.team? j.d.team).isSome

/-- An image in slot 0 of cluster 0's weight buffer. -/
def imaged (kb : Nat) (c : BitVec 12) (s : State) : State := s.modCluster 0 0 fun x => { x with images := [⟨0, 0, 0, kb, 1, c⟩] }

def dispatchable (e : Engine) (d : JobDesc) (s : State) : Bool :=
  ((s.ring (.cluster 0 0)).select fun r => r.cls == jobCls e && r.job.any (fun j => (s.team? j.team).isSome) && (s.ctx? r.ctx).any fun c => c.st = .live).any
    fun r => r.job == some d

/-- Dispatch: the engine, the number of jobs it may hold, its class, and a job. -/
def dispatches : List (Engine × Nat × BitVec 4 × JobDesc) := [(.matrix, 8, 4#4, aJob .matrix 0x0F5 [0#32]), (.sspace, 4, 6#4, aJob .sspace 0x101 [0x100#32, 0#32, 0#32]),
  (.copy, 16, 5#4, aJob .copy 0x110 [8#32, 0#32, 0#32, 4#32]), (.copy, 16, 5#4, aJob .copy 0x110 [0x10000#32, 0#32, 0#32, 4#32])]

def mmaJob (op : Nat) (done : Bool) (fault : Option (Nat × Nat)) : Job := jobOf .matrix op [0, 64, 0] done fun j => { j with fault := fault }

theorem witness_MatrixEvents_dispatch : ∀ e ∈ dispatches,
    dispatchable e.1 e.2.2.2 (demo (.nop r0) [] fun s => recorded e.2.2.1 e.2.2.2 (tabbed s)) = true ∧
    (demo (.nop r0) [] tabbed).running.contains 0 = true ∧ ((demo (.nop r0) [] tabbed).jobs.filter fun j => j.d.eng = e.1 && j.die == 0 && j.clu == 0).length < e.2.1 ∧
    ({ demo (.nop r0) [] tabbed with running := [1] } : State).running.contains 0 = false ∧
    e.2.1 ≤ (({ demo (.nop r0) [] tabbed with jobs := List.replicate e.2.1 (jobOf e.1 0 [] false) } : State).jobs.filter fun j => j.d.eng = e.1 && j.die == 0 && j.clu == 0).length := by
  decide +kernel

theorem witness_MatrixEvents_reads :
    (∀ op ∈ [0x0F0, 0x0F1], ∀ g ∈ [id, imaged 1 0#12, imaged 0 5#12, imaged 0 0#12],
      Reading (working (mmaJob op false none) g) .matrix 0 0 77 matrixAreas (mmaJob op false none) ∧ teamB (working (mmaJob op false none) g) (mmaJob op false none) = true ∧
      (working (mmaJob op false none) g).arrayFree (mmaJob op false none) = true) ∧
    (((working (mmaJob 0x0F0 false none)).cluster 0 0).images.find? (·.slot == 0) = none) ∧
    (∀ e ∈ ([(imaged 1 0#12, 1, 0), (imaged 0 5#12, 0, 5), (imaged 0 0#12, 0, 0)] : List ((State → State) × Nat × Nat)),
      (((working (mmaJob 0x0F0 false none) e.1).cluster 0 0).images.find? (·.slot == 0)).any (fun y => y.kb == e.2.1 && y.ctx.toNat == e.2.2) = true) ∧
    (∀ e ∈ ([(0x0F2, [0, 0x40000, 0, 0]), (0x0F3, [0, 0x40000, 0, 512]), (0x0F4, [0xA0, 0x40000, 0, 256]), (0x0F5, [0])] : List (Nat × List Nat)),
      Reading (working (jobOf .matrix e.1 e.2 false)) .matrix 0 0 77 matrixAreas (jobOf .matrix e.1 e.2 false) ∧
      teamB (working (jobOf .matrix e.1 e.2 false)) (jobOf .matrix e.1 e.2 false) = true) ∧
    (State.readList (jobOf .matrix 0x0F2 [0, 0x40000, 0, 0] false) .expanded (wldReads (jobOf .matrix 0x0F2 [0, 0x40000, 0, 0] false).d.desc) 0
      ((working (jobOf .matrix 0x0F2 [0, 0x40000, 0, 0] false)).modCluster 0 0 fun c => { c with images := c.images.filter fun w => w.slot + w.len ≤ 0 || 1 ≤ w.slot })).2.2 = none ∧
    (State.readList (jobOf .matrix 0x0F4 [0xA0, 0x40000, 0, 256] false) .expanded ((List.range 128).map fun i => (0x40000 + i * 256, rowBytes 10)) 0
      (working (jobOf .matrix 0x0F4 [0xA0, 0x40000, 0, 256] false))).2.2 = none := by
  refine ⟨fun op ho g hg => ?_, by decide +kernel, ?_, fun e he => ?_, by decide +kernel, by decide +kernel⟩
  · have h : readingB (working (mmaJob op false none) g) .matrix 0 0 77 matrixAreas (mmaJob op false none) = true ∧ teamB (working (mmaJob op false none) g) (mmaJob op false none) = true ∧
        (working (mmaJob op false none) g).arrayFree (mmaJob op false none) = true := by
      simp only [List.mem_cons, List.not_mem_nil, or_false] at hg
      rcases hg with rfl | rfl | rfl | rfl <;> revert op <;> decide +kernel
    exact ⟨reading_of h.1, h.2⟩
  · simp only [List.forall_mem_cons, List.not_mem_nil, false_imp_iff, implies_true, and_true]
    decide +kernel
  · have h : readingB (working (jobOf .matrix e.1 e.2 false)) .matrix 0 0 77 matrixAreas (jobOf .matrix e.1 e.2 false) = true ∧
        teamB (working (jobOf .matrix e.1 e.2 false)) (jobOf .matrix e.1 e.2 false) = true := by revert e; decide +kernel
    exact ⟨reading_of h.1, h.2⟩

/-- A ring job that has read every published entry of ring 1, and another array job behind it. -/
def ringJob : Job := jobOf .matrix 0x0F0 [0x310, 0, 0] false
def ringJobs : State := working ringJob fun s => { s with jobs := s.jobs ++ [{ jobOf .matrix 0x0F0 [0x105, 0, 0] false with k := 78 }] }

theorem witness_MatrixEvents_suspend : ringJobs.jobs.find? (·.k == 77) = some ringJob ∧ ringJob.die = 0 ∧ ringJob.clu = 0 ∧ ringJob.rd = false ∧ ringJob.fault = none ∧
    ringJob.d.op = 0x0F0 ∧ (dw ringJob.d.desc 0).getLsbD 8 = true ∧
    (ringJobs.team? ringJob.d.team).any (fun t => (t.ring (fld (dw ringJob.d.desc 0) 9 3)).pub == (t.ring (fld (dw ringJob.d.desc 0) 9 3)).con) = true ∧
    ∃ i ∈ ringJobs.jobs, i.d.eng = .matrix ∧ i.die = 0 ∧ i.clu = 0 ∧ i.k ≠ 77 ∧ i.array = true ∧ areasClash (matrixAreas i) (matrixAreas ringJob) = false := by
  decide +kernel

/-- The ends of matrix jobs: opcodes, descriptor, and the data that their reads gave. -/
def matrixEnds : List (List Nat × List Nat) := [([0x0F2], [0, 0x40000, 0, 0]), ([0x0F3], [0, 0x40000, 0, 512]), ([0x0F4], [0x90, 0x40000, 0, 512]), ([0x0F5], [0])]

def endJob (e : Engine) (ops desc : List Nat) (fault : Option (Nat × Nat)) : Job := jobOf e (ops.headD 0) desc true fun j => { j with fault := fault }

theorem witness_MatrixEvents_ends :
    (∀ op ∈ [0x0F0, 0x0F1], ∀ x ∈ [none, some (2, 0)], Ending (working (mmaJob op true x) (imaged 0 0#12)) 0 0 77 [0x0F0, 0x0F1] matrixAreas (mmaJob op true x) ∧
      teamB (working (mmaJob op true x) (imaged 0 0#12)) (mmaJob op true x) = true ∧
      (((working (mmaJob op true x) (imaged 0 0#12)).cluster 0 0).images.find? (·.slot == 0)).isSome = true) ∧
    (∀ e ∈ matrixEnds, ∀ x ∈ [none, some (3, 1)], Ending (working (endJob .matrix e.1 e.2 x)) 0 0 77 e.1 matrixAreas (endJob .matrix e.1 e.2 x)) ∧
    (badMap [0#32, 0x40000#32, 0#32, 0#32] (memPuts [] 0 [])).isNone = true ∧ (badMap [0x25100#32, 0x40000#32, 0#32, 0#32] (memPuts [] 0 [])).isSome = true ∧
    (State.writeRows (endJob .matrix [0x0F3] [0, 0x40000, 0, 512] none) 0x40000 512 (endJob .matrix [0x0F3] [0, 0x40000, 0, 512] none).data 0 (working (endJob .matrix [0x0F3] [0, 0x40000, 0, 512] none))).2.2 = none := by
  refine ⟨fun op ho x hx => ?_, fun e he x hx => ending_of ?_, by decide +kernel, by decide +kernel, by decide +kernel⟩
  · have h : endingB (working (mmaJob op true x) (imaged 0 0#12)) 0 0 77 [0x0F0, 0x0F1] matrixAreas (mmaJob op true x) = true ∧
      teamB (working (mmaJob op true x) (imaged 0 0#12)) (mmaJob op true x) = true ∧
      (((working (mmaJob op true x) (imaged 0 0#12)).cluster 0 0).images.find? (·.slot == 0)).isSome = true := by revert x; revert op; decide +kernel
    exact ⟨ending_of h.1, h.2⟩
  · revert x; revert e; decide +kernel

/-- An SSCAN in the scratchpad with L = 1, T = 4; SSLD and SSST of one unit of memory. -/
def scanDesc : List Nat := [0x400, 0, 0, 0, 0, 128, 256, 512]
def scanJob (data : List (List Byte)) (done : Nat) (rd : Bool) (fault : Option (Nat × Nat) := none) : Job :=
  jobOf .sspace 0x100 scanDesc rd fun j => { j with data := data, done := done, fault := fault, row := 1, d := { j.d with n := 4 } }

theorem witness_StateSpaceEvents :
    (∀ e ∈ ([(0x101, [0x100, 64, 0]), (0x102, [0x10100, 0x40000, 0]), (0x100, [0x30000, 0, 0, 0, 0, 4096, 8192, 16384])] : List (Nat × List Nat)),
      Reading (working (jobOf .sspace e.1 e.2 false)) .sspace 0 0 77 sspaceAreas (jobOf .sspace e.1 e.2 false) ∧
      teamB (working (jobOf .sspace e.1 e.2 false)) (jobOf .sspace e.1 e.2 false) = true) ∧
    (State.readSide (jobOf .sspace 0x101 [0x100, 64, 0] false) false [(64, 4096)] 0 (working (jobOf .sspace 0x101 [0x100, 64, 0] false))).2.2 = none ∧
    (∀ j ∈ [jobOf .sspace 0x100 [0x30000, 0, 0, 0, 0, 4096, 8192, 16384] false], (ssPart j).2 = true ∧ (dw j.d.desc 0).getLsbD 7 = false ∧
      j.done + (ssPart j).1 = fld (dw j.d.desc 0) 16 16 + 1 ∧ j.data = [] ∧
      (State.readSide j ((dw j.d.desc 0).getLsbD 6) (ssReads j) 0 (working j)).2.2 = none) ∧
    (∀ j ∈ [scanJob [[], [], []] 0 true], (State.ssRows j ((recPart (ssInputs j.d.desc 1 j.data).x (ssInputs j.d.desc 1 j.data).a (ssInputs j.d.desc 1 j.data).b
      (ssInputs j.d.desc 1 j.data).c ((working j).ssH j)).2.1.drop j.row) j.row (working j)).2.2.2 = none) ∧
    (∀ j ∈ [scanJob [[], [], []] 0 true], (working j).jobs.find? (·.k == 77) = some j ∧ j.d.eng = .sspace ∧ j.d.op = 0x100 ∧ j.stalled = false ∧ j.fault = none ∧ (working j).running.contains 0 = true ∧
        (working j).jobFree sspaceAreas j = true ∧ teamB (working j) j = true ∧ j.data ≠ [] ∧ j.done < fld (dw j.d.desc 0) 16 16 + 1 ∧
        j.done + (ssPart j).1 = fld (dw j.d.desc 0) 16 16 + 1 ∧ j.rd = true) ∧
    (∀ x ∈ [none, some (2, 0)], Ending (working (scanJob [] 1 true x)) 0 0 77 [0x100] sspaceAreas (scanJob [] 1 true x) ∧
      (scanJob [] 1 true x).done = fld (dw (scanJob [] 1 true x).d.desc 0) 16 16 + 1) ∧
    (∀ op ∈ [0x101, 0x102], ∀ x ∈ [none, some (2, 0)],
      Ending (working (endJob .sspace [op] [0x10100, 0x40000, 0] x)) 0 0 77 [op] sspaceAreas (endJob .sspace [op] [0x10100, 0x40000, 0] x)) ∧
    (State.ssUnits (endJob .sspace [0x102] [0x10100, 0x40000, 0] none) true 0x40000 (endJob .sspace [0x102] [0x10100, 0x40000, 0] none).data 0
      (working (endJob .sspace [0x102] [0x10100, 0x40000, 0] none))).2.2.2 = none := by
  refine ⟨fun e he => ?_, by decide +kernel, by decide +kernel, by decide +kernel, by decide +kernel, fun x hx => ?_, fun op ho x hx => ending_of ?_, by decide +kernel⟩
  · have h : readingB (working (jobOf .sspace e.1 e.2 false)) .sspace 0 0 77 sspaceAreas (jobOf .sspace e.1 e.2 false) = true ∧
      teamB (working (jobOf .sspace e.1 e.2 false)) (jobOf .sspace e.1 e.2 false) = true := by revert e; decide +kernel
    exact ⟨reading_of h.1, h.2⟩
  · have h : endingB (working (scanJob [] 1 true x)) 0 0 77 [0x100] sspaceAreas (scanJob [] 1 true x) = true ∧
      (scanJob [] 1 true x).done = fld (dw (scanJob [] 1 true x).d.desc 0) 16 16 + 1 := by revert x; decide +kernel
    exact ⟨ending_of h.1, h.2⟩
  · revert x; revert op; decide +kernel

/-! ### The last arrival at a rendezvous, and events of the copy unit and the stack engines -/

/-- A rendezvous of the set at which every other wave of the crew has arrived. -/
def allBut (n : Nat) (s : State) : State :=
  { s with teams := s.teams.map fun t => { t with rendezvous := [⟨n, 0, 5#32, (s.waves.map (·.uid)).tail, false⟩] } }

theorem witness_Fusion_last : ∀ e ∈ fuseTable, ∃ v s' pa pb x, Reads (fuseDemo e 0 fun s => allBut e.2.2 (crewOf e.2.2 s)) v (slotR e.1 (rf e.1)) s' pa pb x ∧
    (∀ y ∈ [Src.reg 1#6, .reg 2#6], x.readable true y) ∧ fuseCase s' v e.2.2 (x.bits .i32 pa (.reg 1#6)) (x.bits .i32 pb (.reg 2#6)).toNat = 8 ∧
    ((s'.rendezvousAt v.w.team e.2.2 (v.w.base / e.2.2 * e.2.2)).any fun r => r.n == e.2.2 && r.key == x.bits .i32 pa (.reg 1#6) && r.base == v.w.base / e.2.2 * e.2.2 &&
      !r.drain && ((s'.covered r.parts).all fun p => !(decide (v.w.base ≤ p) && decide (p < v.w.base + v.w.width))) &&
      decide (e.2.2 ≤ (s'.covered (r.parts ++ [v.w.uid])).length) && ((r.parts ++ [v.w.uid]).filterMap s'.wave?).all fun y =>
        y.thr.nextInSequence == v.thr.nextInSequence && y.xregs == v.w.xregs) = true := by
  intro e he
  simp only [fuseTable, List.mem_cons, List.not_mem_nil, or_false] at he
  rcases he with rfl | rfl | rfl <;> exact reads_of (by decide +kernel)

/-- A copy of one row from the page of w0 to that of w1. -/
def copyJob (rd : Bool) (done : Nat) (fault : Option (Nat × Nat)) (op : Nat := 0x110) (desc : List Nat := [0x48, 0, 0x100, 4, 1, 4, 4]) : Job :=
  jobOf .copy op desc rd fun j => { j with done := done, fault := fault, d := { j.d with wins := [win0, win0] } }

/-- A job of an engine that its events find on a running die. -/
def foundB (s : State) (j : Job) : Bool :=
  s.jobs.find? (·.k == 77) == some j && j.die == 0 && j.clu == 0 && !j.stalled && s.running.contains 0 && teamB s j

theorem witness_CopyAndStackEvents_copy :
    (∀ b ∈ ([[0x40, 0, 0, 5, 0, 0, 0, 0, 1, 4], [0xC0, 0, 0, 5, 0, 0, 0, 0, 1, 9, 5]] : List (List Nat)), let d := b.map (BitVec.ofNat 32)
      let v := dw d (9 + (if (dw d 0).getLsbD 7 then 1 else 0))
      (v.toNat < (dw d 3).toNat ↔ (dw d 0).getLsbD 7 = false)) ∧ fld (dw (copyJob false 0 none).d.desc 0) 6 3 = 1 ∧
    (∀ rd ∈ [false, true], foundB (working (copyJob rd 0 none)) (copyJob rd 0 none) = true ∧ (copyJob rd 0 none).done < (copyJob rd 0 none).d.n ∧
      (copyJob rd 0 none).done + 1 = (copyJob rd 0 none).d.n ∧ (copyJob rd 0 none).d.eng = .copy ∧ (dw (copyJob rd 0 none).d.desc 0).getLsbD 16 = false ∧
      (working (copyJob rd 0 none)).jobFree copyAreas (copyJob rd 0 none) = true ∧
      ((State.copyBatch 77 (!rd) 20 (working (copyJob rd 0 none))).job? 77).any (fun y => y.fault.isNone && !y.stalled && y.row + 1 == (if rd then 2 else 1)) = true) ∧
    (∀ x ∈ [none, some (0x0B, 0)], foundB (working (copyJob true 1 x)) (copyJob true 1 x) = true ∧ (copyJob true 1 x).done = (copyJob true 1 x).d.n ∧ (copyJob true 1 x).fault = x) ∧
    (let j := copyJob true 0 none 0x110 [0x10000, 0, 0, 4]
     foundB (working j) j = true ∧ j.d.op = 0x110 ∧ (dw j.d.desc 0).getLsbD 16 = true ∧ (working j).jobFree copyAreas j = true) ∧
    ∃ t : Team, t.ccQ = [⟨7, 1, 3, [[], []], []⟩] ∧ [([] : List Nat), []].length < 3 := by
  refine ⟨by decide, by decide, by decide +kernel, by decide +kernel, by decide +kernel,
    ⟨{ Team.fresh 0 0#12 0 0 with ccQ := [⟨7, 1, 3, [[], []], []⟩] }, rfl, by decide⟩⟩

/-- A sector reduction whose source is at an address. -/
def stackJob (src : Nat) (rd : Bool) (data : List (List Byte)) (fault : Option (Nat × Nat)) : Job :=
  jobOf .stack 0x131 [0, 0x40000, 0, src, 0] rd fun j => { j with data := data, fault := fault }

/-- Pages that may not be read. -/
def unreadable (s : State) : State := { s with mem := [(0, 1#8), (1, 16#8), (4096, 0x1B#8)] }

/-- Pages that hold compressed bytes, one of which is being expanded. -/
def compressed (s : State) : State := { s with mem := [(0, 1#8), (1, 16#8), (4096, 0x1F#8), (4097, 0x40#8)], expands := [⟨9, 0#12, 0x200#54, 0#57, 256⟩] }

theorem witness_CopyAndStackEvents_stack :
    (let s := working (stackJob 0x80000 false [] none)
     foundB s (stackJob 0x80000 false [] none) = true ∧ (State.stackReads (stackJob 0x80000 false [] none) 1 0 s).2.2.2 = none ∧ stackUnits (stackJob 0x80000 false [] none) = 1) ∧
    (let s := working (stackJob 0x80000 false [] none) unreadable
     foundB s (stackJob 0x80000 false [] none) = true ∧ ∃ c, (State.stackReads (stackJob 0x80000 false [] none) 1 0 s).2.2.2 = some (.fault c)) ∧
    (∀ x ∈ [none, some (0x0B, 0)], let j := stackJob 0x80000 true [List.replicate 32 1#8] x
      foundB (working j) j = true ∧ (j.rd = true ∨ j.fault.isSome = true) ∧ [0].Perm ((List.range j.data.length).filter fun q => !j.units.contains q) ∧
      (State.stackApplies j [0] (working j)).2.2.2.2 = none) ∧
    (List.replicate 32 0#8 : List Byte).length = 32 ∧
    (let s := demo (.nop r0) [] compressed
     ∃ e c a, s.expands.find? (·.k == 9) = some e ∧ s.ctx? e.ctx = some c ∧ leafEntryFrom s.mem e.va.toNat c.root.toNat 3 = some a ∧
      pteFrame (BitVec.ofNat 64 (s.physNat a 8)) = e.frame.toNat ∧ (BitVec.ofNat 64 (s.physNat a 8)).getLsbD 14 = true) := by
  refine ⟨by decide +kernel, ⟨by decide +kernel, 7, by decide +kernel⟩, by decide +kernel, by decide, ⟨⟨9, 0#12, 0x200#54, 0#57, 256⟩, _, 4096, by decide +kernel, rfl, by decide +kernel, by decide +kernel, by decide +kernel⟩⟩

/-! ### Spawns, launches and waits on counters -/

/-- The wave as a message handler's. -/
def handling1 (s : State) : State := { s with waves := s.waves.map fun w => { w with handler := true } }

/-- The wave as its team's leader, and when it is not. -/
def leads (s : State) : State := { s with teams := s.teams.map fun t => { t with lead := ((s.waves.head?.bind (·.lanes.head?)).map (·.uid)).getD 0 } }
def follower (s : State) : State := { s with teams := s.teams.map fun t => { t with lead := 0xFFFF } }

/-- The demo's team with a full pending-launch queue. -/
def queued (s : State) : State := { s with teams := s.teams.map fun t => { t with launchq := List.replicate 4 ⟨9, .die 0, aPush, false, false, none⟩ } }

/-- The context is being torn down. -/
def torn (s : State) : State := { s with ctxs := s.ctxs.map fun c => { c with st := .teardown } }

/-- SPAWN and SPAWN.DEP: 0 a gateway core, 1 a block that is not in order, 2 a handler, 3 its own cluster, 4 another bearing. -/
def spawnCase (v : View) (b : List Word) (legal : Bool) : Nat :=
  if v.w.gw then 0 else if !legal then 1 else if v.w.handler then 2 else if fld (dw b 0) 0 4 = 9 then 3 else 4

def spawnLegal (b : List Word) : Bool := ctlLegal (dw b 0) && entryLegal (dw b 1) (dw b 2) && footLegal (dw b 3)
def depLegal (b : List Word) : Bool :=
  ctlLegal (dw b 0) && entryLegal (dw b 4) (dw b 5) && footLegal (dw b 6) && decide ((dw b 2).toNat < 65536) && decide (0 < (dw b 3).toInt)

def BlockMeets (i : EFmt → Instr) (sl : EFmt → Slot) (blk : List Nat) (g : State → State) (p : State → View → List Word → Bool) : Prop :=
  let s := blockDemo i blk g
  Issues s (vw s) (sl (eF blk.length)) ∧ p s (vw s) ((vw s).block (eF blk.length)) = true

theorem blockMeets_of {i : EFmt → Instr} {sl : EFmt → Slot} {blk : List Nat} {g : State → State} {p : State → View → List Word → Bool}
    (h : (issuesB (blockDemo i blk g) (sl (eF blk.length)) && p (blockDemo i blk g) (vw (blockDemo i blk g))
      ((vw (blockDemo i blk g)).block (eF blk.length))) = true) : BlockMeets i sl blk g p := by
  simp only [Bool.and_eq_true] at h
  exact ⟨issues_of h.1, h.2⟩

def spawns : List (List Nat × (State → State) × Nat) := [([9, 4, 0, 0, 0], onGateway, 0), ([11, 4, 0, 0, 0], id, 1), ([9, 4, 0, 0x10000000, 0], id, 1),
  ([9, 4, 0, 0, 0], handling1, 2), ([9, 4, 0, 0, 0], id, 3), ([7, 4, 0, 0, 0, 1, 2, 3, 4, 5, 6], id, 4), ([8, 4, 0, 0, 0], id, 4), ([10, 4, 0, 0, 0], id, 4)]

def carriers : List (List Nat × (State → State) × Nat) := [([9, 1, 0, 1, 4, 0, 0, 0], onGateway, 0), ([9, 1, 0, 0, 4, 0, 0, 0], id, 1), ([9, 1, 65536, 1, 4, 0, 0, 0], id, 1),
  ([9, 1, 0, 1, 4, 0, 0, 0], handling1, 2), ([9, 1, 65535, 0x7FFFFFFF, 4, 0, 0, 0], id, 3), ([7, 1, 0, 1, 4, 0, 0, 0, 0, 0, 0, 0, 0, 0], id, 4)]

/-- LAUNCH: what stops it in order, 7 and on where it takes an entry or finds the queue full: no address, one above the range, or one in memory. -/
def launchCase (s : State) (v : View) (b : List Word) : Nat :=
  let p := b.drop 1
  let caddr : DWord := dw p 9 ++ dw p 8
  if v.w.gw then 0 else if !(ctlLegal (dw b 0) && launchLegal p) then 1 else if caddr.toNat % 4 ≠ 0 then 2 else if tooLarge (dw p 2) (fld (dw p 7) 0 5 + 1) then 3
  else if v.w.handler || v.w.depth == 10#4 then 4 else if !v.w.leader s then 5 else if s.ctxDead v.w.ctx then 6 else if caddr = 0#64 then 7
  else if 0x3F000000000000 ≤ caddr.toNat then 8
  else match s.translate v.w.die v.w.ctx caddr.toNat with
    | (u, .leaf _ pte) => if (u.ctx? v.w.ctx).any fun c => permits c .atomic (pte.extractLsb' 0 17) then 9 else 10
    | _ => 11

/-- A launch record's block: word 0 of its payload, FOOT, P7 and the completion address. -/
def launchBlk (e foot p7 lo hi : Nat) : List Nat := [9, e, 0, foot, 0, 1, 1, 1, p7, lo, hi, 0, 0]

def deep (s : State) : State := { s with waves := s.waves.map fun w => { w with depth := 10#4 } }

def launches : List (List Nat × (State → State) × Nat) := [(launchBlk 4 0 0 0 0, onGateway, 0), (launchBlk 2 0 0 0 0, id, 1), (launchBlk 4 0 0 6 0, id, 2),
  (launchBlk 4 3 8 0 0, id, 3), (launchBlk 4 0 0 0 0, handling1, 4), (launchBlk 4 0 0 0 0, deep, 4), (launchBlk 4 0 0 0 0, follower, 5), (launchBlk 4 0 0 0 0, torn, 6),
  (launchBlk 4 3 7 0 0, id, 7), (launchBlk 4 0 0 0 0, queued, 7), (launchBlk 4 0 0 0 0x3F0000, id, 8), (launchBlk 4 0 0 0x40000 0, paged, 9),
  (launchBlk 4 0 0 0x40000 0, unreadable, 10)]

theorem witness_SpawnsAndLaunches :
    (∀ e ∈ spawns, BlockMeets .spawn (fun f => slotPush 0x120 f 5 11) e.1 e.2.1 fun _ v b => spawnCase v b (spawnLegal b) == e.2.2) ∧
    (∀ e ∈ carriers, BlockMeets .spawnDep (fun f => slotPush 0x121 f 8 14) e.1 e.2.1 fun _ v b => spawnCase v b (depLegal b) == e.2.2) ∧
    (∀ o ∈ ([(0x122, .launch), (0x123, .launchNb)] : List (Nat × (EFmt → Instr))), ∀ e ∈ launches,
      BlockMeets o.2 (fun f => slotPush o.1 f 13 13) e.1 (fun s => e.2.1 (leads s)) fun s v b => (s.team? v.w.team).isSome && launchCase s v b == e.2.2) ∧
    (let s := demo (.nop r0) [] queued
     ∃ t q, s.team? State.reset.uid = some t ∧ t.launchq.find? (fun e => !e.sent) = some q ∧ (∀ x ∈ t.launchq.takeWhile (·.sent), x.arrived = true) ∧ s.running.contains t.die = true) := by
  refine ⟨fun e he => blockMeets_of ?_, fun e he => blockMeets_of ?_, fun o ho e he => blockMeets_of ?_, ?_⟩
  · simp only [spawns, List.mem_cons, List.not_mem_nil, or_false] at he
    rcases he with rfl | rfl | rfl | rfl | rfl | rfl | rfl | rfl <;> decide +kernel
  · simp only [carriers, List.mem_cons, List.not_mem_nil, or_false] at he
    rcases he with rfl | rfl | rfl | rfl | rfl | rfl <;> decide +kernel
  · simp only [List.mem_cons, List.not_mem_nil, or_false] at ho
    simp only [launches, List.mem_cons, List.not_mem_nil, or_false] at he
    rcases ho with rfl | rfl <;> rcases he with rfl | rfl | rfl | rfl | rfl | rfl | rfl | rfl | rfl | rfl | rfl | rfl | rfl <;> decide +kernel
  · have h : ((demo (.nop r0) [] queued).team? State.reset.uid).any (fun t => (t.launchq.takeWhile (·.sent)).all (·.arrived) && (t.launchq.find? fun e => !e.sent).isSome &&
        (demo (.nop r0) [] queued).running.contains t.die) = true := by decide +kernel
    obtain ⟨t, ht, h⟩ := Option.any_eq_true _ _ |>.mp h
    simp only [Bool.and_eq_true, List.all_eq_true] at h
    obtain ⟨q, hq⟩ := Option.isSome_iff_exists.mp h.1.2
    exact ⟨t, q, ht, hq, h.1.1, h.2⟩

/-- CWAIT or CQRY of the pair g3 : g2; the kind of CQRY in g4. -/
def pairF (b : Nat) : RFmt := ⟨9#6, false, false, .reg 2#6, .inl (BitVec.ofNat 5 b)⟩
def cwF : RFmt := ⟨9#6, false, false, .reg 2#6, .reg 0#6⟩
def cwDemo (hi lo : Nat) (g : State → State) : State := demo (.cwait cwF) [(2, ⟨BitVec.ofNat 32 lo, .addr⟩), (3, ⟨BitVec.ofNat 32 hi, .addr⟩)] g
def cqDemo (i : RFmt) (a : Nat) (g : State → State) : State := demo (.cqry i) [(2, ⟨BitVec.ofNat 32 a, .addr⟩), (3, ⟨0#32, .addr⟩)] g

/-- A word that reads 1 in memory, at 0x40000. -/
def counted (s : State) : State := { paged s with mem := (paged s).mem ++ [(0x40000, 1#8)] }
def brokenWait (s : State) : State := { s with waves := s.waves.map fun w => { w with thr := { w.thr with broken := true } } }

/-- CWAIT: 0 broken, 1 the queue is not empty, 2 the range, 3 the alignment, 4 the word reads 0, 5 it does not. -/
def cwCase (s' : State) (v : View) (a : DWord) : Nat :=
  if v.thr.broken then 0 else if !s'.queueEmpty v.w then 1 else if 0x3F000000000000 ≤ a.toNat then 2 else if a.toNat % 4 ≠ 0 then 3
  else match s'.wordAt v a with
    | (u, .ok t _) => match (u.readTarget v v.low .coherent 4 t).2 with | some l => if l.length ≠ 4 then 6 else if wordAt l 0 = 0#32 then 4 else 5 | none => 7
    | _ => 8

/-- The demo's team as a grid's, with that grid. -/
def inGrid (s : State) : State :=
  { s with
    teams := s.teams.map fun t => { t with grid := some 40 }
    grids := [⟨40, 0#12, 3, none, 1#2, 0, 0#54, false, none, 0#4, [], [], false, false, false, false, false, 0#32, 0⟩] }

theorem witness_CounterWaits_cwait :
    (∀ e ∈ ([(0, 0, brokenWait, 0), (0, 0, fun s => queued (leads s), 1), (0x3F0000, 0, id, 2), (0x3EFFFF, 0xFFFFFFFE, id, 3), (0, 0x40000, paged, 4), (0, 0x40000, counted, 5)] :
        List (Nat × Nat × (State → State) × Nat)),
      ∃ v s' pa pb x, Reads (cwDemo e.1 e.2.1 e.2.2.1) v (slotPair 0x124 cwF) s' pa pb x ∧ (∀ y ∈ ([] : List Src), x.readable true y) ∧
        (x.reg 2).tag = .addr ∧ (x.reg 3).tag = .addr ∧ cwCase s' v ((x.reg 3).bits ++ (x.reg 2).bits) = e.2.2.2) ∧
    (∀ e ∈ ([(fun s => s, 4), (counted, 5)] : List ((State → State) × Nat)),
      ∃ v s' pa pb x, Reads (cqDemo (pairF 0) 0x40000 fun s => e.1 (paged s)) v (cqrySlot (pairF 0)) s' pa pb x ∧ (∀ y ∈ [Src.inl 0#5], x.readable true y) ∧
        x.bits .i32 pb (.inl 0#5) = 0#32 ∧ (x.reg 2).tag = .addr ∧ (x.reg 3).tag = .addr ∧ regLegal v.w 3 = true ∧ cwCase s' v ((x.reg 3).bits ++ (x.reg 2).bits) = e.2) := by
  refine ⟨fun e he => reads_of ?_, fun e he => reads_of ?_⟩
  · simp only [List.mem_cons, List.not_mem_nil, or_false] at he
    rcases he with rfl | rfl | rfl | rfl | rfl | rfl <;> decide +kernel
  · simp only [List.mem_cons, List.not_mem_nil, or_false] at he
    rcases he with rfl | rfl <;> decide +kernel

/-- The base registers of the demo's wave. -/
def narrow (n : Nat) (s : State) : State := { s with waves := s.waves.map fun w => { w with bregs := n } }

theorem witness_CounterWaits_others :
    (∃ v s' pa pb x, Reads (demo (.cqry ⟨1#6, false, false, .reg 30#6, .reg 4#6⟩) [(30, ⟨0#32, .addr⟩), (31, ⟨0#32, .addr⟩), (4, ⟨0#32, .i32⟩)] (narrow 31)) v
      (cqrySlot ⟨1#6, false, false, .reg 30#6, .reg 4#6⟩) s' pa pb x ∧ (∀ y ∈ [Src.reg 4#6], x.readable true y) ∧ x.bits .i32 pb (.reg 4#6) = 0#32 ∧
      (x.reg 30).tag = .addr ∧ (x.reg 31).tag = .addr ∧ regLegal v.w 31 = false) ∧
    (∀ b ∈ [1, 2, 3, 4], ∃ v s' a c, ReadsAB (demo (.cqry (rf 0x125)) [(1, ⟨0#32, .i32⟩), (2, ⟨BitVec.ofNat 32 b, .i32⟩)] inGrid) v (cqrySlot (rf 0x125)) (rf 0x125) s' a c ∧
      a = 0#32 ∧ c = BitVec.ofNat 32 b ∧ (s'.team? v.w.team).any (fun t => t.grid == some 40 && s'.grids.any (·.uid == 40)) = true) ∧
    (∀ e ∈ ([(256, 0), (255, 1), (255, 0)] : List (Nat × Nat)), ABMeets 0x126 .nwait e.1 e.2 id fun v s' a b =>
      (if 255 < a.toNat then 256 else 255) = e.1 ∧ ((s'.notifyReg v.w.ctx 255).extractLsb' 0 32 = b ↔ e.2 = 0) ∧ (s'.team? v.w.team).isSome = true) ∧
    ∀ e ∈ ([(0, onGateway, 0), (4, id, 0), (3, inCtx 5#12, 1), (3, id, 2), (0, inGrid, 3), (3, inGrid, 3)] : List (Nat × (State → State) × Nat)),
      ∃ v s' pa pb x, Reads (demo (.prio (rf 0x127)) [(1, ⟨BitVec.ofNat 32 e.1, .i32⟩)] e.2.1) v (slotR 0x127 (rf 0x127)) s' pa pb x ∧
        (∀ y ∈ [Src.reg 1#6], x.readable true y) ∧
        (if v.w.gw ∨ 3 < (x.bits .i32 pa (.reg 1#6)).toNat then 0 else if x.bits .i32 pa (.reg 1#6) = 3#32 ∧ v.w.ctx ≠ 0#12 then 1
          else if (s'.team? v.w.team).any fun t => t.grid.isSome then 3 else 2) = e.2.2 := by
  refine ⟨reads_of (by decide +kernel), fun b hb => readsAB_of ?_, fun e he => readsAB_of ?_, fun e he => reads_of ?_⟩
  · revert b; decide +kernel
  · revert e; decide +kernel
  · simp only [List.mem_cons, List.not_mem_nil, or_false] at he
    rcases he with rfl | rfl | rfl | rfl | rfl | rfl <;> decide +kernel

/-! ### Gateway cores, links and energy -/

/-- BADD of the blocks at g0 and g16, of width 2. -/
def baddF : RFmt := ⟨0#6, false, false, .reg 16#6, .reg 0#6⟩
def baddDemo (g : State → State) : State :=
  demo (.badd baddF) [(0, ⟨0x20005#32, .i32⟩), (1, ⟨1#32, .i32⟩), (2, ⟨0#32, .i32⟩), (16, ⟨0x20003#32, .i32⟩), (17, ⟨7#32, .f32⟩), (18, ⟨9#32, .i32⟩)] fun s => g (onGateway s)

/-- A load into a register stands outstanding. -/
def pending (r : Nat) (s : State) : State := { s with waves := s.waves.map fun w => { w with thr := { w.thr with ops := [⟨1, 0#4, .load, [], [], [r], [], []⟩] } } }

def baddWaits (s : State) : Bool := (vw s).thr.pends ((List.range (fld ((ln s 0).reg 0).bits 16 4 + 1)).flatMap fun k => [k, 16 + k])

theorem witness_GatewayBlocks :
    (∀ n ∈ [2, 8], ∀ x ∈ [-(2 ^ (n - 1)), 2 ^ (n - 1) - 1], let b : Block := ⟨510, List.replicate 32 x⟩
      b.e < 512 ∧ b.m.length = 32 ∧ ∀ y ∈ b.m, -(2 ^ (n - 1)) ≤ y ∧ y < 2 ^ (n - 1)) ∧
    (∀ e ∈ ([(id, false), (pending 1, true), (pending 18, true)] : List ((State → State) × Bool)),
      Issues (baddDemo e.1) (vw (baddDemo e.1)) (slotR 0x140 baddF) ∧ (vw (baddDemo e.1)).w.lanes[(vw (baddDemo e.1)).low]? = some (ln (baddDemo e.1) 0) ∧ baddWaits (baddDemo e.1) = e.2) ∧
    Meets (baddDemo id) (slotR 0x140 baddF) fun x => let h := (x.reg 0).bits
      2 ≤ fld h 16 4 ∧ fld h 16 4 ≤ 8 ∧ only h 0xF01FF#32 = true ∧ ∀ k ≤ fld h 16 4, k < 8 ∧ 16 + k < 24 ∧ (x.reg k).tag ≠ .none ∧ (x.reg (16 + k)).tag ≠ .none := by
  refine ⟨by decide, fun e he => ?_, meets_of (ok := fun x => decide (fld (x.reg 0).bits 16 4 = 2) && only (x.reg 0).bits 0xF01FF#32 &&
    (List.range 3).all fun k => (x.reg k).tag != .none && (x.reg (16 + k)).tag != .none) (fun x h => ?_) (by decide +kernel)⟩
  · simp only [List.mem_cons, List.not_mem_nil, or_false] at he
    rcases he with rfl | rfl | rfl <;> exact ⟨issues_of (by decide +kernel), by decide +kernel, by decide +kernel⟩
  · simp only [Bool.and_eq_true, decide_eq_true_eq, List.all_eq_true, List.mem_range, bne_iff_ne] at h
    exact ⟨by omega, by omega, h.1.2, fun k hk => ⟨by omega, by omega, h.2 k (by omega)⟩⟩

/-- BQPOP of the mode in g1 into g16 to g31, in a wave of a gateway core with some blocks held. -/
def bqF : RFmt := ⟨16#6, false, false, .reg 1#6, .reg 0#6⟩
def bqSlot : Slot := slotR 0x141 bqF ((List.range 16).map (16 + ·))

/-- A block for gateway core 0 in the die's queue. -/
def blocked (s : State) : State := (s.arrive (.die 0) { aPush with key := 0x800000000000#48 }).1

/-- BQPOP: 0 refused, 1 no block, 2 a block. -/
def bqCase (s' : State) (v : View) (x : Lane) (a : Word) : Nat :=
  let end1 := if a.getLsbD 1 then s' else (s'.completeRec fun r => match r.taker with | .gateway w _ => w == v.w.uid | _ => false).modLane v.w.uid 0 fun y => { y with held := [] }
  if !(decide (a.toNat < 4) && (!a.getLsbD 1 || decide (x.held.length < 16))) then 0
  else if ((end1.ring (.die v.w.die)).select fun r => r.cls == 8#4 && r.ctx == v.w.ctx && r.key.getLsbD 47 && (r.key.extractLsb' 0 32).toNat % 4 == v.w.clu).isSome then 2 else 1

/-- Two ports of die 0 in some states, towards package 7. -/
def linked (a b : BitVec 2) (s : State) : State :=
  (({ s with domain := [7#12] } : State).portChange 0 0 fun t => { t with st := a, peer := 7#12 }).portChange 0 1 fun t => { t with st := b, peer := 7#12 }

/-- Some pushes of the core over a link stand outstanding; its last left over port 1. -/
def outgoing (n : Nat) (s : State) : State :=
  { s with flights := (List.range n).map fun k => { aFlight (.die 0) aPush with k := 600 + k, src := some (⟨State.reset.uid + 1, none⟩, [0]), pipe := some ⟨0, true, 0, 0⟩, link := some 1 },
           pipes := [(⟨0, true, 0, 0⟩, { Pipe.reset with lastPort := some 1 })] }

/-- LSND: 0 a block not in order, 1 a status, 2 its own package, 3 that with 16 outstanding, 4 no port is UP, 5 its own port, 6 the other, 7 it waits. -/
def lsndCase (s : State) (v : View) (b : List Word) : Nat :=
  let core := v.w.pipeOf 0
  let out := (s.flights.filter fun x => x.link.isSome && x.pipe == some core && x.src.isSome).length
  let isUp (p : Nat) : Bool := (s.tildor v.w.die p).st == 2#2 && !s.fenced.contains (s.tildor v.w.die p).peer
  if !(destLegal (dw b 0) && descLegal [8#4] (dw b 2) (dw b 3) && !(dw b 2).getLsbD 27) then 0
  else match sendBy s (dw b 0) (pushOf s v.w 0 v.w.ctx (dw b 1) (dw b 2) (dw b 3) (b.drop 4)) with
    | .status _ => 1
    | .push _ _ none => if 16 ≤ out then 3 else 2
    | .push _ _ (some _) =>
      if !isUp 0 && !isUp 1 then 4
      else let link := if isUp 0 then 0 else 1
        if 16 ≤ out || ((s.pipe core).lastPort.any (· != link) && out != 0) then 7 else 5 + link

def lsnds : List (List Nat × (State → State) × Nat) := [([0x70000, 0, 0x8080000, 0], id, 0), ([0x70000, 0, 0x80000, 0], id, 1), ([0, 0, 0x80000, 0], id, 2),
  ([0, 0, 0x80000, 0], outgoing 16, 3), ([0, 0, 0x80000, 0], outgoing 15, 2), ([0x70000, 0, 0x80000, 0], linked 1#2 3#2, 4), ([0x70000, 0, 0x80000, 0], linked 2#2 2#2, 5),
  ([0x70000, 0, 0x80000, 0], linked 1#2 2#2, 6), ([0x70000, 0, 0x80000, 0], fun s => outgoing 1 (linked 2#2 2#2 s), 7), ([0x70000, 0, 0x80000, 0], fun s => outgoing 1 (linked 1#2 2#2 s), 6),
  ([0x70000, 0, 0x80000, 0], fun s => outgoing 16 (linked 1#2 2#2 s), 7)]

def lstatF : RFmt := ⟨3#6, false, false, .reg 1#6, .reg 0#6⟩

theorem witness_GatewayQueueAndLinks :
    (∀ e ∈ ([(4, id, 0, 0), (2, id, 16, 0), (0, id, 16, 1), (1, id, 0, 1), (3, id, 15, 1), (0, blocked, 0, 2), (3, blocked, 15, 2)] : List (Nat × (State → State) × Nat × Nat)),
      ∃ v s' pa pb x, Reads (demo (.bqpop bqF) [(1, ⟨BitVec.ofNat 32 e.1, .i32⟩)] (fun s => e.2.1 (onGateway s)) fun l => { l with held := List.range e.2.2.1 }) v bqSlot s' pa pb x ∧
        (∀ y ∈ [Src.reg 1#6], x.readable true y) ∧ v.lane = none ∧ v.low = 0 ∧ bqCase s' v x (x.bits .i32 pa (.reg 1#6)) = e.2.2.2) ∧
    (∀ e ∈ lsnds, BlockMeets .lsnd (fun f => slotPush 0x142 f 4 16) e.1 (fun s => e.2.1 (onGateway s)) fun s v b => lsndCase s v b == e.2.2) ∧
    ∀ e ∈ ([(8, 0), (0x70000, 0), (1, 1), (0, 1), (2, 1), (4, 1), (0x0FFF0006, 1), (0x70007, 1)] : List (Nat × Nat)),
      ∃ v s' pa pb x, Reads (demo (.lstat lstatF) [(1, ⟨BitVec.ofNat 32 e.1, .i32⟩)] fun s => linked 2#2 3#2 (onGateway s)) v (slotR 0x143 lstatF) s' pa pb x ∧
        (∀ y ∈ [Src.reg 1#6], x.readable true y) ∧
        (let a := x.bits .i32 pa (.reg 1#6); (only a 0x0FFF0007#32 = true ∧ (fld a 1 2 ≠ 3 → a.extractLsb' 16 12 = 0#12)) ↔ e.2 = 1) := by
  refine ⟨fun e he => reads_of ?_, fun e he => blockMeets_of ?_, fun e he => reads_of ?_⟩
  · simp only [List.mem_cons, List.not_mem_nil, or_false] at he
    rcases he with rfl | rfl | rfl | rfl | rfl | rfl | rfl <;> decide +kernel
  · simp only [lsnds, List.mem_cons, List.not_mem_nil, or_false] at he
    rcases he with rfl | rfl | rfl | rfl | rfl | rfl | rfl | rfl | rfl | rfl | rfl <;> decide +kernel
  · simp only [List.mem_cons, List.not_mem_nil, or_false] at he
    rcases he with rfl | rfl | rfl | rfl | rfl | rfl | rfl | rfl <;> decide +kernel

/-- An energy instruction into a register on its operand in g1. -/
def enF (d : Nat) : RFmt := ⟨BitVec.ofNat 6 d, false, false, .reg 1#6, .reg 0#6⟩
def enDemo (i : RFmt → Instr) (d a : Nat) (g : State → State) : State := demo (i (enF d)) [(1, ⟨BitVec.ofNat 32 a, .i32⟩)] g

/-- The die's allowance, with part of it reserved by the team. -/
def reserving (k : Nat) (s : State) : State := { s with teams := s.teams.map fun t => { t with rsv := k } }

/-- ENRSV: 0 nothing asked, 1 above the allowance, 2 above what remains, 3 reserved. -/
def rsvCase (s' : State) (v : View) (a : Nat) : Nat :=
  if a = 0 then 0 else if (s'.die v.w.die).allowance < a then 1 else if s'.remaining v.w.die < a then 2 else 3

theorem witness_EnergyInstructions :
    (∀ e ∈ ([(4, 0, true), (4, 9, true), (4, 10, false), (3, 8, false)] : List (Nat × Nat × Bool)),
      ∃ v s' pa pb x, Reads (enDemo .enrd e.1 e.2.1 id) v { slotR 0x150 (enF e.1) with waits := [(enF e.1).d.toNat + 1] } s' pa pb x ∧ (∀ y ∈ [Src.reg 1#6], x.readable true y) ∧
        decide ((x.bits .i32 pa (.reg 1#6)).toNat ≤ 9 ∧ (enF e.1).d.toNat % 2 = 0 ∧ regLegal v.w ((enF e.1).d.toNat + 1) = true ∧ (enF e.1).hd = false) = e.2.2) ∧
    (∀ e ∈ ([(0, 0, 0), (446201, 0, 1), (446200, 1, 2), (446200, 0, 3), (1, 446199, 3)] : List (Nat × Nat × Nat)),
      ∃ v s' pa pb x, Reads (enDemo .enrsv 3 e.1 (reserving e.2.1)) v (slotR 0x151 (enF 3)) s' pa pb x ∧ (∀ y ∈ [Src.reg 1#6], x.readable true y) ∧
        rsvCase s' v (x.bits .i32 pa (.reg 1#6)).toNat = e.2.2 ∧ (s'.teams.filter (·.uid == v.w.team)).length = 1 ∧ (s'.team? v.w.team).any (fun t => t.die == v.w.die) = true) ∧
    (∃ v s' pa pb x, Reads (enDemo .enrel 3 9 (reserving 4)) v (slotR 0x152 (enF 3)) s' pa pb x ∧ (∀ y ∈ [Src.reg 1#6], x.readable true y) ∧ (s'.team? v.w.team).isSome = true) ∧
    ∀ a ∈ [0, 1, 2, 3, 4, 5], ∃ v s' pa pb x, Reads (enDemo .enqry 3 a id) v (slotR 0x153 (enF 3)) s' pa pb x ∧ (∀ y ∈ [Src.reg 1#6], x.readable true y) ∧
      (x.bits .i32 pa (.reg 1#6)).toNat = a ∧ (s'.team? v.w.team).isSome = true := by
  refine ⟨fun e he => reads_of ?_, fun e he => reads_of ?_, reads_of (by decide +kernel), fun a ha => reads_of ?_⟩
  · simp only [List.mem_cons, List.not_mem_nil, or_false] at he
    rcases he with rfl | rfl | rfl | rfl <;> decide +kernel
  · simp only [List.mem_cons, List.not_mem_nil, or_false] at he
    rcases he with rfl | rfl | rfl | rfl | rfl <;> decide +kernel
  · simp only [List.mem_cons, List.not_mem_nil, or_false] at ha
    rcases ha with rfl | rfl | rfl | rfl | rfl | rfl <;> decide +kernel

/-- A record with the operator BADD at cluster 0's keyring, of a block of width `n`. -/
def foldPush (n e : Nat) : Push := { aPush with op := 12#4, words := BitVec.ofNat 32 (e + n * 65536) :: List.replicate 11 0x55555555#32 }
def folding (n : Nat) : State := (State.reset.arrive (.cluster 0 0) (foldPush n 3)).1

theorem witness_GatewayBlocks_operands :
    (∀ f ∈ [{ baddF with hd := true }, { baddF with a := .inl 3#5 }], Checked (onGateway (demo (.badd f) [])) (vw (onGateway (demo (.badd f) []))) (slotR 0x140 f [] true) .illfld) ∧
    (∀ e ∈ ([(2, 2), (8, 8), (2, 3), (1, 1), (9, 9)] : List (Nat × Nat)), ((folding e.1).ring (.cluster 0 0)).recs.any (fun r =>
      !r.latched && !r.dispatched && r.ctx == aPush.ctx && r.cls == aPush.cls && r.key == aPush.key && r.op == (foldPush e.2 7).op && fld (dw r.payload 0) 16 4 == e.1) = true) ∧
    (List.replicate 10 (1#8) : List Byte).length = 4 * (0 + 2) + 2 := by
  refine ⟨fun f hf => checked_of ?_, by decide +kernel, by decide⟩
  revert f; decide +kernel

theorem witness_GatewayQueueAndLinks_operands :
    (∀ f ∈ [{ bqF with d := 17#6 }, { bqF with nw := true }, { bqF with hd := true }], Checked (onGateway (demo (.bqpop f) [])) (vw (onGateway (demo (.bqpop f) [])))
      (slotR 0x141 f ((List.range 16).map (f.d.toNat + ·)) true) .illfld) ∧
    ∀ f ∈ [{ lstatF with nw := true }, { lstatF with hd := true }], Checked (onGateway (demo (.lstat f) [])) (vw (onGateway (demo (.lstat f) []))) (slotR 0x143 f [] true) .illfld := by
  refine ⟨fun f hf => checked_of ?_, fun f hf => checked_of ?_⟩ <;> revert f <;> decide +kernel

/-! ### The hub's harts and words -/

/-- Hart 0 in a mode with a configuration and two registers, about to perform a hub word. -/
def aHart (md : HartMode) (cfg : Nat) (a b : Nat) : Hart :=
  { Hart.reset with mode := md, hcfg := BitVec.ofNat 3 cfg, hctx := 0#12, regs := (Hart.reset.regs.setIfInBounds 1 (BitVec.ofNat 64 a)).setIfInBounds 2 (BitVec.ofNat 64 b) }
/-- The device once its images run (15_sextant R451). -/
def booted (s : State) : State := { s with hubUp := true, map2 := true, map1 := true }
def harted (x : Hart) (g : State → State := id) : State := g { booted State.reset with harts := [(0, x)], curHart := some 0 }

theorem runs_of {x : Hart} {g : State → State} (h : ((harted x g).curHart == some 0 && (harted x g).hart 0 == x) = true) : HartRuns (harted x g) 0 x := by
  simp only [Bool.and_eq_true, beq_iff_eq] at h
  exact ⟨h.1, h.2⟩

def upperB (x : Hart) : Bool := x.mode == .m || x.mode == .hs
def hF : HFmt := ⟨10#5, 1#5, 2#5⟩

/-- NSET and NGET: 0 denied, 1 a dead context, 2 performed. -/
def notifyCase (s : State) (x : Hart) (o : DWord) : Nat :=
  if !(decide (o.toNat < 2 ^ 20) && (upperB x || (x.hcfg.getLsbD 0 && o.extractLsb' 8 12 == x.hctx))) then 0 else if s.ctxDead (o.extractLsb' 8 12) then 1 else 2

def notifies : List (HartMode × Nat × Nat × Nat) := [(.m, 0, 2 ^ 20, 0), (.vs, 0, 5, 0), (.vu, 1, 0x105, 0), (.u, 6, 5, 0), (.hs, 0, 0x905, 1), (.m, 4, 0xFF, 2), (.vs, 1, 0, 2)]

theorem witness_NotifyAndCsrs :
    (∀ e ∈ notifies, HartRuns (harted (aHart e.1 e.2.1 e.2.2.1 7)) 0 (aHart e.1 e.2.1 e.2.2.1 7) ∧
      notifyCase (harted (aHart e.1 e.2.1 e.2.2.1 7)) (aHart e.1 e.2.1 e.2.2.1 7) ((aHart e.1 e.2.1 e.2.2.1 7).get hF.rs1) = e.2.2.2) ∧
    (State.reset.ctx? 0#12).isSome = true ∧
    ∀ md ∈ [HartMode.m, .vs], let s := harted (aHart md 0 0 0)
      s.hubUp = true ∧ (s.hart 0).exc = none ∧ 0x5C0 ≤ (0x5C4#12).toNat ∧ (0x5C0#12).toNat ≤ 0x5C4 ∧ upperB (s.hart 0) = (md == .m) := by
  refine ⟨fun e he => ⟨runs_of ?_, ?_⟩, by decide, by decide⟩ <;> revert e <;> decide

/-- A record of a class at the hub keyring, accepted. -/
def hubPush (cls : BitVec 4) (kind : Nat) : Push := { aPush with cls := cls, words := [0#32, 0#32, BitVec.ofNat 32 kind] ++ List.replicate 9 5#32, about := some ⟨3, none⟩ }
def served (cls : BitVec 4) (kind : Nat) (s : State) : State :=
  let s := (s.arrive .hub (hubPush cls kind)).1
  s.setRing .hub { s.ring .hub with recs := (s.ring .hub).recs.map fun r => { r with accepted := true } }

/-- SVCPOP: 0 denied, 1 misaligned, 2 no record or no handle, 3 a record, 4 an exception, 5 it waits. -/
def popCase (s : State) (x : Hart) (o buf : DWord) : Nat :=
  if !(decide (o.toNat < 2 ^ 32) && (upperB x || (x.hcfg.getLsbD 1 && !o.getLsbD 12 && o.extractLsb' 0 12 == x.hctx))) then 0
  else if buf.toNat % 64 ≠ 0 then 1
  else match s.hartReach 0 .write buf.toNat 64 with
    | (_, .error (.exc _ _)) => 4
    | (_, .error .wait) => 5
    | (_, .ok (.area _ _)) => 6
    | (u, .ok _) => if u.handles.length < 8192 && ((u.ring .hub).select (filtered u o)).isSome then 3 else 2

/-- Every handle is open. -/
def handlesFull (s : State) : State := let t := served 7#4 0 s
  { t with handles := (t.ring .hub).recs.flatMap fun r => List.replicate 8192 ⟨0, 0, r⟩ }

/-- A delivered record with handle slot 3 and generation 2. -/
def handed (cls : BitVec 4) (kind : Nat) (s : State) : State :=
  let s := served cls kind s
  { s with handles := ((s.ring .hub).recs.map fun r => ⟨3, 2, r⟩) }

/-- SVCDONE: 0 a stale handle, 1 denied, 2 a dead context, 3 a refused reply, 4 a service, 5 a translation, 6 another fault. -/
def doneCase (s : State) (x : Hart) (o v : DWord) : Nat :=
  match s.handles.find? fun k => o == BitVec.ofNat 64 (k.slot + k.gen * 2 ^ 13 + 2 ^ 31) with
  | none => if upperB x || x.hcfg.getLsbD 1 then 0 else 7
  | some k =>
    if !(upperB x || (x.hcfg.getLsbD 1 && k.record.ctx == x.hctx)) then 1 else if s.ctxDead k.record.ctx then 2
    else if k.record.cls == 7#4 then 4 else if k.record.cls != 9#4 then 8 else if 2 ≤ v.toNat then 3
    else if fld (dw k.record.payload 2) 0 8 = 6 then 5 else if k.record.about.isSome then 6 else 8

theorem witness_ServiceWords :
    (∀ e ∈ ([(.m, 0, 2 ^ 32, 0, id, 0), (.vs, 2, 0x7000, 0, id, 0), (.m, 0, 0x7000, 32, id, 1), (.m, 0, 0x6000, 64, id, 2), (.m, 0, 0x7000, 64, served 7#4 0, 3),
        (.hs, 4, 0x4000, 0, served 9#4 6, 3), (.m, 0, 0x4000, 0, served 7#4 0, 2), (.m, 0, 0x7000, 64, handlesFull, 2),
        (.vs, 2, 0x2000, 64, id, 4), (.m, 0, 0x7000, 2 ^ 45 - 64, id, 2), (.m, 0, 0x7000, 128, compressed, 5)] : List (HartMode × Nat × Nat × Nat × (State → State) × Nat)),
      let x := aHart e.1 e.2.1 e.2.2.1 e.2.2.2.1
      HartRuns (harted x e.2.2.2.2.1) 0 x ∧ popCase (harted x e.2.2.2.2.1) x (x.get hF.rs1) (x.get hF.rs2) = e.2.2.2.2.2) ∧
    (harted (aHart .m 0 0 0)).handles.length < 8192 ∧
    (∀ e ∈ ([(.m, 0, 3 + 3 * 2 ^ 13 + 2 ^ 31, 0, handed 7#4 0, 0), (.vs, 2, 3 + 2 * 2 ^ 13, 0, handed 7#4 0, 0), (.vs, 0, 3 + 2 * 2 ^ 13 + 2 ^ 31, 0, handed 7#4 0, 1),
        (.m, 0, 3 + 2 * 2 ^ 13 + 2 ^ 31, 0, fun s => torn (handed 7#4 0 s), 2), (.m, 0, 3 + 2 * 2 ^ 13 + 2 ^ 31, 2, handed 9#4 6, 3), (.vs, 2, 3 + 2 * 2 ^ 13 + 2 ^ 31, 9, handed 7#4 0, 4),
        (.m, 0, 3 + 2 * 2 ^ 13 + 2 ^ 31, 1, handed 9#4 6, 5), (.m, 0, 3 + 2 * 2 ^ 13 + 2 ^ 31, 1, handed 9#4 4, 6), (.m, 0, 3 + 2 * 2 ^ 13 + 2 ^ 31, 0, handed 9#4 4, 6)] :
        List (HartMode × Nat × Nat × Nat × (State → State) × Nat)),
      let x := aHart e.1 e.2.1 e.2.2.1 e.2.2.2.1
      HartRuns (harted x e.2.2.2.2.1) 0 x ∧ doneCase (harted x e.2.2.2.2.1) x (x.get hF.rs1) (x.get hF.rs2) = e.2.2.2.2.2) := by
  refine ⟨fun e he => ⟨runs_of ?_, ?_⟩, by decide, fun e he => ⟨runs_of ?_, ?_⟩⟩ <;> revert e <;>
    simp only [List.forall_mem_cons, List.not_mem_nil, false_imp_iff, implies_true, and_true] <;> decide +kernel

/-- A store of hart 0. -/
def anAccess (op : HartOp) (a n : Nat) : HartAccess := ⟨0, op, a, n, 5#5, 9#64, false, false⟩

/-- What an aperture access of a page finds: 0 no permission, 1 a key, 2 a fenced home, 3 a page. -/
def pieceCase (s : State) (x : Hart) (k : Access) : Nat :=
  match s.translate 8 0#12 0x200 with
  | (u, .leaf l p) =>
    let attr := p.extractLsb' 0 17
    let own : Ctx := { Ctx.system with rkey := Ctx.system.rkey &&& x.hrkey, wkey := Ctx.system.wkey &&& x.hwkey }
    if !attr.getLsbD (if k = .read then 2 else 3) then 0 else if !permits own k attr then 1 else if k = .write && attr.getLsbD 14 && !attr.getLsbD 15 then 6 else if u.isFenced (leafAddr l p 0x200) then 2
    else if u.frozenIn (leafAddr l p 0x200) 4 then 4 else 3
  | _ => 5

/-- A COMP page at physical address 0, which admits an expansion or does not. -/
def comped (expand : Bool) (s : State) : State := { s with mem := [(0, 1#8), (1, 16#8), (4096, 0x1F#8), (4097, if expand then 0xC0#8 else 0x40#8)] }

/-- A physical access of hart 0: 0 held, 1 made again, 2 made, 3 PROT, 4 an expansion begins. -/
def physCase (s : State) (a : HartAccess) : Nat :=
  let x := s.hart a.hart
  let pa := a.addr % 2 ^ 45 + s.pkgid.toNat * 2 ^ 45
  let q := (x.held.map (·.2)).getD pa
  if (x.held.map (·.1)).getD pa ≠ pa then 5 else if s.frozenIn q a.size then 0
  else match s.compLeaf q a.size with
    | none => if x.held.isSome then 1 else 2
    | some (_, _, pte) => if a.op = .load then 2 else if pte.getLsbD 15 then 4 else 3

def heldAt (a b : Nat) (s : State) : State := { s with harts := s.harts.map fun e => (e.1, { e.2 with held := some (a, b) }) }

theorem witness_HartAccesses :
    (∀ e ∈ ([(.m, 0, .store, 2 ^ 45 - 8, 8, id, 2), (.hs, 4, .load, 0x1000, 4, id, 2), (.m, 0, .store, 0x80, 4, compressed, 0), (.m, 0, .load, 0xFC, 8, compressed, 0),
        (.m, 0, .store, 0x80, 4, heldAt 0x80 0x90000000000, 1), (.m, 0, .store, 0x300, 1, comped false, 3), (.m, 0, .store, 0x300, 2, comped true, 4)] :
        List (HartMode × Nat × HartOp × Nat × Nat × (State → State) × Nat)),
      let s := harted (aHart e.1 e.2.1 0 0) e.2.2.2.2.2.1
      let a := anAccess e.2.2.1 e.2.2.2.1 e.2.2.2.2.1
      s.hubUp = true ∧ (s.hart 0).exc = none ∧ a.size ∈ [1, 2, 4, 8] ∧ a.addr + a.size ≤ 2 ^ 45 ∧ ((s.hart 0).mode = .m ∨ ((s.hart 0).mode = .hs ∧ (s.hart 0).hcfg.getLsbD 2 = true)) ∧
        physCase s a = e.2.2.2.2.2.2) ∧
    (∀ i < 4, (harted (aHart .hs 4 0 0)).hostByte (0x1000 + i) = ([0#8, 0#8, 0#8, 0#8] : List Byte)[i]?) ∧
    (anAccess .store (0x7FFFFFFFF00000 + 64 * 23 + 8 * 7) 8).addr = 0x7FFFFFFFF00000 + 64 * 23 + 8 * 7 ∧ (harted (aHart .m 0 0 0)).hart 0 = aHart .m 0 0 0 ∧ (aHart .m 0 0 0).held = none ∧
    (2 ^ 45 ≤ (anAccess .load (2 ^ 45) 1).addr ∧ (anAccess .store (0x7FFFFFFFF00000 - 1) 1).addr < 0x7FFFFFFFF00000) ∧
    (anAccess (.fence 1#4 2#4) 0 1).op = .fence 1#4 2#4 := by
  refine ⟨fun e he => ?_, by decide +kernel, by decide, by decide +kernel, by decide, by decide, rfl⟩
  simp only [List.mem_cons, List.not_mem_nil, or_false] at he
  rcases he with rfl | rfl | rfl | rfl | rfl | rfl | rfl <;> decide +kernel

theorem witness_HartAccesses_aperture :
    (∃ u ps, (harted (aHart .vs 0 0 0) paged).hartReach 0 .write 0x80000000000200 8 = (u, .ok (.pages ps))) ∧
    (∃ u ps l, (harted (aHart .vs 0 0 0) paged).hartReach 0 .atomic 0x80000000000200 8 = (u, .ok (.pages ps)) ∧ u.hartBytes (.pages ps) 8 = some l) ∧
    (∀ e ∈ ([(unreadable, .read, 0), (fun s => { paged s with mem := [(0, 1#8), (1, 16#8), (4096, 0x17#8)] }, .write, 0), (comped false, .write, 6),
        (fun s => { paged s with fenced := [0#12] }, .read, 2), (paged, .read, 3)] :
        List ((State → State) × Access × Nat)), pieceCase (harted (aHart .vs 0 0 0) e.1) (aHart .vs 0 0 0) e.2.1 = e.2.2) ∧
    pieceCase (harted { aHart .vs 0 0 0 with hrkey := 0#64 } paged) { aHart .vs 0 0 0 with hrkey := 0#64 } .read = 1 := by
  refine ⟨?_, ?_, ?_, by decide +kernel⟩
  · have h : (match (harted (aHart .vs 0 0 0) paged).hartReach 0 .write 0x80000000000200 8 with
      | (_, .ok (.pages _)) => true | _ => false) = true := by decide +kernel
    split at h
    · exact ⟨_, _, ‹_›⟩
    · cases h
  · have h : (match (harted (aHart .vs 0 0 0) paged).hartReach 0 .atomic 0x80000000000200 8 with
      | (u, .ok (.pages ps)) => (u.hartBytes (.pages ps) 8).isSome | _ => false) = true := by decide +kernel
    split at h
    · obtain ⟨l, hl⟩ := Option.isSome_iff_exists.mp h
      exact ⟨_, _, l, ‹_›, hl⟩
    · cases h
  · simp only [List.forall_mem_cons, List.not_mem_nil, false_imp_iff, implies_true, and_true]
    decide +kernel

/-- A hub command of hart 0. -/
def aCmd (op ctx : Nat) (l : List Nat) : HubCmd := ⟨0, ((op + ctx * 2 ^ 16 + 0x500) :: l).map (BitVec.ofNat 64) ++ List.replicate (7 - l.length) 0#64⟩

def takesB (s : State) (c : HubCmd) (op : Nat) : Bool :=
  s.hubUp && decide (c.hart < 24) && s.cmds.all (·.hart != c.hart) && ((c.dw.getD 0 0#64).extractLsb' 0 8).toNat == op && (c.dw.getD 0 0#64).extractLsb' 28 36 == 0#36

theorem cmd_of {s : State} {c : HubCmd} {op : Nat} (h : takesB s c op = true) : CmdTakes s c op := by
  simp only [takesB, Bool.and_eq_true, decide_eq_true_eq, List.all_eq_true, bne_iff_ne, beq_iff_eq] at h
  exact ⟨h.1.1.1.1, h.1.1.1.2, h.1.1.2, h.1.2, h.2⟩

/-- GWSTART: 0 no context, 1 no room, 2 it starts. -/
def startCase (s : State) (c : HubCmd) : Nat :=
  let w1 := c.dw.getD 1 0#64
  let core : PipeId := ⟨(w1.extractLsb' 0 3).toNat, true, (w1.extractLsb' 3 2).toNat, 0⟩
  if w1.getLsbD 7 || decide (2 ^ 16 ≤ w1.toNat) || decide (2 ^ 54 ≤ (c.dw.getD 2 0#64).toNat) || (c.dw.getD 2 0#64).toNat % 4 != 0 then 3
  else match s.ctx? (cmdCtx c) with
    | none => 0
    | some x => if s.ctxDead x.id || !s.running.contains (w1.extractLsb' 0 3).toNat || (s.freeSlot core).isNone then 4
      else if s.poolFree core < 8 * ((w1.extractLsb' 5 2).toNat + 1) then 1 else 2

/-- A gateway wave that leaves few registers of its core. -/
def fullCore (s : State) : State :=
  { s with waves := ((demo (.nop r0) []).waves.map fun w => { w with gw := true, bregs := 488 }) ++ s.waves }

theorem witness_HubCommands :
    (∀ e ∈ ([(aCmd 1 0 [2 ^ 18, 2 ^ 18], 1), (aCmd 1 0 [1, 2 ^ 18], 1), (aCmd 1 0 [0, 0], 1), (aCmd 10 0 [0x3F07], 10), (aCmd 10 0 [8], 10)] : List (HubCmd × Nat)),
      CmdTakes (booted State.reset) e.1 e.2) ∧
    (∀ e ∈ ([(aCmd 2 9 [0xFF1F, 64], id, 0), (aCmd 2 0 [0x60, 64], fullCore, 1), (aCmd 2 0 [0, 64, 5], id, 2), (aCmd 2 0 [0xFF7F, 2 ^ 54 - 4], id, 2)] : List (HubCmd × (State → State) × Nat)),
      CmdTakes (e.2.1 (booted State.reset)) e.1 2 ∧ startCase (e.2.1 (booted State.reset)) e.1 = e.2.2) ∧
    ∀ c ∈ [aCmd 0 0 [], aCmd 11 0 [], aCmd 0x81 4096 []], (∀ x ∈ (booted State.reset).cmds, x.hart ≠ c.hart) ∧
      (((c.dw.getD 0 0#64).extractLsb' 0 8).toNat = 0 ∨ 10 < ((c.dw.getD 0 0#64).extractLsb' 0 8).toNat ∨ (c.dw.getD 0 0#64).extractLsb' 28 36 ≠ 0#36) := by
  refine ⟨fun e he => cmd_of (by revert e; decide), fun e he => ?_, by decide⟩
  simp only [List.mem_cons, List.not_mem_nil, or_false] at he
  rcases he with rfl | rfl | rfl | rfl <;> exact ⟨cmd_of (by decide +kernel), by decide +kernel⟩

/-! ### Contexts, migration, links, the sextant, the host and failing dies -/

/-- Context 5 in some state, with a save area of some size. -/
def ctx5 (st : CtxState) (save : Nat) (s : State) : State := { s with ctxs := s.ctxs ++ [{ Ctx.system with id := 5#12, st := st, saveSize := save }] }

def only5 (st : CtxState) : State := ctx5 st 4096 (booted State.reset)

/-- CTXNEW: 0 refused, 1 created. -/
def newCase (s : State) (c : HubCmd) : Nat :=
  if cmdCtx c = 0#12 || (s.ctx? (cmdCtx c)).isSome || (s.readDescriptor (c.dw.getD 1 0#64)).isNone then 0 else 1

/-- A descriptor at 0x200 without locks, and one with a root table at 4096. -/
def described (s : State) : State := { s with mem := [(257, 16#8)] }

theorem witness_ContextCommands :
    (∀ e ∈ ([(aCmd 3 0 [], booted State.reset, 0), (aCmd 3 5 [], only5 .live, 0), (aCmd 3 5 [1], booted State.reset, 0), (aCmd 3 5 [256], described (booted State.reset), 1)] :
        List (HubCmd × State × Nat)), CmdTakes e.2.1 e.1 3 ∧ newCase e.2.1 e.1 = e.2.2) ∧
    CmdTakes (booted State.reset) (aCmd 4 5 []) 4 ∧
    (∀ e ∈ ([(5, .live), (5, .swapped), (6, .live), (6, .suspended), (6, .swapped), (7, .suspended), (7, .live), (8, .teardown), (8, .live), (8, .swapped)] : List (Nat × CtxState)),
      CmdTakes (only5 e.2) (aCmd e.1 5 []) e.1 ∧ (only5 e.2).ctx? (cmdCtx (aCmd e.1 5 [])) = some { Ctx.system with id := 5#12, st := e.2, saveSize := 4096 }) ∧
    (only5 .live).saveNeed { Ctx.system with id := 5#12, saveSize := 4096 } ≤ 4096 ∧
    (let s := inCtx 5#12 (demo (.nop r0) []); ∃ x, s.ctx? 5#12 = some x ∧ x.st = .live ∧ x.saveSize < s.saveNeed x) ∧ CmdTakes (booted State.reset) (aCmd 8 0 []) 8 := by
  refine ⟨fun e he => ?_, cmd_of (by decide +kernel), fun e he => ⟨cmd_of ?_, ?_⟩, by decide, ?_, cmd_of (by decide)⟩
  · simp only [List.mem_cons, List.not_mem_nil, or_false] at he
    rcases he with rfl | rfl | rfl | rfl <;> exact ⟨cmd_of (by decide +kernel), by decide +kernel⟩
  · revert e; decide
  · revert e; decide
  · have h : ((inCtx 5#12 (demo (.nop r0) [])).ctx? 5#12).any (fun x => x.st == .live && decide (x.saveSize < (inCtx 5#12 (demo (.nop r0) [])).saveNeed x)) = true := by decide +kernel
    obtain ⟨x, hx, h⟩ := Option.any_eq_true _ _ |>.mp h
    simp only [Bool.and_eq_true, beq_iff_eq, decide_eq_true_eq] at h
    exact ⟨x, hx, h.1, h.2⟩

/-- A command of hart 0 in progress. -/
def inProgress (op : Nat) (st : Option Status) (s : State) : State := { s with cmds := [⟨0, (aCmd op 5 []).dw, st⟩] }

/-- CTXSET of context 5 in progress, of the fields in a mask from a descriptor. -/
def setting (a m : Nat) (s : State) : State := { s with cmds := [⟨0, (aCmd 4 5 [a, m]).dw, none⟩] }

theorem fieldsOk_zero : fieldsOk ((only5 .live).descriptor 0) 0xFF#64 := by
  unfold fieldsOk
  decide +kernel

theorem witness_ContextCompletion :
    (inProgress 1 (some .ok) State.reset).cmds.find? (fun y => y.hart == 0) = some ⟨0, (aCmd 1 5 []).dw, some .ok⟩ ∧
    (setting 0 0 State.reset).cmds.find? (fun y => y.hart == 0) = some ⟨0, (aCmd 4 5 [0, 0]).dw, none⟩ ∧ (setting 0 0 State.reset).ctx? 5#12 = none ∧
    (∀ st ∈ [CtxState.teardown, .live], let s := setting 0 0xFF (ctx5 st 0 (booted State.reset))
      (s.ctx? 5#12).any (fun x => let y := ctxFrom 5#12 (s.descriptor 0)
        x.st == st && y.kspBase == x.kspBase && y.saveBase == x.saveBase && decide (x.saveSize ≤ y.saveSize) && (List.zip x.ksp y.ksp).all fun p => p.1 ≤ p.2) = true) ∧
    (descAt 0#64 ∧ fieldsOk ((only5 .live).descriptor 0) 0xFF#64 ∧ (0xFF#64).toNat < 256 ∧ ¬(5#12 = 0#12 ∧ True)) ∧
    (¬descAt 1#64 ∧ ¬descAt 0xFF0000000000#64 ∧ ¬(0x100#64).toNat < 256) ∧
    ∀ e ∈ ([(3, .free), (5, .suspended), (6, .suspended), (7, .swapped), (8, .teardown)] : List (Nat × CtxState)), let s := inProgress e.1 none (only5 e.2)
      s.cmds.find? (fun y => y.hart == 0) = some ⟨0, (aCmd e.1 5 []).dw, none⟩ ∧ (s.ctx? 5#12).any (fun x => x.st == e.2 && s.reserved? x) = true ∧
      s.waves = [] ∧ s.jobs = [] ∧ s.teams = [] ∧ s.grids = [] ∧ s.saved = [] ∧ (((aCmd e.1 5 []).dw.getD 0 0#64).extractLsb' 0 8).toNat = e.1 ∧
      ((aCmd e.1 5 []).dw.getD 0 0#64).extractLsb' 16 12 = 5#12 := by
  refine ⟨by decide, by decide, by decide, by decide +kernel, ⟨⟨by decide, by decide, by decide⟩, fieldsOk_zero, by decide, by decide⟩,
    ⟨fun h => absurd h.1 (by decide), fun h => absurd h.2.1 (by decide), by decide⟩, by decide⟩

/-- MIGRATE of the page at 0x200: 0 refused, 1 it begins. -/
def moveCase (s : State) (c : HubCmd) : Nat :=
  match s.ctx? (cmdCtx c) with
  | none => 9
  | some x => match s.walk x (c.dw.getD 1 0#64).toNat with
    | .leaf l p =>
      let f1 := (c.dw.getD 2 0#64).toNat
      let n := pageSize l
      let fits := f1 % n == 0 && decide (f1 < 2 ^ 57) && pkgOf f1 == s.pkgid && decide (homeDie f1 < 8) && decide (f1 % 2 ^ 37 + n ≤ heapSize)
      if attrRepl (p.extractLsb' 0 17) then 9 else if !fits || (decide (pteFrame p < f1 + n) && decide (f1 < pteFrame p + n)) then 0 else 1
    | _ => 9

/-- A page in migration to die 1, with some lines marked. -/
def moving (n round : Nat) (frozen : Bool) : Migration := ⟨9, 0#12, 0x200#54, 2, 0#57, 0x2000000000#57, 2 ^ 36, List.replicate n 3, round, frozen, 0⟩

theorem witness_PageMigration :
    (∀ e ∈ ([(aCmd 9 0 [0x200, 0], 0), (aCmd 9 0 [0x200, 2 ^ 35], 0), (aCmd 9 0 [0x200, 2 ^ 57], 0), (aCmd 9 0 [0x200, 7 * 2 ^ 37], 1), (aCmd 9 0 [0x200, 2 ^ 37], 1)] : List (HubCmd × Nat)),
      CmdTakes (paged (booted State.reset)) e.1 9 ∧ moveCase (paged (booted State.reset)) e.1 = e.2 ∧ (paged (booted State.reset)).migrations = []) ∧
    (∀ e ∈ ([(64, 1), (65, 8), (65, 7)] : List (Nat × Nat)), ({ State.reset with migrations := [moving e.1 e.2 false] } : State).migrations.find? (·.k == 9) = some (moving e.1 e.2 false)) ∧
    (let s : State := { paged State.reset with migrations := [moving 1 2 true] }
     (moving 1 2 true).frozen = true ∧ s.ctx? 0#12 = some Ctx.system ∧ s.l1 = [] ∧ leafEntryFrom (s.copyLines (moving 1 2 true)).mem 0x200 0 3 = some 4096) := by
  refine ⟨fun e he => ?_, by decide, by decide +kernel⟩
  simp only [List.mem_cons, List.not_mem_nil, or_false] at he
  rcases he with rfl | rfl | rfl | rfl | rfl <;> exact ⟨cmd_of (by decide +kernel), by decide +kernel, by decide +kernel⟩

theorem witness_LinksAndFences :
    (∀ st ∈ [0#2, 1#2, 3#2], ¬(((linked st 2#2 State.reset).tildor 0 0).st = 3#2 ∧ ((linked st 2#2 State.reset).tildor 0 0).peer ∈ State.reset.fenced)) ∧
    ((linked 2#2 2#2 State.reset).tildor 0 0).st = 2#2 ∧ ((linked 2#2 2#2 State.reset).tildor 0 0).silence < ((linked 2#2 2#2 State.reset).tildor 0 0).threshold ∧
    (let s := (linked 2#2 2#2 State.reset).portChange 0 0 fun t => { t with silence := 2 ^ 20 }
     (s.tildor 0 0).st = 2#2 ∧ (s.tildor 0 0).threshold ≤ (s.tildor 0 0).silence ∧ (s.tildor 0 0).peer ≠ s.pkgid ∧ (s.tildor 0 0).peer ∉ s.fenced ∧
      ∀ f ∈ s.flights, f.remote ≠ some (s.tildor 0 0).peer) ∧
    (7#12 ∈ ({ State.reset with fenced := [7#12] } : State).fenced ∧ 7#12 ∉ State.reset.fenced ∧ 7#12 ≠ State.reset.pkgid) := by decide

/-- The semaphore held by port 2, or by nobody. -/
def owned (o : Option Nat) : State := { State.reset with sext := { Sextant.reset with owner := o } }

theorem witness_EnergyIntervalsAndSemaphore :
    (owned none).sext.owner = none ∧ (owned (some 2)).sext.owner ≠ none ∧ (owned (some 2)).sext.owner = some 2 ∧ (owned (some 2)).sext.owner ≠ some 3 := by decide

theorem takes_mail {s : State} {src : MailSrc} (h : (s.sext.mails.all (fun y => decide (y.src ≠ src)) && !s.sext.recovery) = true) : MailTakes s src := by
  simp only [Bool.and_eq_true, List.all_eq_true, decide_eq_true_eq, Bool.not_eq_true'] at h
  exact ⟨h.1, h.2⟩

theorem witness_MailboxControl :
    (MailTakes (owned none) (.port 2) ∧ ¬Holds (owned none) (.port 2)) ∧ (MailTakes (owned none) .sideband ∧ ¬Holds (owned none) .sideband) ∧
    (MailTakes (owned (some 2)) (.port 2) ∧ Holds (owned (some 2)) (.port 2)) ∧ (MailTakes (owned (some 2)) .sideband ∧ Holds (owned (some 2)) .sideband) ∧
    (let a : ConfigArgs := ⟨0#12, [7#12], [(0, 0, 7#12)], [(0, 0, 2 ^ 14 - 1), (0, 1, 2 ^ 14)]⟩; ∃ t ∈ a.thresholds, t.2.2 < 2 ^ 14 ∨ 2 ^ 31 < t.2.2) ∧
    (let a : ConfigArgs := ⟨0#12, [7#12], [(0, 0, 7#12)], [(0, 0, 2 ^ 31), (0, 1, 2 ^ 14)]⟩; (∀ t ∈ a.thresholds, 2 ^ 14 ≤ t.2.2 ∧ t.2.2 ≤ 2 ^ 31) ∧ a.pkgid = (owned (some 2)).pkgid) ∧
    (List.replicate 8 (128 : Nat)).length = 8 ∧ 7 ∈ (owned (some 2)).running ∧
    ∃ y : Mail, y ∈ ({ State.reset with sext := { Sextant.reset with mails := [⟨.port 2, .ok, some 3⟩] } } : State).sext.mails ∧ y.src = .port 2 := by
  refine ⟨⟨takes_mail (by decide), fun h => by cases h⟩, ⟨takes_mail (by decide), fun h => h rfl⟩, ⟨takes_mail (by decide), rfl⟩,
    ⟨takes_mail (by decide), fun h => by cases h⟩, by decide, by decide, by decide, by decide, ⟨⟨.port 2, .ok, some 3⟩, by decide, rfl⟩⟩

theorem witness_MailboxControl_words : (leBytes 8 0x31).length = 8 ∧ leNat (leBytes 8 0x31) ∉ [0x10, 0x11, 0x12, 0x20, 0x21, 0x30, 0x40, 0x50, 0x51, 0x60] ∧
    leNat (leBytes 8 0x60) = mailOp .counters := by decide

/-- Images at boot. -/
def anImage (k : Fin 4) (v : Nat) (ok : Bool) : FwImage := ⟨k, ok, v, 5#256⟩

/-- The device with a fused minimum, before its boot or after, with the sextant image that FWUPDATE staged. -/
def fusedAt (n : Nat) (up : Bool) (l : List FwImage) : State := { State.reset with sext := { Sextant.reset with fused := n, booted := up, staged := l } }

theorem witness_FirmwareAndAttestation :
    MailTakes (owned none) .sideband ∧ MailTakes (owned (some 2)) (.port 2) ∧ Holds (owned (some 2)) (.port 2) ∧
    (imageGood (fusedAt 3 true []) (anImage 0 3 true) ∧ ¬imageGood (fusedAt 3 true []) (anImage 0 2 true) ∧ ¬imageGood (fusedAt 3 true []) (anImage 0 3 false)) ∧
    (fusedAt 0 true []).sext.booted = true ∧
    ∀ v ∈ [2, 3], let s := fusedAt 3 false [anImage 0 v true]
      s.sext.booted = false ∧ (imageGood s (s.sext.staged.foldl BootImages.put BootImages.plain).sextant ↔ v = 3) := by
  refine ⟨takes_mail (by decide), takes_mail (by decide), rfl, ⟨⟨rfl, by decide⟩, fun h => absurd h.2 (by decide), fun h => absurd h.1 (by decide)⟩, rfl, ?_⟩
  simp only [List.forall_mem_cons, List.not_mem_nil, false_imp_iff, implies_true, and_true, imageGood]
  decide

/-- A host's launch record. -/
def hostRec (flags foot p7 caddr ctx : Nat) : List Word := ([5, flags, ctx, 3, 4, 0, foot, 0, 1, 1, 1, p7, caddr, 0, 0, 0] : List Nat).map (BitVec.ofNat 32)

def hostLegalB (r : List Word) : Bool :=
  only (dw r 1) 0x0C00FFFF#32 && only (dw r 2) 0x7FFF0FFF#32 && (fld (dw r 2) 16 15 == 0 || (decide (2 ≤ fld (dw r 2) 16 15) && decide (fld (dw r 2) 16 15 ≤ 0xFF))) &&
    decide ((dw r 3).toNat ≤ 10) && launchLegal (r.drop 4) && (dw r 12).toNat % 4 == 0

theorem hostLegalB_iff (r : List Word) : hostLegalB r = true ↔ hostLegal r := by simp [hostLegalB, hostLegal, and_assoc]

/-- 0 logged, 1 logged for its context alone, 2 it arrives. -/
def hostCase (s : State) (port : Nat) (r : List Word) : Nat :=
  let c : BitVec 12 := (dw r 2).extractLsb' 0 12
  if !hostLegalB r then (if (dw r 13 ++ dw r 12 : DWord) = 0#64 || s.ctxDead c then 0 else 9)
  else if tooLarge (dw r 6) (fld (dw r 11) 0 5 + 1) || !s.sext.mayReach port c || (s.room .hub c).isNone then 9 else if s.ctxDead c then 1 else 2

/-- A host port's memory access of `n` bytes: 0 behind another of its port, 1 its page stands still, 2 a fenced home, 3 made, 4 refused, 5 it expands the page. -/
def hostMemCase (s : State) (port a n : Nat) : Nat :=
  if s.held.any (·.port == port) then 0 else if s.frozenIn a n then 1 else if s.isFenced a then 2
  else match s.compLeaf a n with
    | none => 3
    | some (_, _, pte) => if pte.getLsbD 15 then 5 else 4

theorem witness_HostAccesses :
    (notifyOpen State.reset 1 0 255 ∧ ¬notifyOpen State.reset 1 9 0 ∧ ¬notifyOpen State.reset 1 0 256) ∧
    (∀ i < 4, State.reset.hostByte (0x1000 + i) = ([0#8, 0#8, 0#8, 0#8] : List Byte)[i]?) ∧
    (∀ e ∈ ([(fun s => { s with held := [⟨1, .read 0 4⟩] }, 0), (fun s => { s with held := [⟨2, .read 0 4⟩] }, 3), (compressed, 1), (fun s => { s with fenced := [0#12] }, 2),
        (comped false, 4), (comped true, 5)] : List ((State → State) × Nat)), hostMemCase (e.1 State.reset) 1 0x80 4 = e.2) ∧
    (∀ h ∈ State.reset.held, h.port ≠ 1) ∧
    ∀ e ∈ ([(hostRec 1 0 0 0 0, State.reset, 2), (hostRec 0x10000 0 0 0 0, State.reset, 0), (hostRec 1 0x10000000 0 4 9, State.reset, 0), (hostRec 1 0 31 4 0, State.reset, 2),
        (hostRec 1 0 0 0 5, only5 .teardown, 1)] : List (List Word × State × Nat)), e.1.length = 16 ∧ hostCase e.2.1 1 e.1 = e.2.2 := by
  refine ⟨⟨⟨by decide, by decide, by decide, by decide⟩, fun h => absurd h.2.2.2 (by decide), fun h => absurd h.2.1 (by decide)⟩, by decide +kernel, ?_, by decide, ?_⟩ <;>
  · simp only [List.forall_mem_cons, List.not_mem_nil, false_imp_iff, implies_true, and_true]
    decide +kernel

/-- An accepted durable record at cluster 0, a team, and lines in the caches of die 0. -/
def failing : State :=
  let s := demo (.nop r0) [] fun s => (s.arrive (.cluster 0 0) { aPush with cls := 2#4 }).1
  { s with
    keyrings := s.keyrings.map fun e => (e.1, { e.2 with recs := e.2.recs.map fun r => { r with accepted := true } })
    l1 := [⟨⟨0, false, 0, 0⟩, 5, 0#1024, 1#128⟩], l2 := [⟨0, 6, 0#1024⟩] }

/-- A record that the mirror of a failed die brings to die 1. -/
def aReplay (s : State) : Replay := ⟨1, ((s.ring (.cluster 0 0)).recs).map fun r => (.die 1, r), []⟩

theorem witness_DieFailures :
    (failing.running.contains 0 = true ∧ (∀ j ∈ failing.jobs, j.d.eng ≠ .stack) ∧ ringLost 0 none (.cluster 0 0) = true ∧
      ((failing.keyrings.find? fun e => e.1 == .cluster 0 0).any fun e => (failing.ring e.1).recs.any fun x => durable x.cls && x.accepted) = true ∧
      (∀ f ∈ failing.flights, f.undo = none) ∧ failing.teams.any (fun y => y.die == 0 && !y.gone) = true) ∧
    (let s : State := { failing with replays := [aReplay failing] }
     s.running.contains 1 = true ∧ s.replays.filter (fun x => x.die == 1) = [aReplay failing] ∧ (∀ e ∈ (aReplay failing).recs, e.1 = .die 1) ∧ (aReplay failing).recs ≠ []) := by
  decide +kernel

/-! ### Pipelines, schedulers, and the step -/

/-- The demo's wave with its thread changed. -/
def threadly (g : Thread → Thread) (s : State) : State := { s with waves := s.waves.map fun w => { w with thr := g w.thr } }

/-- The wave READY at its clause's header. -/
def readied (s : State) : State := threadly (fun t => { t with st := .ready, slot := 0 }) s
def pipe0 : PipeId := ⟨0, false, 0, 0⟩

/-- No instruction cache holds a line. -/
def coldCode (attr : Nat) (s : State) : State := { readied s with icache := [], mem := [(0, 1#8), (1, 16#8), (4096, BitVec.ofNat 8 attr)] }

/-- The wave parked in REGX after `c` issue cycles, with REGXWAIT 5. -/
def stalling (c : Nat) (s : State) : State :=
  { s with waves := s.waves.map fun w => { w with thr := { w.thr with st := .parked, wait := .regx 8 none false c }, lanes := w.lanes.map fun l => { l with regxwait := 5#32 } } }

/-- A unit in a phase of gating. -/
def phased (u : GateUnit) (g : GatePhase) (wake : Bool) : State :=
  match u with
  | .pipe _ => State.reset.gateSet u g wake
  | .cluster d c => { State.reset.gateSet u g wake with pipes := (List.range 32).map fun p => (⟨d, false, c, p⟩, { Pipe.reset with gate := .gated }) }

theorem witness_Pipelines :
    (∀ g ∈ [id, wide 8 fun _ => id], let s := demo (.nop r0) [] fun s => readied (g s)
      s.pipeOpen pipe0 = true ∧ s.pick pipe0 = some (vw s) ∧ (vw s).thr.dataErr = [] ∧ (vw s).thr.slot = 0 ∧ vw s ∈ s.candidates pipe0 ∧
      (s.codeWord (vw s) (vw s).thr.hdr).any (fun w => w.extractLsb' 28 4 != 0#4 && w.extractLsb' 0 15 == 0#15) = true) ∧
    (let s := demo (.nop r0) [] readied
     (∀ y ∈ s.candidates pipe0, y.fused = false) ∧ ∃ k < 8, (vw s).slotOn pipe0 = ((s.pipe pipe0).rrptr.toNat + 1 + k) % 8 ∧ (vw s).thr.yielding = false ∧
      (∀ y ∈ s.candidates pipe0, y.slotOn pipe0 = (vw s).slotOn pipe0 → y = vw s) ∧
      ∀ y ∈ s.candidates pipe0, ∀ j < k, y.slotOn pipe0 = ((s.pipe pipe0).rrptr.toNat + 1 + j) % 8 → y.thr.yielding = true) ∧
    (let s := demo (.nop r0) [] fun s => readied (wide 8 (fun _ => id) s)
     (vw s).fused = true ∧ ∀ y ∈ s.candidates pipe0, y.fused = true → y = vw s ∨ (vw s).w.age < y.w.age) ∧
    (∀ e ∈ ([(0x0F, false), (0x1F, true)] : List (Nat × Bool)), let s := demo (.nop r0) [] (coldCode e.1)
      s.view (vw s).iss = some (vw s) ∧ s.running.contains (vw s).w.die = true ∧ (vw s).thr.ending = false ∧ (vw s).thr.st = .ready ∧
      ∃ a c, s.codeMissing (vw s) = some a ∧ s.ctx? (vw s).w.ctx = some c ∧
        (match s.translate (vw s).w.die (vw s).w.ctx a.toNat with
          | (u, .leaf l p) => permits c .fetch (p.extractLsb' 0 17) == e.2 && !u.isFenced (leafAddr l p a.toNat) && !u.frozenIn (leafAddr l p a.toNat / 64 * 64) 64 &&
              u.icache.isEmpty && u.bad.isEmpty
          | _ => false) = true) ∧
    (let s := demo (.nop r0) [] fun s => threadly (fun t => { t with hdr := 0x3F000000000000#54 }) (coldCode 0x1F s)
     s.view (vw s).iss = some (vw s) ∧ (vw s).thr.st = .ready ∧ (s.codeMissing (vw s)).any (fun a => decide (2 ^ 54 - 2 ^ 48 ≤ a.toNat)) = true) ∧
    (∀ c ∈ [4, 5], let s := demo (.nop r0) [] (stalling c)
      s.view (vw s).iss = some (vw s) ∧ (vw s).lane = none ∧ (vw s).thr.st = .parked ∧ (vw s).thr.wait = .regx 8 none false c ∧ (vw s).w.lanes[0]? = some (ln s 0) ∧
      (ln s 0).regxwait.toNat = 5) ∧
    ∀ u ∈ [GateUnit.pipe pipe0, .cluster 3 63], ∀ w ∈ [false, true], (∀ g ∈ [GatePhase.off, .entering, .gated, .waking, .aborting], (phased u g w).unitGate u = g ∧ (phased u g w).unitWakes u = w) ∧
      (phased u .off w).unitIdle u = true := by
  refine ⟨?_, ⟨by decide +kernel, 0, by decide +kernel, by decide +kernel, by decide +kernel, by decide +kernel, by decide +kernel⟩, by decide +kernel, ?_, by decide +kernel, by decide +kernel, by decide +kernel⟩
  · simp only [List.forall_mem_cons, List.not_mem_nil, false_imp_iff, implies_true, and_true]
    decide +kernel
  · intro e he
    simp only [List.mem_cons, List.not_mem_nil, or_false] at he
    rcases he with rfl | rfl <;> exact ⟨by decide +kernel, by decide +kernel, by decide +kernel, by decide +kernel, 0#54, Ctx.system, by decide +kernel, by decide +kernel, by decide +kernel⟩

/-- A ready-queue entry of teams `lo` to `hi` of a grid. -/
def anEntry (k lo hi : Nat) : Entry :=
  { k := k, record := 7, kr := .die 0, grid := 40, spawn := none, lo := lo, hi := hi, gx := 4, gy := 1, foot := ⟨1, 8, 2, 4096, 1, 4, 10⟩, entry := 64#54, arg := 5#64,
    prio := 1#2, stream := 0#15, bearing := 9, depth := 0#4, ctx := 0#12, attempt := 0, passed := 0, reserving := false, saved := none }

def scheduled (x : Sched) (s : State) : State := { s with scheds := [(0, x)] }

/-- An accepted launch record at a keyring. -/
def launched (k : KrId) (cls : BitVec 4) : State :=
  let s := ((booted State.reset).arrive k { aPush with cls := cls, target := 3#24, words := if cls = 0#4 then (hostRec 1 0 0 0 0).drop 4 else spawnWords (vw (demo (.nop r0) [])).w [9#32, 4#32, 0#32, 0#32, 0#32] 1 0#32 }).1
  { s with keyrings := s.keyrings.map fun e => (e.1, { e.2 with recs := e.2.recs.map fun r => { r with accepted := true } }) }

def launchable (s : State) (r : Rec) : Bool := (r.cls == 0#4 || r.cls == 1#4) && r.accepted && (s.ctx? r.ctx).any fun c => c.st = .live

theorem witness_LaunchDispatchAndPlacement :
    (let s := launched .hub 0#4
     s.hubUp = true ∧ ((s.ring .hub).select fun x => x.cls == 0#4 && x.accepted && (s.ctx? x.ctx).any fun c => c.st = .live).any (fun r =>
        let n := s.bearingDie none r.ctx (r.target.extractLsb' 0 4).toNat (dw r.payload 11 ++ dw r.payload 10 : DWord).toNat
        (n.1.room (.die n.2) r.ctx).isSome && s.running.contains n.2) = true) ∧
    (∀ cls ∈ [0#4, 1#4], (launched (.die 0) cls).running.contains 0 = true ∧ ((launched (.die 0) cls).sched 0).ready.length < 256 ∧
      (((launched (.die 0) cls).ring (.die 0)).select (launchable (launched (.die 0) cls))).any (·.cls == cls) = true) ∧
    (let s := inGrid (scheduled { Sched.reset with ready := [anEntry 3 1 4] } State.reset)
     s.running.contains 0 = true ∧ (∀ y ∈ (s.sched 0).ready, y.passed < 256 ∨ y.reserving = true) ∧ orderEntries (s.sched 0).ready = [] ++ anEntry 3 1 4 :: [] ∧
      (s.fitDie (anEntry 3 1 4) 0).isSome = true ∧ (s.fit (anEntry 3 1 4) 0 0).isSome = true ∧ (anEntry 3 1 4).saved = none ∧ (anEntry 3 1 4).spawn = none ∧
      (anEntry 3 1 4).foot.scr ≠ 0 ∧ (anEntry 3 1 4).foot.stKiB ≠ 0) := by
  refine ⟨by decide +kernel, by decide +kernel, by decide +kernel⟩

/-- The wave parked in RETIRE with nothing outstanding. -/
def retiring (s : State) : State := threadly (fun t => { t with st := .parked, wait := .retire }) s

/-- A grid of some count, with a completion address. -/
def aGrid (u n : Nat) (parent : Option Nat) (caddr : BitVec 54) (drop : Bool) : Grid :=
  ⟨u, 0#12, n, parent, 1#2, 0, caddr, false, none, 0#4, [(0, 2)], [], false, false, false, false, drop, 0#32, 0⟩

def gridded (l : List Grid) (g : State → State := id) : State := g { paged (booted State.reset) with grids := l }

theorem witness_Completion :
    (let s := demo (.nop r0) [] retiring
     s.view (vw s).iss = some (vw s) ∧ (vw s).thr.wait = .retire ∧ (vw s).thr.drained = true ∧ s.queueEmpty (vw s).w = true ∧ (vw s).iss.lane = none) ∧
    (∀ e ∈ ([([], 0), ([(0, 1)], 1)] : List (List (Nat × Nat) × Nat)), let t : State := { booted (inGrid (demo (.nop r0) [])) with grids := [{ aGrid 40 3 none 0#54 false with due := e.1 }] }
      t.dieCount 0 40 ≠ 0 ∧ t.hubUp = true ∧ assocGet e.1 0 0 = e.2) ∧
    (∀ e ∈ ([(3, none, 1), (2, none, 0), (2, some 41, 0)] : List (Nat × Option Nat × Nat)), let g := aGrid 40 e.1 e.2.1 0#54 false
      let s := gridded [g, aGrid 41 2 none 0#54 false]
      s.hubUp = true ∧ s.dieCount 0 40 = 0 ∧ s.grids.find? (·.uid == 40) = some g ∧ g.counter - (assocGet g.due 0 0 + assocGet g.done 0 0) = e.2.2 ∧ assocGet g.due 0 0 + assocGet g.done 0 0 ≤ g.counter ∧ g.caddr = 0#54 ∧
      s.grids.find? (·.uid == 41) = some (aGrid 41 2 none 0#54 false)) ∧
    ((aGrid 40 2 none 64#54 true).caddr ≠ 0#54 ∧ (aGrid 40 2 none 64#54 true).cdrop = true) ∧
    ∀ e ∈ ([(paged, true), (unreadable, false)] : List ((State → State) × Bool)), let g := aGrid 40 2 none 0x40000#54 false
      g.cdrop = false ∧ (match (gridded [g] e.1).translate 8 0#12 g.caddr.toNat with
        | (u, .leaf l p) => permits Ctx.system .atomic (p.extractLsb' 0 17) == e.2 && !attrComp (p.extractLsb' 0 17) && !u.isFenced (leafAddr l p 0x40000) && !u.frozenIn (leafAddr l p 0x40000) 4
        | _ => false) = true := by
  refine ⟨by decide +kernel, by decide +kernel, by decide +kernel, by decide, ?_⟩
  simp only [List.forall_mem_cons, List.not_mem_nil, false_imp_iff, implies_true, and_true]
  decide +kernel

/-- A latched carrier at cluster 0's keyring. -/
def carrying (b : Nat) : State :=
  let s := ((booted State.reset).arrive (.cluster 0 0) { aPush with cls := 3#4, op := 13#4, car := true, target := 0x800000#24, words := BitVec.ofNat 32 0 :: BitVec.ofNat 32 b :: List.replicate 10 0#32 }).1
  { s with keyrings := s.keyrings.map fun e => (e.1, { e.2 with recs := e.2.recs.map fun r => { r with accepted := true, latched := true, payload := [0#32, BitVec.ofNat 32 b] } }) }

theorem witness_StealingAndCarriers :
    (State.reset.running.contains 0 = true ∧ (State.reset.sched 0).ready = [] ∧ (State.reset.ring (.die 0)).select (launchable State.reset) = none ∧
      (State.reset.sched 0).asking = none ∧ (State.reset.sched 0).waiting = false) ∧
    (let s : State := { State.reset with scheds := [(0, { Sched.reset with asking := some 1 }), (1, { Sched.reset with ready := [anEntry 3 0 4, anEntry 4 0 1] })] }
     (s.sched 0).asking = some 1 ∧ s.running.contains 1 = true ∧ ({ s with running := [0] } : State).running.contains 1 = false ∧
      (orderEntries (s.sched 1).ready).filter (fun y => (y.bearing == 8 || y.bearing == 9) && !y.reserving && y.saved.isNone) = [anEntry 3 0 4] ++ [anEntry 4 0 1] ∧
      (anEntry 4 0 1).stream = 0#15 ∧ (anEntry 4 0 1).lo < (anEntry 4 0 1).hi ∧ ∀ y ∈ (s.sched 1).ready, y.lo < y.hi) ∧
    ∀ b ∈ [9, 7], ((carrying b).ring (.cluster 0 0)).select (fun x => x.cls == 3#4 && x.car && x.latched && x.target.getLsbD 23 && x.accepted &&
      ((carrying b).ctx? x.ctx).any (fun c => c.st = .live) && !(carrying b).flights.any fun f => f.arrived == some x.uid && f.push.car) |>.any (fun r => fld (dw r.payload 1) 0 4 == b) := by
  refine ⟨by decide +kernel, by decide +kernel, by decide +kernel⟩

/-- A team on every cluster of die 0; cluster 0's waits on a counter, and an entry needs all tiles of one. -/
def crowded (s : State) : State :=
  let s := threadly (fun t => { t with st := .parked, wait := .counter 0x40000#54 }) (inGrid s)
  scheduled { Sched.reset with ready := [{ anEntry 3 0 1 with foot := ⟨1, 8, 1, 0, 16, 0, 0⟩ }] }
    { s with teams := s.teams.flatMap fun t => (List.range 64).map fun c => if c = 0 then { t with tiles := 1, ent := some (anEntry 9 0 1) } else { t with uid := 900 + c, clu := c, tiles := 1 } }

def savedTeam (s : State) : Saved := ⟨{ Team.fresh 60 0#12 0 0 with grid := some 40, ent := some (anEntry 9 0 1) }, (threadly (fun t => { t with woken := true }) s).waves, [], 1#2, false⟩

theorem witness_SwapOutAndReadmission :
    (let s := demo (.nop r0) [] crowded
     ∃ t, s.team? State.reset.uid = some t ∧ t.uid = State.reset.uid ∧ s.running.contains t.die = true ∧ s.swapEligible t = true ∧ s.makesRoom t = true ∧
      ∀ x ∈ s.teams, x.die = t.die → s.swapEligible x = true → s.makesRoom x = true → s.teamPrio t < s.teamPrio x ∨ (s.teamPrio t = s.teamPrio x ∧ x.placedAt ≤ t.placedAt)) ∧
    (let g := { aGrid 40 3 none 0#54 false with swapping := true }
     (gridded [g]).grids.find? (·.uid == 40) = some g ∧ ∀ t ∈ (gridded [g]).teams, t.grid = some 40 → t.gone = true) ∧
    (let s : State := { gridded [aGrid 40 3 none 0#54 false] with saved := [savedTeam (demo (.nop r0) [])] }
     let v := savedTeam (demo (.nop r0) [])
     s.saved.find? (fun y => y.team.uid == 60) = some v ∧ v.ofCtx = false ∧ s.ctx? v.team.ctx = some Ctx.system ∧ v.team.ent = some (anEntry 9 0 1) ∧ s.savedReady v = true ∧
      s.grids.find? (·.uid == 40) = some (aGrid 40 3 none 0#54 false) ∧ (∀ k ∈ s.scheds, ∀ x ∈ k.2.ready, x.saved ≠ some 60) ∧ s.running.contains v.team.die = true) ∧
    ∀ w ∈ [Wait.counter 0x40000#54, .drained 0x40000#54],
      let s : State := { demo (.cwait cwF) [] (threadly fun t => { t with st := .parked, wait := w, parkWord := encodeR 0x124 cwF }) with grids := [{ aGrid 40 3 none 0x40000#54 false with lost := true }] }
      s.view (vw s).iss = some (vw s) ∧ (vw s).thr.st = .parked ∧ (vw s).thr.wait = w ∧ (vw s).thr.parkWord = encodeR 0x124 cwF ∧ (vw s).w.ctx = 0#12 := by
  refine ⟨?_, by decide +kernel, by decide +kernel, by decide +kernel⟩
  have h : ((demo (.nop r0) [] crowded).team? State.reset.uid).any (fun t => t.uid == State.reset.uid && (demo (.nop r0) [] crowded).running.contains t.die &&
      (demo (.nop r0) [] crowded).swapEligible t && (demo (.nop r0) [] crowded).makesRoom t && (demo (.nop r0) [] crowded).teams.all fun x =>
        x == t || !(demo (.nop r0) [] crowded).swapEligible x) = true := by decide +kernel
  obtain ⟨t, ht, h⟩ := Option.any_eq_true _ _ |>.mp h
  simp only [Bool.and_eq_true, beq_iff_eq, List.all_eq_true, Bool.or_eq_true, Bool.not_eq_true'] at h
  refine ⟨t, ht, h.1.1.1.1, h.1.1.1.2, h.1.1.2, h.1.2, fun x hx _ he _ => ?_⟩
  rcases h.2 x hx with rfl | hn
  · exact .inr ⟨rfl, le_refl _⟩
  · rw [hn] at he
    cases he

theorem witness_SourceValues :
    (∀ v ∈ [0#7, 63#7, 64#7, 66#7, 67#7, 71#7, 72#7, 79#7, 80#7, 94#7, 95#7, 96#7, 127#7], v.toNat < 128) ∧
    (∃ x ∈ (slotR 0x002 ⟨3#6, false, false, .rsv 67#7, .reg 0#6⟩).srcs, srcReserved x = true) ∧
    (let s := demo (.nop r0) []; mapped (s.mapOf (vw s).w) 0x002 = true ∧ gatewayOps.contains 0x002 = false ∧ classAllowed (classOf 0x002) (vw s).thr.allow = true ∧
      classOf 0x002 ≠ .g ∧ endsClause.contains 0x002 = false) ∧
    ({ ln (demo (.nop r0) []) 0 with l1 := some ⟨5#32, .f32⟩ } : Lane).latch 1#2 = some ⟨5#32, .f32⟩ := by decide

theorem witness_CheckOrder :
    (∀ e ∈ plainTable, Checked (demo (e.2 ⟨3#6, false, false, .rsv 67#7, .reg 0#6⟩) []) (vw (demo (e.2 ⟨3#6, false, false, .rsv 67#7, .reg 0#6⟩) []))
      (slotR e.1 ⟨3#6, false, false, .rsv 67#7, .reg 0#6⟩) .illfld) ∧
    (∀ e ∈ plainTable, let f : RFmt := ⟨3#6, false, false, .latch 0#2, if (usedSrcs e.1 ⟨0#6, false, false, .reg 1#6, .reg 2#6⟩).length < 2 then .reg 0#6 else .reg 2#6⟩
      let s := demo (e.2 f) []
      s.cur.bind s.view = some (vw s) ∧ (vw s).thr.st = .owning ∧ checkWord s (vw s) (slotR e.1 f) = none ∧
        ((vw s).act.filter fun k => (slotR e.1 f).srcs.any fun x => ((vw s).w.lanes[k]?).any fun l => laneSrcBad l x) ≠ []) ∧
    (∀ e ∈ ([(slotR 0x0A1 r0, some .illop), (slotR 0x140 r0, some .gwonly), (slotR 0x0D2 r0, some .illcls), (slotR 0x002 ⟨31#6, false, false, .reg 1#6, .reg 2#6⟩, some .illfld),
        (slotR 0x002 (rf 0x002), none)] : List (Slot × Option Cause)), checkWord (demo (.nop r0) [] (narrow 8)) (vw (demo (.nop r0) [] (narrow 8))) e.1 = e.2) ∧
    (let s := demo (.dmap (rf 0x04D)) [(1, ⟨0#32, .i32⟩), (2, ⟨2#32, .i32⟩)] (inCtx 5#12)
     s.cur.bind s.view = some (vw s) ∧ (vw s).act ≠ [] ∧ checkWord s (vw s) (slotR 0x04D (rf 0x04D) (priv := true)) = none ∧
      (vw s).srcBad (slotR 0x04D (rf 0x04D) (priv := true)) = [] ∧ (slotR 0x04D (rf 0x04D) (priv := true)).priv = true ∧ (vw s).w.ctx ≠ 0#12) := by
  refine ⟨fun e he => checked_of (by revert e; decide +kernel), by decide +kernel, by decide +kernel, by decide +kernel⟩

theorem witness_RegisterFrame : ∀ e ∈ plainTable, let s := demo (e.2 (rf e.1)) (abd .i32)
    s.cur.bind s.view = some (vw s) ∧ (slotR e.1 (rf e.1)).ports = [] ∧ (match exec (e.2 (rf e.1)) s with | .next _ => true | _ => false) = true := by
  decide +kernel

/-- Hart 0 about to run NGET. -/
def ngetWord : State := State.loadHart State.reset 0x0005950B#32

/-- A party parked in an instruction. -/
def parkedIn (w : Wait) (i : Instr) (s : State) : State :=
  threadly (fun t => { t with st := .parked, wait := w, parkWord := headWord i, parkSrc := literalsOf i }) s

def parkedB (s : State) : Bool :=
  s.view (vw s).iss == some (vw s) && (vw s).thr.st == .parked && s.running.contains (vw s).w.die && (vw s).w.thr.st != .suspended &&
    (s.ctx? (vw s).w.ctx).any fun c => c.st == .live

/-- The party's parked instruction, performed again, moves it on. -/
def goesOn (s : State) (x : Instr) : Bool :=
  let i := (vw s).iss
  let go := s.modThr i fun t => { t with st := .owning, wait := .nothing }
  decodeWord (vw s).thr.parkWord (vw s).thr.parkSrc == some x &&
    match exec x { go with cur := some i } with
    | .next t => decide (t.point i ≠ go.point i) && (t.view i).isSome
    | _ => false

theorem witness_StepRunsDecoded :
    (∀ e ∈ ([(.nop r0, []), (.mov ⟨3#6, false, false, .lit (some 9#32), .reg 0#6⟩, [9#32])] : List (Instr × List Word)),
      let s : State := { State.reset.loadClause (headWord e.1) e.2 with cur := none }
      let i : Issuer := ⟨State.reset.uid + 1, none⟩
      s.agenda = [.slot i] ∧ (s.view i).any (fun v => decide (v.thr.st = .owning) && !v.thr.ending && v.thr.dataErr.isEmpty && (v.pipes.all fun p => !(s.pipe p).switching) &&
        (s.codeWord v (v.thr.hdr + BitVec.ofNat 54 (4 * v.thr.slot))).any fun w => w == headWord e.1 && decodeWord w e.2 == some e.1 &&
          allSome ((v.thr.litSlots w).map fun k => s.codeWord v (v.thr.hdr + BitVec.ofNat 54 (4 * k))) == some e.2) = true) ∧
    (let s : State := { State.reset.loadClause 0x3FF#32 [] with cur := none }
     let i : Issuer := ⟨State.reset.uid + 1, none⟩
     s.agenda = [.slot i] ∧ (s.view i).any (fun v => decide (v.thr.st = .owning) &&
        (s.codeWord v (v.thr.hdr + BitVec.ofNat 54 (4 * v.thr.slot))).any fun w => (decodeWord w []).isNone && (v.thr.litSlots w).isEmpty) = true) ∧
    (State.reset.lost = [] ∧ State.reset.held = [] ∧ State.reset.keyrings = [] ∧ State.reset.waves = []) ∧
    (∀ e ∈ ([(.ports [(0, 7)], .kpop popF, id, false), (.ports [(0, 7)], .kpop popF, stocked, true), (.wfm [(0, 0x80#8)], .wfm (rf 0x04A), stocked, true)] :
        List (Wait × Instr × (State → State) × Bool)), let s := portDemo (.nop r0) [] (aPort false) fun s => parkedIn e.1 e.2.1 (e.2.2.1 s)
      parkedB s = true ∧ (vw s).thr.wait = e.1 ∧ s.waitHolds (vw s) = e.2.2.2) ∧
    (let s := cwDemo 0 0x40000 fun s => parkedIn (.drained 0x40000#54) (.cwait cwF) (paged s)
     parkedB s = true ∧ s.waitHolds (vw s) = true ∧ goesOn s (.cwait cwF) = true) ∧
    (ngetWord.agenda = [.hart 0] ∧ ngetWord.hubUp = true ∧ (ngetWord.hart 0).exc = none ∧ (ngetWord.hart 0).held = none ∧ (ngetWord.hart 0).mode = .m ∧ (ngetWord.hart 0).pc + 4 ≤ 2 ^ 45 ∧
      ngetWord.frozenIn ((ngetWord.hart 0).pc + ngetWord.pkgid.toNat * 2 ^ 45) 4 = false ∧
      (∀ k < 4, ngetWord.hostByte ((ngetWord.hart 0).pc + ngetWord.pkgid.toNat * 2 ^ 45 + k) = (leBytes 4 0x0005950B)[k]?) ∧
      decodeHub (BitVec.ofNat 32 (leNat (leBytes 4 0x0005950B))) = some (.nget ⟨10#5, 11#5, 0#5⟩)) ∧
    ({ State.reset with agenda := [.event .packageReset] } : State).agenda = [.event .packageReset] := by
  refine ⟨fun e he => ?_, by decide +kernel, by decide, fun e he => ?_, by decide +kernel, by decide +kernel, rfl⟩
  · simp only [List.mem_cons, List.not_mem_nil, or_false] at he
    rcases he with rfl | rfl <;> decide +kernel
  · simp only [List.mem_cons, List.not_mem_nil, or_false] at he
    rcases he with rfl | rfl | rfl <;> decide +kernel

theorem witness_StepKeepsMemoryCanonical : (State.reset.loadClause (headWord (.nop r0)) []).memOk = true ∧
    (match step (State.reset.loadClause (headWord (.nop r0)) []) with | .next _ => true | _ => false) = true := by decide +kernel

/-- A team that its die's failure loses, with the entry it was placed from. -/
theorem witness_DieFailures_teams : let s := demo (.nop r0) [] crowded
    (s.teams.head?).any (fun y => y.die == 0 && !y.gone && y.ent == some (anEntry 9 0 1)) = true := by decide +kernel

/-! ### More forms: operands that trap, several lanes, and the bytes that cannot be read -/

/-- Sources of two tags, or of one that a comparison does not take. -/
def odd (a b : Tag) : List (Nat × Reg) := [(1, ⟨5#32, a⟩), (2, ⟨7#32, b⟩)]

theorem witness_Comparisons_traps : ∀ e ∈ ([(0x020, .cmpEq, admitIF, .i32, .f32), (0x021, .cmpNe, admitIF, .scale, .scale), (0x022, .cmpLt, admitIF, .bfp8x4, .bfp8x4),
      (0x023, .cmpLe, admitIF, .i8x4, .i16x2), (0x024, .cmpLtu, admitI, .f32, .f32), (0x025, .cmpLeu, admitI, .i32, .f32), (0x026, .cmpUn, admitF, .i32, .i32)] :
      List (Nat × (RFmt → Instr) × (Tag → Bool) × Tag × Tag)),
    let s := demo (e.2.1 (rf e.1)) (odd e.2.2.2.1 e.2.2.2.2)
    Issues s (vw s) (slotR e.1 (rf e.1)) ∧ ((vw s).act.filter fun k => ((vw s).w.lanes[k]?).any fun x =>
      !e.2.2.1 (x.polyTag [(rf e.1).a, (rf e.1).b]) || [(rf e.1).a, (rf e.1).b].any fun z => (x.srcTag z).any (· != x.polyTag [(rf e.1).a, (rf e.1).b])) ≠ [] := by
  intro e he
  simp only [List.mem_cons, List.not_mem_nil, or_false] at he
  rcases he with rfl | rfl | rfl | rfl | rfl | rfl | rfl <;> exact ⟨issues_of (by decide), by decide⟩

theorem witness_BitsMovesAndPairs_traps : ∀ n ∈ [14, 15], MeetsWhen (demo (.tagset (rf 0x039)) [(1, ⟨5#32, .f32⟩), (2, ⟨BitVec.ofNat 32 n, .i32⟩)]) (slotR 0x039 (rf 0x039)) (fun _ => True)
    (fun x => x.readable false (rf 0x039).a ∧ x.readable true (rf 0x039).b) fun _ pb x => 14 ≤ (x.bits .i32 pb (rf 0x039).b).toNat % 16 := by
  refine fun n hn => meetsWhen_of (okB := fun x => readableB x false (rf 0x039).a && readableB x true (rf 0x039).b) (fun x h => ?_) (by revert n; decide)
  simp only [Bool.and_eq_true] at h
  exact ⟨readable_of h.1, readable_of h.2⟩

theorem witness_ControlWords_lanes : MeetsWhen (cwwDemo 0x16 9 (wide 8 fun _ => id)) (slotR 0x03C ⟨0#6, false, false, .reg 1#6, .reg 2#6⟩) (fun v => v.w.lanes.length = 8 ∧ v.w.ctx = 0#12)
    (fun x => x.readable true (.reg 1#6) ∧ x.readable false (.reg 2#6)) fun pa _ x => (x.bits .i32 pa (.reg 1#6)).toNat % 256 = 0x16 := by
  refine meetsWhen_of (okB := fun x => readableB x true (.reg 1#6) && readableB x false (.reg 2#6)) (fun x h => ?_) (by decide +kernel)
  simp only [Bool.and_eq_true] at h
  exact ⟨readable_of h.1, readable_of h.2⟩

theorem witness_Reductions_extremes : ∀ t ∈ [Tag.f32, .bf16x2, .f16x2, .e4m3x4, .e5m2x4], t.cls = .flt ∧ ([0, 1, 2 ^ (t.width - 1)] : List Nat) ≠ [] ∧
    (∀ x ∈ ([0, 1, 2 ^ (t.width - 1)] : List Nat), x < 2 ^ t.width) ∧ ∀ x ∈ ([0, 1, 2 ^ (t.width - 1)] : List Nat), t.fmt.decode false x ≠ .nan := by
  decide +kernel

/-- Bytes of the demo's scratchpad, its tiles, or the weight buffer of cluster 0 cannot be read. -/
def scratchBad (off : Nat) (s : State) : State :=
  { s with errs := (s.teams.map fun t => ⟨t.scratchErr.1, t.scratchErr.2, off⟩) }
def cellBad (a : ErrArray) (own off : Nat) (s : State) : State := { s with errs := [⟨a, own, off⟩] }

/-- A matrix job that goes on after a suspension, and one that has read some panels. -/
def resumed (j : Job) : Job := { j with suspended := true, done := 1 }
def panelled (op : Nat) (l : List (List Byte)) : Job := { mmaJob op true none with data := l, done := l.length }

/-- Whether the job's first panel cannot be read. -/
def panelBad (s : State) (j : Job) : Bool := s.scratchErred j.d.team (64 + 0 * panelSize (fld (dw j.d.desc 0) 4 4)) (panelSize (fld (dw j.d.desc 0) 4 4))

theorem witness_MatrixEvents_errors :
    (∀ op ∈ [0x0F0, 0x0F1], ∀ e ∈ ([(id, false), (scratchBad 64, true)] : List ((State → State) × Bool)),
      let s := working (mmaJob op false none) fun s => e.1 (imaged 0 0#12 s)
      Reading s .matrix 0 0 77 matrixAreas (mmaJob op false none) ∧ s.arrayFree (mmaJob op false none) = true ∧ panelBad s (mmaJob op false none) = e.2) ∧
    (∀ op ∈ [0x0F0, 0x0F1], let j := resumed (jobOf .matrix op [0x10100, 64, 0] false)
      Reading (working j (imaged 1 5#12)) .matrix 0 0 77 matrixAreas j ∧ (dw j.d.desc 0).getLsbD 8 = true ∧ j.suspended = true) ∧
    (let s := working (jobOf .matrix 0x0F3 [0, 0x40000, 0, 512] false) (cellBad .tile State.reset.uid 512)
     s.erred .tile State.reset.uid (tileAddr 0 0 0) 512 = false ∧ s.erred .tile State.reset.uid (tileAddr 0 1 0) 512 = true) ∧
    ∀ e ∈ ([(cellBad .weight 0 8191, 0), (cellBad .tile State.reset.uid 65535, 1), (id, 2)] : List ((State → State) × Nat)),
      let j := panelled 0x0F0 [[1#8]]
      let s := working j fun s => e.1 (imaged 0 0#12 s)
      j.data ≠ [] ∧ s.erred .weight 0 0 8192 = (e.2 == 0) ∧ s.erred .tile j.d.team 0 65536 = (e.2 == 1) ∧ teamB s j = true ∧ ¬(j.d.op = 0x0F1 ∧ j.done = j.data.length) := by
  refine ⟨fun op ho e he => ?_, fun op ho => ?_, by decide +kernel, fun e he => ?_⟩
  · simp only [List.mem_cons, List.not_mem_nil, or_false] at he ho
    rcases ho with rfl | rfl <;> rcases he with rfl | rfl <;> exact ⟨reading_of (by decide +kernel), by decide +kernel, by decide +kernel⟩
  · simp only [List.mem_cons, List.not_mem_nil, or_false] at ho
    rcases ho with rfl | rfl <;> exact ⟨reading_of (by decide +kernel), by decide +kernel, by decide +kernel⟩
  · simp only [List.mem_cons, List.not_mem_nil, or_false] at he
    rcases he with rfl | rfl | rfl <;> decide +kernel

theorem witness_MatrixEvents_waiting : ringJobs.jobFree matrixAreas ringJob = true ∧ ringJobs.arrayFree ringJob = true ∧ ringJob.suspended = false ∧
    ∃ i ∈ ringJobs.jobs, i.k = 78 ∧ i.rd = false ∧ i.stalled = false ∧ i.fault = none ∧ ringJobs.jobFree matrixAreas i = true ∧
      areasClash (ringJobs.jobAreas matrixAreas i) (ringJobs.jobAreas matrixAreas ringJob) = false := by
  decide +kernel

/-- SCONV: source and destination formats, the field of the width, and the bytes of a source unit. -/
theorem witness_CopyAndStackEvents_sconv : ∀ e ∈ ([(0, 2, 0, 128), (0, 1, 0, 128), (1, 0, 0, 64), (1, 3, 6, 64), (2, 0, 0, 10), (3, 2, 6, 34), (2, 3, 6, 34)] : List (Nat × Nat × Nat × Nat)),
    let b : Word := BitVec.ofNat 32 (e.1 * 2 ^ 20 + e.2.1 * 2 ^ 24 + e.2.2.1 * 2 ^ 28)
    let n := fld b 28 3 + 2
    let size := 4 * if fld b 20 2 = 0 then 32 else if fld b 20 2 = 1 then 16 else n
    fld b 20 2 = e.1 ∧ fld b 24 2 = e.2.1 ∧ e.2.2.2 = if fld b 20 2 < 2 then size else size + 2 := by decide

end Sys2Proof.Tests
end

section
/-! SUPPORT. What a tag-polymorphic instruction does in a lane (04_pipeline R115 to R119, 03_numbers R86): lanes whose sources agree
on an admitted tag take the element-wise result, and lanes whose sources do not trap FMT before anything is popped. -/

namespace Sys2Proof.Machine

/-! ## Lanes whose sources agree -/

theorem elem_lt (t : Tag) (w : Word) (i : Nat) : elem t w i < 2 ^ t.width := Nat.mod_lt _ (Nat.two_pow_pos _)

/-- Two operations that agree on elements of the tag's width have the same element-wise result. -/
theorem elementwise_congr {g : ElemFn} {h : List Nat → Nat × Flags} {n : NumEnv} {t : Tag}
    (hg : ∀ l : List Nat, (∀ y ∈ l, y < 2 ^ t.width) → g n t l = h l) (ws : List Word) :
    elementwise g n t ws =
      let r := pack t.width ((List.range t.elems).map fun k => h (ws.map fun w => elem t w k))
      (BitVec.ofNat 32 r.1, r.2) := by
  have hk : (fun k => g n t (ws.map fun w => elem t w k)) = fun k => h (ws.map fun w => elem t w k) := by
    funext k
    refine hg _ fun y hy => ?_
    obtain ⟨w, -, rfl⟩ := List.mem_map.mp hy
    exact elem_lt t w k
  simp only [elementwise, hk]

/-- The sources whose common tag an instruction takes: those of its fields and, where it reads d, that register. -/
def fieldsAndD (srcs : List Src) (readsD : Bool) (d : Nat) : List Src := srcs ++ if readsD then [.reg (BitVec.ofNat 6 d)] else []

/-- An admitted tag on which all sources agree: the lane writes the element-wise result and raises its flags. -/
theorem polyLane_agree {srcs : List Src} {readsD nw hd : Bool} {d i : Nat} {res : Option Tag} {adm : Tag → Bool} {g : ElemFn}
    {t : Tag} {x : Lane} (pa pb : Word) (hadm : adm t = true) (ht : t ≠ .none)
    (h : x.agree (fieldsAndD srcs readsD d) t) :
    polyLane srcs readsD d nw hd res adm g i pa pb x =
      let r := elementwise g x.env t (((fieldsAndD srcs readsD d).zip [pa, pb, 0#32]).map fun e => x.bits t e.2 e.1)
      .ok ((x.write d nw hd ⟨r.1, res.getD t⟩).raise r.2) := by
  obtain ⟨htag, hcarry⟩ := h
  have hpoly := poly_agree hadm ht ((fieldsAndD srcs readsD d).zip [pa, pb, 0#32]) fun z hz => by
    obtain ⟨e, he, rfl⟩ := List.mem_map.mp hz
    exact hcarry _ (List.of_mem_zip he).1
  simp only [fieldsAndD] at htag hpoly ⊢
  simp only [polyLane, htag, hpoly]

/-- An instruction whose lanes run `polyLane` on all its polymorphic sources completes with `h` of the elements. -/
theorem polyCompletes_of_polyLane {op : Nat} {i : RFmt → Instr} {f : RFmt} {srcs : List Src} {readsD : Bool} {res : Option Tag}
    {adm : Tag → Bool} {g : ElemFn} {t : Tag} {h : NumEnv → List Nat → Nat × Flags}
    (hexec : ∀ s, exec (i f) s = issue (slotR op f) (laneOp (slotR op f) (polyLane srcs readsD f.d.toNat f.nw f.hd res adm g)) s)
    (hsrcs : fieldsAndD srcs readsD f.d.toNat = polySrcs op f)
    (hadm : adm t = true) (ht : t ≠ .none)
    (hg : ∀ (n : NumEnv) (l : List Nat), (∀ y ∈ l, y < 2 ^ t.width) → g n t l = h n l) :
    PolyCompletes op i f t (res.getD t) h := by
  refine completes_laneOp hexec (LaneDoes.plain (fun _ pa pb x hx => ?_) fun x y hxy => agree_bare hxy _ _)
  rw [← hsrcs] at hx ⊢
  rw [polyLane_agree pa pb hadm ht hx, elementwise_congr (hg x.env)]

/-- An instruction of R115's table completes with any `h` that its element operation meets on a tag it admits. -/
theorem polyCompletes_of_polyOp {op : Nat} {i : RFmt → Instr} {f : RFmt} {readsD : Bool} {adm : Tag → Bool} {g : ElemFn} {t : Tag}
    {h : NumEnv → List Nat → Nat × Flags} (hexec : ∀ s, exec (i f) s = polyOp op f readsD adm g s) (hd : readsD = decide (op = 0x007))
    (hadm : adm t = true) (ht : t ≠ .none) (hg : ∀ (n : NumEnv) (l : List Nat), (∀ y ∈ l, y < 2 ^ t.width) → g n t l = h n l) :
    PolyCompletes op i f t t h :=
  polyCompletes_of_polyLane (res := none) hexec (by subst hd; simp [fieldsAndD, polySrcs, slotR]) hadm ht hg

/-! ## Lanes that trap -/

/-- The failures of lanes whose instruction fails with `e` where `wrong` holds and succeeds elsewhere. -/
theorem evalLanes_fails {w : Wave} {act : List Nat} {fn : LaneFn} {wrong : Lane → Bool} {e : Fail}
    (hfail : ∀ k ∈ act, ∀ x, w.lanes[k]? = some x → wrong x = true → fn k 0#32 0#32 x = .error e)
    (hok : ∀ k ∈ act, ∀ x, w.lanes[k]? = some x → wrong x = false → ∃ y, fn k 0#32 0#32 x = .ok y) :
    (evalLanes w (act.map fun k => (k, 0#32, 0#32)) fn).1 =
      (act.filter fun k => (w.lanes[k]?).any wrong).map fun k => (k, e) := by
  simp only [evalLanes, ← List.filterMap_eq_map, ← List.filterMap_eq_filter, List.filterMap_filterMap]
  refine List.filterMap_congr fun k hk => ?_
  cases hx : w.lanes[k]? with
  | none => simp [hx, Option.guard]
  | some x =>
    cases hw : wrong x with
    | true => simp [hx, hw, hfail k hk x hx hw, Option.guard]
    | false =>
      obtain ⟨y, hy⟩ := hok k hk x hx hw
      simp [hx, hw, hy, Option.guard]

/-- A slot that some lanes fail in a check before step 7 of R62 traps those lanes, with nothing popped. -/
theorem laneOp_traps {sl : Slot} {fn : LaneFn} {s : State} {v : View} {fails : List (Nat × Fail)} (hw : s.wave? v.w.uid = some v.w)
    (hf : (evalLanes v.w (v.act.map fun k => (k, 0#32, 0#32)) fn).1 = fails) (hearly : ∀ e ∈ fails, e.2.late = false)
    (hne : fails ≠ []) : laneOp sl fn s v = s.trapLanes v sl fails := by
  obtain ⟨e, es, rfl⟩ := List.exists_cons_of_ne_nil hne
  unfold laneOp laneOpPost withPops
  split
  · simp only [hw, hf]
  · have hall : (e :: es).filter (fun e => !e.2.late) = e :: es := List.filter_eq_self.mpr fun a ha => by simp [hearly a ha]
    simp only [hf, hall]

/-- A source that the checks of steps 3 and 4 of R62 let pass in a lane: no missing literal, no reserved value, no empty latch. -/
structure Lane.Supplies (x : Lane) (z : Src) : Prop where
  lit : srcLitOk z = true
  known : srcReserved z = false
  held : laneSrcBad x z = false

theorem literals_and_sources_of_checkWord {s : State} {v : View} {sl : Slot} (h : checkWord s v sl = none) :
    sl.litOk = true ∧ sl.srcs.any srcReserved = false := by
  unfold checkWord at h
  split_ifs at h with _ _ _ _ _ hlit _ hsrc
  exact ⟨by simpa using hlit, Bool.eq_false_of_not_eq_true hsrc⟩

/-- Where an R-format slot issues, every active lane supplies its sources. -/
theorem Issues.supplies {s : State} {v : View} {op : Nat} {f : RFmt} (h : Issues s v (slotR op f)) {k : Nat} (hk : k ∈ v.act)
    {x : Lane} (hx : v.w.lanes[k]? = some x) {z : Src} (hz : z ∈ usedSrcs op f) : x.Supplies z where
  lit := List.all_eq_true.mp (literals_and_sources_of_checkWord h.word).1 z hz
  known := by simpa using List.any_eq_false.mp (literals_and_sources_of_checkWord h.word).2 z hz
  held := h.srcs k hk (fun hlow => by cases hlow) x hx z hz

/-- A supplied source reads with its own tag, or with the consuming format's where it has none; only an inline integer in a format
that takes none fails, by FMT. -/
theorem Lane.Supplies.src {x : Lane} {z : Src} (h : x.Supplies z) (t : Tag) (p : Word) :
    (∃ r, x.src t p z = .ok r ∧ r.tag = (x.srcTag z).getD t) ∨ (x.src t p z = .error failFmt ∧ t.cls ≠ .int ∧ t.cls ≠ .flt) := by
  obtain ⟨hlit, hknown, hheld⟩ := h
  cases z with
  | reg r => exact .inl ⟨_, rfl, rfl⟩
  | port q => exact .inl ⟨_, rfl, rfl⟩
  | latch k =>
    cases hr : x.latch k with
    | none => simp [laneSrcBad, hr] at hheld
    | some r => exact .inl ⟨r, by simp [Lane.src, hr], by simp [Lane.srcTag, hr]⟩
  | lit w =>
    cases w with
    | none => cases hlit
    | some w => exact .inl ⟨_, rfl, rfl⟩
  | rsv q => cases hknown
  | inl v =>
    cases hb : inlineBits t v with
    | some w => exact .inl ⟨⟨w, t⟩, by simp only [Lane.src, hb], rfl⟩
    | none => exact .inr ⟨by simp only [Lane.src, hb], fun hc => by simp [inlineBits, hc] at hb, fun hc => by simp [inlineBits, hc] at hb⟩

/-- Supplied sources one of which carries another tag, or all of which carry one that is not admitted, fail by FMT. -/
theorem poly_fmt {x : Lane} {adm : Tag → Bool} {t : Tag} : ∀ l : List (Src × Word), (∀ e ∈ l, x.Supplies e.1) →
    (l.any fun e => !adm t || (x.srcTag e.1).any (· != t)) = true → x.poly adm t l = .error failFmt
  | [], _, h => by cases h
  | (z, p) :: l, hl, h => by
    rcases (hl _ List.mem_cons_self).src t p with ⟨r, hr, htag⟩ | ⟨hr, -⟩
    · by_cases hbad : (r.tag ≠ t || t = .none || !adm t) = true
      · simp only [Lane.poly, hr, if_pos hbad]
      · simp only [Bool.or_eq_true, decide_eq_true_eq, Bool.not_eq_true', not_or, ne_eq, not_not] at hbad
        obtain ⟨⟨hrt, -⟩, hadm⟩ := hbad
        have hhead : (x.srcTag z).any (· != t) = false := by
          cases hz : x.srcTag z with
          | none => rfl
          | some u => simpa [hz, hrt] using htag.symm
        have htail := poly_fmt (adm := adm) (t := t) l (fun e he => hl e (List.mem_cons_of_mem _ he)) (by simpa [hadm, hhead] using h)
        simp [Lane.poly, hr, htail]
    · simp only [Lane.poly, hr]

/-- Supplied sources none of which carries another tag than the common one agree on it, where it is of integers or floating point. -/
theorem agree_of_supplies {x : Lane} {srcs : List Src} (hs : ∀ z ∈ srcs, x.Supplies z)
    (ht : (x.polyTag srcs).cls = .int ∨ (x.polyTag srcs).cls = .flt)
    (h : (srcs.any fun z => (x.srcTag z).any (· != x.polyTag srcs)) = false) : x.agree srcs (x.polyTag srcs) := by
  refine ⟨rfl, fun z hz => ?_⟩
  rcases (hs z hz).src (x.polyTag srcs) 0#32 with ⟨r, hr, htag⟩ | ⟨-, hint, hflt⟩
  · refine ⟨r, hr, htag.trans ?_⟩
    have hz' := List.any_eq_false.mp h z hz
    cases hu : x.srcTag z with
    | none => rfl
    | some u => simpa [hu] using hz'
  · exact absurd ht (not_or.mpr ⟨hint, hflt⟩)

/-- R86: an instruction of two polymorphic sources on integers or floating point traps FMT in the lanes where they carry different
tags or one that is not admitted. -/
theorem polyLane_traps {op : Nat} {f : RFmt} {d : Nat} {nw hd : Bool} {res : Option Tag} {adm : Tag → Bool} {g : ElemFn} {s : State}
    {v : View} (h : Issues s v (slotR op f)) (hused : usedSrcs op f = [f.a, f.b]) (hadm : ∀ t, adm t = true → t.cls = .int ∨ t.cls = .flt)
    {wrong : Lane → Bool}
    (hwrong : ∀ x, wrong x = (!adm (x.polyTag [f.a, f.b]) || [f.a, f.b].any fun z => (x.srcTag z).any (· != x.polyTag [f.a, f.b])))
    {bad : List Nat} (hbad : bad = v.act.filter fun k => (v.w.lanes[k]?).any wrong) (hne : bad ≠ []) :
    issue (slotR op f) (laneOp (slotR op f) (polyLane [f.a, f.b] false d nw hd res adm g)) s =
      .next (s.trapLanes v (slotR op f) (bad.map fun k => (k, failFmt))) := by
  have hsup : ∀ k ∈ v.act, ∀ x, v.w.lanes[k]? = some x → ∀ z ∈ [f.a, f.b], x.Supplies z := fun k hk x hx z hz =>
    h.supplies hk hx (hused ▸ hz)
  have hfails : (evalLanes v.w (v.act.map fun k => (k, 0#32, 0#32)) (polyLane [f.a, f.b] false d nw hd res adm g)).1 =
      bad.map fun k => (k, failFmt) := by
    rw [hbad]
    refine evalLanes_fails (fun k hk x hx hw => ?_) fun k hk x hx hw => ?_
    · rw [hwrong] at hw
      have hfmt : x.poly adm (x.polyTag [f.a, f.b]) [(f.a, 0#32), (f.b, 0#32)] = .error failFmt :=
        poly_fmt _ (by simpa using hsup k hk x hx) (by
          simp only [List.any_cons, List.any_nil, Bool.or_false, Bool.or_eq_true] at hw ⊢
          tauto)
      simp [polyLane, hfmt]
    · rw [hwrong, Bool.or_eq_false_iff, Bool.not_eq_false'] at hw
      obtain ⟨ha, hsame⟩ := hw
      have hcls := hadm _ ha
      have hagree := agree_of_supplies (hsup k hk x hx) hcls hsame
      have hnone : x.polyTag [f.a, f.b] ≠ .none := fun e => by simp [e, Tag.cls] at hcls
      exact ⟨_, polyLane_agree (readsD := false) 0#32 0#32 ha hnone (by simpa [fieldsAndD] using hagree)⟩
  rw [h.next, laneOp_traps h.wave hfails (fun e he => ?_) (by simpa using hne)]
  obtain ⟨k, -, rfl⟩ := List.mem_map.mp he
  rfl

end Sys2Proof.Machine
end

section
/-! PROOFS. Comparisons: the rows of the table as the model performs them (04_pipeline R122). -/

namespace Sys2Proof.Machine

theorem admitI_iff {t : Tag} : admitI t = true ↔ t.cls = .int := by simp [admitI]

theorem admitF_iff {t : Tag} : admitF t = true ↔ t.cls = .flt := by simp [admitF]

theorem admitIF_iff {t : Tag} : admitIF t = true ↔ t.cls = .int ∨ t.cls = .flt := by simp [admitIF]

theorem headD_eq_getD {α : Type} (l : List α) (a : α) : l.headD a = l.getD 0 a := by cases l <;> rfl

theorem two_eq (l : List Nat) : two l = (l.getD 0 0, l.getD 1 0) := by
  rcases l with _ | ⟨x, _ | ⟨y, l⟩⟩ <;> rfl

/-! ## The model's relations, by class of tag -/

section
variable {n : NumEnv} {t : Tag} {x y : Nat}

theorem eqRel_int (h : t.cls = .int) : eqRel n t x y = (decide (x = y), 0#6) := by
  simp [eqRel, h, Bool.beq_eq_decide_eq]

theorem eqRel_flt (h : t.cls = .flt) : eqRel n t x y = ((t.fmt.decode n.ftz x).eqv (t.fmt.decode n.ftz y), 0#6) := by
  simp [eqRel, h, fltVal]

theorem ltRel_int (h : t.cls = .int) : ltRel n t x y = (decide (toSigned t.width x < toSigned t.width y), 0#6) := by
  simp [ltRel, h]

theorem leRel_int (h : t.cls = .int) : leRel n t x y = (decide (toSigned t.width x ≤ toSigned t.width y), 0#6) := by
  simp [leRel, h]

/-- Two values have no order exactly where one is a NaN. -/
theorem less_isNone (a b : Val) : (a.less b).isNone = (a == .nan || b == .nan) := by
  cases a <;> cases b <;> rfl

theorem unordered_eq : unordered n t x y = (t.fmt.decode n.ftz x == .nan || t.fmt.decode n.ftz y == .nan) := less_isNone _ _

theorem ltRel_flt (h : t.cls = .flt) : ltRel n t x y = ((t.fmt.decode n.ftz x).ltv (t.fmt.decode n.ftz y),
    flagIf (t.fmt.decode n.ftz x == .nan || t.fmt.decode n.ftz y == .nan) flagInv) := by
  simp [ltRel, h, fltVal, unordered_eq]

theorem leRel_flt (h : t.cls = .flt) : leRel n t x y =
    ((t.fmt.decode n.ftz x).ltv (t.fmt.decode n.ftz y) || (t.fmt.decode n.ftz x).eqv (t.fmt.decode n.ftz y),
      flagIf (t.fmt.decode n.ftz x == .nan || t.fmt.decode n.ftz y == .nan) flagInv) := by
  simp [leRel, h, fltVal, unordered_eq]

end

/-! ## The comparisons as the model performs them -/

/-- A comparison's opcode, constructor, admitted tags and relation. -/
abbrev CmpArm := Nat × (RFmt → Instr) × (Tag → Bool) × RelFn

/-- The seven comparisons with the tags and the relation that the model gives each (`exec_of_mem_cmpArms`). -/
def cmpArms : List CmpArm := [
  (0x020, .cmpEq, admitIF, eqRel), (0x021, .cmpNe, admitIF, neRel), (0x022, .cmpLt, admitIF, ltRel), (0x023, .cmpLe, admitIF, leRel),
  (0x024, .cmpLtu, admitI, fun _ _ x y => (x < y, 0#6)), (0x025, .cmpLeu, admitI, fun _ _ x y => (x ≤ y, 0#6)),
  (0x026, .cmpUn, admitF, fun e t x y => (unordered e t x y, 0#6))]

section
variable {a : CmpArm} (ha : a ∈ cmpArms)
include ha

theorem exec_of_mem_cmpArms (f : RFmt) (s : State) : exec (a.2.1 f) s = cmpOp a.1 f a.2.2.1 a.2.2.2 s := by
  simp only [cmpArms, List.mem_cons, List.not_mem_nil, or_false] at ha
  rcases ha with rfl | rfl | rfl | rfl | rfl | rfl | rfl <;> rfl

/-- A comparison reads both source fields and no register d. -/
theorem sources_of_mem_cmpArms (f : RFmt) : usedSrcs a.1 f = [f.a, f.b] ∧ polySrcs a.1 f = [f.a, f.b] := by
  simp only [cmpArms, List.mem_cons, List.not_mem_nil, or_false] at ha
  rcases ha with rfl | rfl | rfl | rfl | rfl | rfl | rfl <;> exact ⟨rfl, rfl⟩

theorem cls_of_mem_cmpArms {t : Tag} (ht : a.2.2.1 t = true) : t.cls = .int ∨ t.cls = .flt := by
  simp only [cmpArms, List.mem_cons, List.not_mem_nil, or_false] at ha
  rcases ha with rfl | rfl | rfl | rfl | rfl | rfl | rfl
  · exact admitIF_iff.mp ht
  · exact admitIF_iff.mp ht
  · exact admitIF_iff.mp ht
  · exact admitIF_iff.mp ht
  · exact .inl (admitI_iff.mp ht)
  · exact .inl (admitI_iff.mp ht)
  · exact .inr (admitF_iff.mp ht)

/-- A comparison completes with the mask of any relation that agrees with the model's on the sources' tag. -/
theorem polyCompletes_of_mem_cmpArms (f : RFmt) {t : Tag} {rel : RelFn} (ht : a.2.2.1 t = true)
    (hrel : ∀ n x y, a.2.2.2 n t x y = rel n t x y) :
    PolyCompletes a.1 a.2.1 f t .i32 fun n l =>
      let r := rel n t (l.headD 0) (l.getD 1 0)
      (if r.1 then 2 ^ t.width - 1 else 0, r.2) := by
  have hnone : t ≠ .none := by
    rintro rfl
    simpa [Tag.cls] using cls_of_mem_cmpArms ha ht
  exact polyCompletes_of_polyLane (res := some .i32) (exec_of_mem_cmpArms ha f) (sources_of_mem_cmpArms ha f).2.symm ht hnone fun n l _ => by
    simp only [two_eq, headD_eq_getD, hrel]

end

/-- A row of the table is performed by the model's comparison, with the row's relation on every tag that the row admits. -/
structure CmpArm.Performs (a : CmpArm) (e : CmpArm) : Prop where
  mem : a ∈ cmpArms
  op : a.1 = e.1
  ctor : a.2.1 = e.2.1
  admits : ∀ t, e.2.2.1 t = true → a.2.2.1 t = true
  rel : ∀ t, e.2.2.1 t = true → ∀ n x y, a.2.2.2 n t x y = e.2.2.2 n t x y

theorem exists_performs {e : CmpArm} (he : e ∈ cmpTable) : ∃ a : CmpArm, a.Performs e := by
  have int {t : Tag} (ht : admitI t = true) : admitIF t = true := admitIF_iff.mpr (.inl (admitI_iff.mp ht))
  have flt {t : Tag} (ht : admitF t = true) : admitIF t = true := admitIF_iff.mpr (.inr (admitF_iff.mp ht))
  simp only [cmpTable, List.mem_cons, List.not_mem_nil, or_false] at he
  rcases he with rfl | rfl | rfl | rfl | rfl | rfl | rfl | rfl | rfl | rfl | rfl
  · exact ⟨(0x020, .cmpEq, admitIF, eqRel), by simp [cmpArms], rfl, rfl, fun t => int, fun t ht n x y => eqRel_int (admitI_iff.mp ht)⟩
  · exact ⟨(0x021, .cmpNe, admitIF, neRel), by simp [cmpArms], rfl, rfl, fun t => int, fun t ht n x y => by
      simp [neRel, eqRel_int (admitI_iff.mp ht)]⟩
  · exact ⟨(0x022, .cmpLt, admitIF, ltRel), by simp [cmpArms], rfl, rfl, fun t => int, fun t ht n x y => ltRel_int (admitI_iff.mp ht)⟩
  · exact ⟨(0x023, .cmpLe, admitIF, leRel), by simp [cmpArms], rfl, rfl, fun t => int, fun t ht n x y => leRel_int (admitI_iff.mp ht)⟩
  · exact ⟨_, by simp [cmpArms], rfl, rfl, fun t ht => ht, fun t ht n x y => rfl⟩
  · exact ⟨_, by simp [cmpArms], rfl, rfl, fun t ht => ht, fun t ht n x y => rfl⟩
  · exact ⟨(0x020, .cmpEq, admitIF, eqRel), by simp [cmpArms], rfl, rfl, fun t => flt, fun t ht n x y => eqRel_flt (admitF_iff.mp ht)⟩
  · exact ⟨(0x021, .cmpNe, admitIF, neRel), by simp [cmpArms], rfl, rfl, fun t => flt, fun t ht n x y => by
      simp [neRel, eqRel_flt (admitF_iff.mp ht)]⟩
  · exact ⟨(0x022, .cmpLt, admitIF, ltRel), by simp [cmpArms], rfl, rfl, fun t => flt, fun t ht n x y => ltRel_flt (admitF_iff.mp ht)⟩
  · exact ⟨(0x023, .cmpLe, admitIF, leRel), by simp [cmpArms], rfl, rfl, fun t => flt, fun t ht n x y => leRel_flt (admitF_iff.mp ht)⟩
  · exact ⟨(0x026, .cmpUn, admitF, fun e t x y => (unordered e t x y, 0#6)), by simp [cmpArms], rfl, rfl, fun t ht => ht, fun t _ n x y => by
      simp only [unordered_eq]⟩

/-- Settles O2: each row of the table is one of the model's comparisons, whose lanes write masks where their sources agree on an
admitted tag and trap FMT where they do not. -/
theorem comparisons : Obligations.Comparisons := by
  unfold Obligations.Comparisons
  refine ⟨fun f t e he ht => ?_, fun e he f s v hs => ?_⟩
  · obtain ⟨a, ha, hop, hctor, hadm, hrel⟩ := exists_performs he
    rw [← hop, ← hctor]
    exact polyCompletes_of_mem_cmpArms ha f (hadm t ht) (hrel t ht)
  · intro wrong bad hne
    obtain ⟨a, ha, rfl⟩ : ∃ a ∈ cmpArms, (a.1, a.2.1, a.2.2.1) = e :=
      List.mem_map.mp (show e ∈ cmpArms.map fun a => (a.1, a.2.1, a.2.2.1) from he)
    rw [exec_of_mem_cmpArms ha]
    exact polyLane_traps hs (sources_of_mem_cmpArms ha f).1 (fun t => cls_of_mem_cmpArms ha) (fun _ => rfl) rfl hne

end Sys2Proof.Machine
end

section
/-! PROOFS. Block and scale arithmetic: results of mantissas that clamp, and MIN and MAX of scales (04_pipeline R119). -/

namespace Sys2Proof.Machine

/-! ## Signed elements -/

theorem width_pos (t : Tag) : 0 < t.width := by cases t <;> decide

theorem nth_map_toSigned (w : Nat) (l : List Nat) (k : Nat) : nth (l.map (toSigned w)) k = toSigned w (l.getD k 0) := by
  have hzero : (0 : Int) = toSigned w 0 := by simp [toSigned]
  unfold nth
  rw [hzero, List.getD_map]

theorem getD_lt_two_pow {l : List Nat} {w : Nat} (h : ∀ y ∈ l, y < 2 ^ w) (k : Nat) : l.getD k 0 < 2 ^ w := by
  rw [List.getD_eq_getElem?_getD]
  cases hk : l[k]? with
  | none => exact Nat.two_pow_pos w
  | some y => exact h y (List.mem_of_getElem? hk)

theorem wrap_toSigned {w n : Nat} (h : n < 2 ^ w) : wrap w (toSigned w n) = n := by
  have hn : (n : Int) % (2 ^ w : Nat) = n := Int.emod_eq_of_lt (Int.natCast_nonneg n) (by exact_mod_cast h)
  have hsub : ((n : Int) - 2 ^ w) % (2 ^ w : Nat) = n := by
    rw [← hn]
    simp
  unfold wrap toSigned
  split
  · rw [hn, Int.toNat_natCast]
  · rw [hsub, Int.toNat_natCast]

/-- A signed element of width `w` lies within its limits. -/
theorem clamp_toSigned {w n : Nat} (hw : 0 < w) (h : n < 2 ^ w) : clamp w (toSigned w n) = (toSigned w n, false) := by
  obtain ⟨k, rfl⟩ : ∃ k, w = k + 1 := ⟨w - 1, by omega⟩
  have hcast : ((2 ^ k : Nat) : Int) = 2 ^ k := by push_cast; rfl
  have hrange : -(2 ^ k : Int) ≤ toSigned (k + 1) n ∧ toSigned (k + 1) n ≤ 2 ^ k - 1 := by
    unfold toSigned
    rw [pow_succ] at h ⊢
    simp only [Nat.add_sub_cancel]
    split <;> constructor <;> omega
  simp only [clamp, Nat.add_sub_cancel]
  rw [if_neg (by omega), if_neg (by omega)]

/-- The operand that MIN (`mx` false) or MAX picks by a key has the least or the greatest key. -/
theorem apply_pick {α β : Type} [LinearOrder β] (key : α → β) (mx : Bool) (x y : α) :
    key (if decide (key x < key y) != mx then x else y) = (if mx then max else min) (key x) (key y) := by
  rcases lt_or_ge (key x) (key y) with hlt | hge
  · cases mx <;> simp [hlt, hlt.le]
  · cases mx <;> simp [not_lt.mpr hge, hge]

/-! ## Results on blocks -/

section
variable {n : NumEnv} {t : Tag} {l : List Nat}

/-- R119's result of an exact mantissa: clamped to the width, with SAT where that changes it. -/
def clamped (t : Tag) (i : Int) : Nat × Flags := (wrap t.width (clamp t.width i).1, flagIf (clamp t.width i).2 flagSat)

theorem intResult_blk (h : t.cls = .blk) (i : Int) : intResult t i = clamped t i := by
  simp [intResult, clamped, h]

/-- A mantissa that an element holds is its own clamped result, with no flag. -/
theorem clamped_toSigned {x : Nat} (hx : x < 2 ^ t.width) : clamped t (toSigned t.width x) = (x, 0#6) := by
  simp [clamped, clamp_toSigned (width_pos t) hx, wrap_toSigned hx, flagIf]

theorem addElem_blk (h : t.cls = .blk) :
    addElem n t l = clamped t (nth (l.map (toSigned t.width)) 0 + nth (l.map (toSigned t.width)) 1) := by
  simp only [addElem, h, two_eq, nth_map_toSigned, intResult_blk h, reduceCtorEq, if_false]

theorem subElem_blk (h : t.cls = .blk) :
    subElem n t l = clamped t (nth (l.map (toSigned t.width)) 0 - nth (l.map (toSigned t.width)) 1) := by
  simp only [subElem, h, two_eq, nth_map_toSigned, intResult_blk h, reduceCtorEq, if_false]

theorem negElem_blk (h : t.cls = .blk) : negElem n t l = clamped t (-nth (l.map (toSigned t.width)) 0) := by
  simp only [negElem, h, headD_eq_getD, nth_map_toSigned, intResult_blk h, reduceCtorEq, if_false]

/-- MIN and MAX choose one of two mantissas, which the width holds. -/
theorem minmaxElem_blk (h : t.cls = .blk) (hl : ∀ y ∈ l, y < 2 ^ t.width) (mx : Bool) :
    minmaxElem mx n t l = clamped t ((if mx then max else min) (nth (l.map (toSigned t.width)) 0) (nth (l.map (toSigned t.width)) 1)) := by
  simp only [minmaxElem, h, two_eq, nth_map_toSigned]
  rw [← apply_pick, clamped_toSigned]
  split
  · exact getD_lt_two_pow hl 0
  · exact getD_lt_two_pow hl 1

end

/-! ## Results on SCALE -/

/-- MIN, MAX, MINU and MAXU compare the low nine bits. -/
theorem minmaxElem_scale (mx : Bool) (n : NumEnv) (l : List Nat) :
    minmaxElem mx n .scale l = ((if mx then max else min) (l.headD 0 % 512) (l.getD 1 0 % 512), 0#6) := by
  simp only [minmaxElem, Tag.cls, two_eq, headD_eq_getD]
  exact congrArg (·, 0#6) (apply_pick id mx _ _)

theorem minmaxuElem_scale (mx : Bool) (n : NumEnv) (l : List Nat) :
    minmaxuElem mx n .scale l = ((if mx then max else min) (l.headD 0 % 512) (l.getD 1 0 % 512), 0#6) := by
  simp only [minmaxuElem, two_eq, headD_eq_getD, if_true]
  exact congrArg (·, 0#6) (apply_pick id mx _ _)

/-- Settles O3: each row of the tables is one instruction of R115, whose element operation clamps on blocks and compares nine bits on
SCALE. -/
theorem blockArithmeticClamps : Obligations.BlockArithmeticClamps := by
  unfold Obligations.BlockArithmeticClamps
  refine fun f => ⟨fun t ht e he => ?_, fun e he => ?_⟩
  · have hnone : t ≠ .none := fun h => by simp [h, Tag.cls] at ht
    have hadm : admitIFB t = true := by simp [admitIFB, ht]
    have hadms : admitIFBS t = true := by simp [admitIFBS, hadm]
    simp only [blkTable, List.mem_cons, List.not_mem_nil, or_false] at he
    rcases he with rfl | rfl | rfl | rfl | rfl
    · exact polyCompletes_of_polyOp (fun _ => rfl) rfl hadm hnone fun n l _ => addElem_blk ht
    · exact polyCompletes_of_polyOp (fun _ => rfl) rfl hadm hnone fun n l _ => subElem_blk ht
    · exact polyCompletes_of_polyOp (fun _ => rfl) rfl hadm hnone fun n l _ => negElem_blk ht
    · exact polyCompletes_of_polyOp (fun _ => rfl) rfl hadms hnone fun n l hl => minmaxElem_blk ht hl false
    · exact polyCompletes_of_polyOp (fun _ => rfl) rfl hadms hnone fun n l hl => minmaxElem_blk ht hl true
  · simp only [scaleTable, List.mem_cons, List.not_mem_nil, or_false] at he
    rcases he with rfl | rfl | rfl | rfl
    · exact polyCompletes_of_polyOp (fun _ => rfl) rfl rfl (by decide) fun n l _ => minmaxElem_scale false n l
    · exact polyCompletes_of_polyOp (fun _ => rfl) rfl rfl (by decide) fun n l _ => minmaxElem_scale true n l
    · exact polyCompletes_of_polyOp (fun _ => rfl) rfl rfl (by decide) fun n l _ => minmaxuElem_scale false n l
    · exact polyCompletes_of_polyOp (fun _ => rfl) rfl rfl (by decide) fun n l _ => minmaxuElem_scale true n l

end Sys2Proof.Machine
end
